-- ==== Sys2Proof/Word.lean ====
section
/-! DEFINITION. The words of the part: bytes, the 16-bit words of the exchange port, and the 32-bit completion number. -/

namespace Sys2Proof

/-- One byte of the exchange memory (10 section 10.1). -/
abbrev Byte := BitVec 8

/-- One word of the exchange port (10 section 10.1). -/
abbrev Word16 := BitVec 16

/-- The completion number (10 section 10.4). -/
abbrev Word32 := BitVec 32

end Sys2Proof
end

