-- ==== Sys2Proof/Syntax.lean ====
section
/-! DEFINITION. The commands of the part: one constructor of `Instr` for each row of spec/opcode_table.json. The first operand of every command is its time on the 1 µs count (log 1). -/

namespace Sys2Proof

/-- Desk input line DIN0 to DIN3. -/
abbrev LineId := Fin 4

/-- A target, 0 to 7. -/
abbrev TargetId := Fin 8

/-- A screen, 0 to 5. -/
abbrev ScreenId := Fin 6

/-- A head numbered n = 2t for head A of target t and 2t + 1 for head B (10 section 10.1). -/
abbrev HeadId := Fin 16

/-- A command cell, 0 to 15. -/
abbrev CellId := Fin 16

/-- A panel position, 0 to 23 (09 section 9.1). -/
abbrev PosId := Fin 24

/-- The screen's answer to a byte that the unit sends on its bus (R123): acknowledged or not, with the µs for which the screen held the clock low at it. -/
structure BusAnswer where
  ack : Bool
  low : Nat
  deriving DecidableEq, Repr

/-- What a screen's bus delivers when one block is read (R123): the answer to the screen's address, whenever it is sent for this block, the answer to the offset byte, and the 128 bytes, each with the µs for which the screen held the clock low at it. -/
structure BlockAnswer where
  address : BusAnswer
  offset : BusAnswer
  bytes : Vector (Byte × Nat) 128
  deriving DecidableEq, Repr

/-- What a screen's bus delivers in one attempt of a read (R123): the two blocks; block 1 is asked for only when block 0 is intact. -/
structure ReadResult where
  block0 : BlockAnswer
  block1 : BlockAnswer
  deriving DecidableEq, Repr

/-- The port registers whose writes are ignored (R170). -/
inductive IgnoredReg where
  | status
  | ident
  deriving DecidableEq, Repr

/-- The commands, one for each row of spec/opcode_table.json. -/
inductive Instr where
  -- desk frames: line, length byte, payload bytes that arrived, check byte
  | announce (t : Nat) (line : LineId) (len : Byte) (payload : List Byte) (check : Byte)
  | keys (t : Nat) (line : LineId) (len : Byte) (payload : List Byte) (check : Byte)
  | motion (t : Nat) (line : LineId) (len : Byte) (payload : List Byte) (check : Byte)
  | gone (t : Nat) (line : LineId) (len : Byte) (payload : List Byte) (check : Byte)
  | lineResetEnd (t : Nat) (line : LineId)
  -- target lines
  | presentRises (t : Nat) (k : TargetId)
  | presentFalls (t : Nat) (k : TargetId)
  | suspendIndication (t : Nat) (k : TargetId)
  | slotStart (t : Nat) (k : TargetId) (take : Bool)
  | transmissionComplete (t : Nat) (k : TargetId)
  | resumeSignalEnd (t : Nat) (k : TargetId)
  -- cursor engine
  | layoutLoad (t : Nat) (cell : CellId)
  | deskSet (t : Nat) (cell : CellId)
  | dwellDeadlineExpiry (t : Nat)
  -- focus controller
  | focus (t : Nat) (cell : CellId)
  | pin (t : Nat) (cell : CellId)
  -- hotkey matcher
  | leaderDeadlineExpiry (t : Nat)
  | hotkeysLoad (t : Nat) (cell : CellId)
  | leaderSet (t : Nat) (cell : CellId)
  -- screen composer
  | frameBoundary (t : Nat) (sc : ScreenId)
  | planSet (t : Nat) (cell : CellId)
  | share (t : Nat) (cell : CellId)
  | restore (t : Nat) (cell : CellId)
  -- head signal monitor
  | syncEdge (t : Nat) (h : HeadId)
  | absenceDeadlineExpiry (t : Nat) (h : HeadId)
  -- display identity unit
  | screenPresenceInputChange (t : Nat) (sc : ScreenId) (level : Bool)
  | presenceDebounceExpiry (t : Nat) (sc : ScreenId)
  | readAttemptEnd (t : Nat) (sc : ScreenId) (result : ReadResult)
  | readRetryExpiry (t : Nat) (sc : ScreenId)
  | identReread (t : Nat) (cell : CellId)
  | identServe (t : Nat) (cell : CellId)
  | copyEnd (t : Nat) (h : HeadId)
  | announceExpiry (t : Nat) (h : HeadId)
  | headTransactionStart (t : Nat) (h : HeadId) (addr : BitVec 7)
  | headOffsetWrite (t : Nat) (h : HeadId) (value : Byte)
  | headByteRead (t : Nat) (h : HeadId)
  | headTransactionStop (t : Nat) (h : HeadId)
  | headBusIdleExpiry (t : Nat) (h : HeadId)
  -- power supervisor
  | powerSample (t : Nat) (result : Int)
  | targetSetup (t : Nat) (cell : CellId)
  | wake (t : Nat) (cell : CellId)
  | pulseDelayEnd (t : Nat) (k : TargetId)
  | pulseEnd (t : Nat) (k : TargetId)
  | wakeWindowExpiry (t : Nat) (k : TargetId)
  -- panel scanner
  | panelSlot (t : Nat) (levels : BitVec 6)
  | longPressExpiry (t : Nat) (p : PosId)
  | tallyPeriodEnd (t : Nat) (sc : ScreenId)
  | panelMapLoad (t : Nat) (cell : CellId)
  | indicatorSet (t : Nat) (cell : CellId)
  -- exchange port and sweeper
  | hostMemoryWrite (t : Nat) (addr : BitVec 14) (value : Word16)
  | heldAccessRelease (t : Nat)
  | summaryClear (t : Nat) (word : Fin 16) (value : Word16)
  | attention (t : Nat) (value : Word16)
  | lineControl (t : Nat) (value : Word16)
  | registerWriteIgnored (t : Nat) (reg : IgnoredReg) (value : Word16)
  | sweepTimerExpiry (t : Nat)
  | unknownKind (t : Nat) (cell : CellId)
  -- reset and restart
  | restart (t : Nat) (cell : CellId)
  | powerOnReset (t : Nat)
  | clearDone (t : Nat)
  | resetRelease (t : Nat) (screens targets : BitVec 3) (glide : Bool) (present : BitVec 8)
  | deskFrameBadKind (t : Nat) (line : LineId) (kind len : Byte) (payload : List Byte) (check : Byte)
  deriving DecidableEq, Repr

end Sys2Proof
end

