-- ==== Sys2Proof/Config.lean ====
section
/-! DEFINITION. What the part fixes: durations in microseconds, addresses, codes and limits, each with the rule that gives it. The spec leaves no value that the part stores open, so there is no free value here. -/

namespace Sys2Proof.Config

/-- Milliseconds as microseconds (00 section 0.5). -/
def ms (n : Nat) : Nat := n * 1000

/-- The line reset condition is driven for 10 ms (R1). -/
def lineReset : Nat := ms 10

/-- The resume signal is driven for 20 ms (R16). -/
def resumeSignal : Nat := ms 20

/-- The absence deadline lies 100 ms after the edge (R110). -/
def absence : Nat := ms 100

/-- The screen presence input is taken when steady for 50 ms (R121). -/
def presenceDebounce : Nat := ms 50

/-- A screen that holds the clock of its bus low for more than 10 ms fails an attempt (R123). -/
def clockLow : Nat := ms 10

/-- A read is retried 100 ms after a failure (R124). -/
def readRetry : Nat := ms 100

/-- A copy into a head's store runs for 1,000 µs (R129). -/
def copyTime : Nat := 1000

/-- ANNOUNCING lasts 200 ms (R130). -/
def announce : Nat := ms 200

/-- A head bus idle for 25 ms ends its transaction (R127). -/
def busIdle : Nat := ms 25

/-- A key DOWN for 1000 ms becomes HELD (R156). -/
def longPress : Nat := ms 1000

/-- The responder address (R127). -/
def responderAddress : BitVec 7 := 0x50#7

/-- No output queue holds more than 4 reports (R17). -/
def queueCapacity : Nat := 4

/-- Counts of bad frames and of collapsed reports saturate here (R2, R19). -/
def saturation : Nat := 255

/-- A read makes at most 3 attempts (R124). -/
def readAttempts : Nat := 3

/-- The IDENT register (R170). -/
def identWord : Word16 := 0x0186#16

/-- First byte of the notice area (10 section 10.5). -/
def noticeBase : Nat := 0x0400

/-- First byte after the notice summary and its unused bytes (10 section 10.5). -/
def summaryEnd : Nat := 0x0420

/-- First byte of the port registers (10 section 10.2). -/
def portBase : Nat := 0x7FF8

/-- The placement block (R182). -/
def placementBase : Nat := 0x0C00

/-- The target setup block (R182). -/
def setupBase : Nat := 0x0D00

/-- The hotkey table block (R182). -/
def hotkeyBase : Nat := 0x0E00

/-- The panel map block (R182). -/
def panelMapBase : Nat := 0x1000

/-- The screen identity images (10 section 10.1). -/
def imageBase : Nat := 0x2000

/-- The head image slots (10 section 10.1). -/
def slotBase : Nat := 0x2600

/-- How many requests and reports the focus controller takes within one step at most; log 14 gives the bound the rules set, which is far below. -/
def inboxFuel : Nat := 200

/-- The pace of a command for which none is listed: more visits and restart steps than a sweep, the restarts of its cells and the sweeps after them need (log 4). -/
def wholePace : Nat := 512

end Sys2Proof.Config
end

