-- ==== Sys2Proof/Machine/State.lean ====
section
/-! DEFINITION. The state of the part as plain data, one record for each block, the values each block takes at the release of RESET_N, and the state right after reset. -/

namespace Sys2Proof.Machine

open Sys2Proof

/-! ## Run state, sweeps and mirrors -/

/-- Run state (R170); RESTARTING holds the cell of its RESTART and how many of the steps of R185 are done (log 4). -/
inductive RunState where
  | starting
  | running
  | restarting (c : CellId) (step : Fin 9)
  deriving DecidableEq, Repr

/-- Sweep state (R174); SWEEPING holds the cell visited next (R175). -/
inductive SweepState where
  | idle
  | sweeping (next : CellId)
  deriving DecidableEq, Repr

/-- Sweep period (R171). -/
inductive SweepPeriod where
  | off
  | ms1
  | ms2
  | ms5
  | ms10
  deriving DecidableEq, Repr

/-- The straps as taken at the release of RESET_N (R183): 1 to 6 screens, 1 to 8 targets, glide default. -/
structure Straps where
  screens : Nat
  targets : Nat
  glide : Bool
  deriving DecidableEq, Repr

/-- The exchange memory: address and byte pairs, addresses strictly rising, no byte equal to 0, what an unlisted address reads as (R168). -/
abbrev Memory := List Host.Cell

/-- An entry of the in-work set with the tag and the kind read at the take (R172, R177). -/
structure InWork where
  cell : CellId
  tag : Word16
  kind : Byte
  deriving DecidableEq, Repr

/-- A host write stretched by WAIT_N (R168, R169). -/
structure HeldAccess where
  addr : BitVec 14
  value : Word16
  deriving DecidableEq, Repr

/-- The mirrors of the notice area (10 section 10.5). -/
inductive Mirror where
  | focus
  | target (k : TargetId)
  | screen (sc : ScreenId)
  | line (l : LineId)
  | panel
  | hotkey
  | cursor
  deriving DecidableEq, Repr

/-- Result codes (10 section 10.7). -/
inductive Result where
  | ok
  | unknownKind
  | badParam
  | overlap
  | superseded
  | aborted
  | notReachable
  | wakeFailed
  | noMethod
  | identBad
  | notFitted
  deriving DecidableEq, Repr

/-! ## Desk input unit -/

/-- A modifier set and a list of key codes. -/
structure Keys where
  mods : BitVec 8
  codes : List Byte
  deriving DecidableEq, Repr

/-- No modifiers and no codes. -/
def Keys.empty : Keys := { mods := 0, codes := [] }

/-- The class of a desk input line (R1). -/
inductive LineClass where
  | silent
  | keyboard
  | pointer
  deriving DecidableEq, Repr

/-- A desk input line record (01 section 1.1); `resetUntil` is the end of a driven line reset condition. -/
structure DeskLine where
  cls : LineClass
  lastKeys : Keys
  rollover : Bool
  buttons : BitVec 5
  bad : Nat
  resetUntil : Option Nat
  deriving DecidableEq, Repr

/-- The desk input unit: four lines, the desk key state (R6) and the merged buttons (R8). -/
structure DeskInput where
  lines : Vector DeskLine 4
  keys : Keys
  merged : BitVec 5
  deriving DecidableEq, Repr

/-! ## Target line controller -/

/-- Line state (R13). -/
inductive Link where
  | down
  | up
  | suspended
  deriving DecidableEq, Repr

/-- A report (01 section 1.3). -/
inductive Report where
  | keys (k : Keys)
  | point (buttons : BitVec 5) (x y : Nat) (wheel : Int)
  deriving DecidableEq, Repr

/-- Origin of a queued report (01 section 1.3). -/
inductive Origin where
  | focus
  | release
  deriving DecidableEq, Repr

/-- An entry of an output queue. -/
structure Entry where
  report : Report
  origin : Origin
  deriving DecidableEq, Repr

/-- A target line record with its output queue, oldest entry first (01 sections 1.2 and 1.3). -/
structure TargetLine where
  link : Link
  lastSent : Keys
  onLine : Keys
  collapsed : Nat
  resumeUntil : Option Nat
  inTx : Option Report
  queue : List Entry
  deriving DecidableEq, Repr

/-! ## Cursor engine -/

/-- A placement of the geometry table (R24); `fitted` follows from the straps. -/
structure Placement where
  enabled : Bool
  x : Nat
  y : Nat
  w : Nat
  h : Nat
  refresh : Nat
  deriving DecidableEq, Repr

/-- The desk settings (R27). -/
structure Settings where
  gain : Nat
  dwell : Nat
  glide : Bool
  focusDuty : Nat
  idleDuty : Nat
  deriving DecidableEq, Repr

/-- A step's axis. -/
inductive Axis where
  | x
  | y
  deriving DecidableEq, Repr

/-- What a dwell holds (02 section 2.3): axis, direction, destination target, deadline. -/
structure Hold where
  axis : Axis
  positive : Bool
  dest : TargetId
  due : Nat
  deriving DecidableEq, Repr

/-- Dwell state (02 section 2.3). -/
inductive Dwell where
  | clear
  | holding (h : Hold)
  | ready (h : Hold)
  deriving DecidableEq, Repr

/-- The cursor record (02 section 2.3). -/
structure Cursor where
  x : Nat
  y : Nat
  rx : Int
  ry : Int
  screen : Option ScreenId
  tile : Fin 4
  dwell : Dwell
  deriving DecidableEq, Repr

/-- The cursor engine (02). -/
structure CursorEngine where
  geo : Vector Placement 6
  settings : Settings
  cursor : Cursor
  lastAbs : Vector (Nat × Nat) 8
  lastButtons : Vector (BitVec 5) 8
  deskButtons : BitVec 5
  deriving DecidableEq, Repr

/-! ## Power supervisor -/

/-- Power state, and the level of a classification (R136). -/
inductive Power where
  | unknown
  | off
  | asleep
  | on
  deriving DecidableEq, Repr

/-- The wake policy of a setup, times in ms and the window in s (08 section 8.2). -/
structure Policy where
  signal : Bool
  pulse : Bool
  retry : Nat
  window : Nat
  delay : Nat
  width : Nat
  activeHigh : Bool
  deriving DecidableEq, Repr

/-- A target's setup: geometry (R41), glide excluded (R92), wake policy and sense settings (R140). -/
structure Setup where
  headB : Bool
  under : Bool
  wA : Nat
  hA : Nat
  wB : Nat
  hB : Nat
  excluded : Bool
  policy : Policy
  falling : Bool
  hysteresis : Nat
  low : Nat
  high : Nat
  deriving DecidableEq, Repr

/-- A power record (R137, R138). -/
structure PowerRec where
  state : Power
  sample : Nat
  runLevel : Option Power
  runCount : Nat
  deriving DecidableEq, Repr

/-- State of a wake operation (08 section 8.3). -/
inductive WakeState where
  | idle
  | signalling
  | delaying
  | pulsing
  | watching
  deriving DecidableEq, Repr

/-- Method of a wake attempt. -/
inductive Method where
  | signal
  | pulse
  deriving DecidableEq, Repr

/-- A wake operation (08 section 8.3) and the level of its wake pulse output (R142). -/
structure WakeOp where
  state : WakeState
  attempts : Nat
  method : Option Method
  policy : Option Policy
  due : Option Nat
  joined : List CellId
  answerFocus : Bool
  outHigh : Bool
  deriving DecidableEq, Repr

/-! ## Head signal monitor -/

/-- Presence of a head (06 section 6.1). -/
inductive Presence where
  | absent
  | acquiring
  | present
  | unstable
  deriving DecidableEq, Repr

/-- A head record with its two working items (06 section 6.1). -/
structure HeadRec where
  presence : Presence
  lastPeriod : Nat
  good : Nat
  rate : Nat
  lastEdge : Option Nat
  absenceDue : Option Nat
  deriving DecidableEq, Repr

/-! ## Screen composer -/

/-- Layout kind (R39). -/
inductive Layout where
  | full
  | pair
  | stack
  | quad
  | trio
  deriving DecidableEq, Repr

/-- A plan: a layout kind and four sources; `none` is DARK, and a tile beyond the tile count is DARK (05 section 5.1). -/
structure Plan where
  layout : Layout
  src : Vector (Option HeadId) 4
  deriving DecidableEq, Repr

/-- Loan kind (05 section 5.1). -/
inductive LoanKind where
  | share
  | bring
  deriving DecidableEq, Repr

/-- A loaned tile entry (05 section 5.1). -/
structure Loan where
  tile : Fin 4
  kind : LoanKind
  lender : HeadId
  deriving DecidableEq, Repr

/-- Purpose of a staged plan: HOST, LOAN, RETURN (05 section 5.1). -/
inductive Purpose where
  | host
  | loan
  | giveBack
  deriving DecidableEq, Repr

/-- A staged plan with its staging fields (05 section 5.1). -/
structure Staged where
  plan : Plan
  purpose : Purpose
  home : Bool
  loansAfter : List Loan
  cells : List CellId
  deriving DecidableEq, Repr

/-- Screen state (R91). -/
inductive ScreenState where
  | unfitted
  | disabled
  | running
  deriving DecidableEq, Repr

/-- A screen record (05 section 5.1); `timingStart` and `boundary` time its frame boundaries (R90). -/
structure ScreenRec where
  state : ScreenState
  active : Plan
  staged : Option Staged
  ret : Option Plan
  loans : List Loan
  home : Plan
  refresh : Nat
  timingStart : Option Nat
  boundary : Nat
  deriving DecidableEq, Repr

/-- The composer's view of a target (R90, R92). -/
structure TargetView where
  link : Link
  power : Power
  headA : Presence
  headB : Presence
  excluded : Bool
  deriving DecidableEq, Repr

/-- Condition of a tile (R92). -/
inductive TileCond where
  | dark
  | inert
  | excluded
  | live
  deriving DecidableEq, Repr

/-- One write on the crosspoint control outputs: what the 5 address lines and the 8 data lines hold at a pulse of the strobe (R93). -/
structure Strobe where
  addr : Fin 30
  data : Byte
  deriving DecidableEq, Repr

/-- The screen composer (05) with the thirty crosspoint fields as latched, and the writes that latched them, oldest first, since the release of RESET_N (R93; log 37). -/
structure Composer where
  screens : Vector ScreenRec 6
  view : Vector TargetView 8
  xpoint : Vector Byte 30
  strobes : List Strobe
  deriving DecidableEq, Repr

/-! ## Focus controller -/

/-- Focus state with its target (03 section 3.1). -/
inductive FocusState where
  | nobody
  | focused (t : TargetId)
  | pending (t : TargetId)
  deriving DecidableEq, Repr

/-- Source of a focus change (03 section 3.1). -/
inductive FocusSource where
  | glide
  | hotkey
  | panel
  | command
  | replan
  | revert
  | restart
  deriving DecidableEq, Repr

/-- The forms of a focus request (R52). -/
inductive FocusReq where
  | target (t : TargetId)
  | next
  | prev
  | toggle
  deriving DecidableEq, Repr

/-- Pending cause (R48). -/
inductive Cause where
  | waking
  | bringing
  | lost
  deriving DecidableEq, Repr

/-- The focus controller's eligibility view of a target (R50). -/
structure Eligibility where
  link : Link
  power : Power
  headA : Presence
  deriving DecidableEq, Repr

/-- Requests and reports that reach the focus controller (03). -/
inductive FocusMsg where
  | request (src : FocusSource) (r : FocusReq)
  | link (t : TargetId) (l : Link)
  | power (t : TargetId) (p : Power)
  | headA (t : TargetId) (p : Presence)
  | plan (sc : ScreenId)
  | withdrawn (sc : ScreenId)
  | planInLoad (sc : ScreenId)
  | geometry
  | wakeAnswer (t : TargetId) (outcome : Result)
  deriving DecidableEq, Repr

/-- The focus record, the working items, the masked key set, and the requests and reports not yet taken (03). -/
structure Focus where
  st : FocusState
  previous : Option TargetId
  pin : Bool
  count : Word16
  source : Option FocusSource
  wakeOut : Bool
  bringOut : Option ScreenId
  waiting : List CellId
  view : Vector Eligibility 8
  masked : Keys
  inbox : List FocusMsg
  deriving DecidableEq, Repr

/-! ## Hotkey matcher -/

/-- The operands of a hotkey or panel action, as written (10 section 10.8). -/
structure Operands where
  target : Byte
  screen : Byte
  tile : Byte
  layout : Byte
  head : Byte
  deriving DecidableEq, Repr

/-- All operand bytes 0 (log 29). -/
def Operands.zero : Operands := { target := 0, screen := 0, tile := 0, layout := 0, head := 0 }

/-- A hotkey table entry; kind and action are kept as written (04 section 4.1). -/
structure HotEntry where
  enabled : Bool
  kind : Byte
  mods : BitVec 8
  key : Byte
  action : Byte
  ops : Operands
  fires : Word16
  deriving DecidableEq, Repr

/-- Matcher state with its leader deadline (R89). -/
inductive Matcher where
  | idle
  | leaderOne (due : Nat)
  | armed (due : Nat)
  deriving DecidableEq, Repr

/-- The hotkey matcher (04). -/
structure Hotkeys where
  table : Vector HotEntry 32
  leaderKey : Byte
  leaderWindow : Nat
  state : Matcher
  lastFired : Option (Fin 32)
  deriving DecidableEq, Repr

/-! ## Display identity unit -/

/-- Screen identity state (07 section 7.1). -/
inductive IdentState where
  | noScreen
  | reading
  | valid
  | invalid
  deriving DecidableEq, Repr

/-- A read in progress: in an attempt, or waiting for its retry (R124). -/
inductive ReadPhase where
  | noRead
  | attempting
  | retryAt (due : Nat)
  deriving DecidableEq, Repr

/-- A 256-byte identity image. -/
abbrev Image := Vector Byte 256

/-- A screen identity record (07 section 7.1) with the read in progress, the read buffer, and the debounce of the presence input. -/
structure ScreenIdent where
  state : IdentState
  image : Image
  held : Bool
  attempts : Nat
  presence : Bool
  waiting : List CellId
  phase : ReadPhase
  buffer : Image
  input : Bool
  debounceDue : Option Nat
  deriving DecidableEq, Repr

/-- Served-image state (07 section 7.2). -/
inductive ServedState where
  | silent
  | serving
  | replacing
  | announcing
  deriving DecidableEq, Repr

/-- Served-image source (07 section 7.2). -/
inductive ServedSource where
  | nothing
  | screen (sc : ScreenId)
  | slot
  deriving DecidableEq, Repr

/-- A replacement (R128). -/
structure Replacement where
  source : ServedSource
  announce : Bool
  follow : Bool
  cell : Option CellId
  deriving DecidableEq, Repr

/-- A running copy (R129): its replacement, the image it copies, its end, and the head's state before it. -/
structure Copy where
  rep : Replacement
  image : Image
  due : Nat
  before : ServedState
  deriving DecidableEq, Repr

/-- A served-image record (07 section 7.2) with its hot-plug line, its running copy and its bus. -/
structure Served where
  state : ServedState
  source : ServedSource
  follow : Bool
  store : Image
  answering : Bool
  inTransaction : Bool
  pending : Option Replacement
  completing : Option CellId
  copy : Option Copy
  hotplug : Bool
  announceUntil : Option Nat
  offset : Byte
  addressed : Bool
  offsetTaken : Bool
  lastActivity : Nat
  lastByte : Option Byte
  deriving DecidableEq, Repr

/-! ## Panel scanner -/

/-- Key state (09 section 9.2). -/
inductive KeyState where
  | up
  | down
  | held
  deriving DecidableEq, Repr

/-- Actions of hotkeys and panel keys (10 section 10.8). -/
inductive Action where
  | nothing
  | focus
  | focusNext
  | focusPrev
  | focusToggle
  | share
  | restore
  | wake
  | pinToggle
  | notify
  | host
  deriving DecidableEq, Repr

/-- A key record (09 section 9.2). -/
structure PanelKey where
  state : KeyState
  debounce : Nat
  longDue : Option Nat
  action : Action
  ops : Operands
  events : Byte
  deriving DecidableEq, Repr

/-- Indicator source kinds (09 section 9.3). -/
inductive IndSource where
  | nothing
  | focus
  | power
  | waking
  | screenLoaned
  | pin
  | host
  deriving DecidableEq, Repr

/-- Indicator pattern (R160). -/
inductive Pattern where
  | steady
  | slow
  | fast
  deriving DecidableEq, Repr

/-- An indicator record (09 section 9.3). -/
structure Indicator where
  source : IndSource
  operand : Byte
  intensity : Nat
  pattern : Pattern
  hostLevel : Bool
  deriving DecidableEq, Repr

/-- A tally channel (09 section 9.4); `periodStart` is when its running PWM period began. -/
structure Tally where
  working : Nat
  buffered : Nat
  periodStart : Nat
  deriving DecidableEq, Repr

/-- The scanner's view of the states its indicators and tallies follow (R159). -/
structure PanelView where
  focus : FocusState
  pin : Bool
  power : Vector Power 8
  waking : Vector Bool 8
  loaned : Vector Bool 6
  plans : Vector Plan 6
  deriving DecidableEq, Repr

/-- The panel scanner (09); `lit` is how many sixteenths of its latest slot each indicator was lit, and a last event is a position with whether the edge was a release. -/
structure Panel where
  keys : Vector PanelKey 24
  inds : Vector Indicator 24
  lit : Vector Nat 24
  view : PanelView
  tallies : Vector Tally 6
  focusDuty : Nat
  idleDuty : Nat
  nextDrive : Fin 4
  phaseStart : Nat
  lastEvent : Option (PosId × Bool)
  deriving DecidableEq, Repr

/-! ## The notice writer and the exchange port -/

/-- The target line controller's fields of a TARGET mirror (R23). -/
structure LineShare where
  link : Link
  collapsed : Nat
  driving : Bool
  deriving DecidableEq, Repr

/-- The power supervisor's fields of a TARGET mirror (R153). -/
structure PowerShare where
  power : Power
  sample : Nat
  wake : WakeState
  attempts : Nat
  method : Option Method
  joined : Nat
  deriving DecidableEq, Repr

/-- The head signal monitor's fields of one head of a TARGET mirror (R120). -/
structure SignalShare where
  presence : Presence
  good : Nat
  rate : Nat
  lastPeriod : Nat
  deriving DecidableEq, Repr

/-- The display identity unit's fields of one head of a TARGET mirror (R134). -/
structure ServedShare where
  state : ServedState
  source : ServedSource
  follow : Bool
  hotplug : Bool
  pending : Bool
  deriving DecidableEq, Repr

/-- The staged plan of a SCREEN mirror with its purpose and home flag (R107). -/
structure StagedShare where
  plan : Plan
  purpose : Purpose
  home : Bool
  deriving DecidableEq, Repr

/-- The screen composer's fields of a SCREEN mirror (R107). -/
structure PlanShare where
  state : ScreenState
  active : Plan
  conditions : Vector TileCond 4
  staged : Option StagedShare
  ret : Option Plan
  loans : List Loan
  home : Plan
  deriving DecidableEq, Repr

/-- The display identity unit's fields of a SCREEN mirror (R134). -/
structure IdentShare where
  state : IdentState
  held : Bool
  attempts : Nat
  presence : Bool
  deriving DecidableEq, Repr

/-- The fields of the shared mirrors as their owners last gave them to the notice writer (R181): the TARGET mirrors have four owners, the SCREEN mirrors two (10 section 10.5). -/
structure Given where
  lines : Vector LineShare 8
  powers : Vector PowerShare 8
  signals : Vector SignalShare 16
  served : Vector ServedShare 16
  plans : Vector PlanShare 6
  idents : Vector IdentShare 6
  deriving DecidableEq, Repr

/-- The exchange port, the command sweeper and the notice writer (10). -/
structure Exchange where
  mem : Memory
  revision : Vector Word16 22
  given : Given
  noteEnable : Bool
  sweepPeriod : SweepPeriod
  sweepDue : Option Nat
  sweepState : SweepState
  pendingSweep : Bool
  sweepCount : Word16
  completionNo : Word32
  inWork : List InWork
  waiting : List HeldAccess
  deriving DecidableEq, Repr

/-! ## The part -/

/-- The whole state: the queue of waiting commands, the paces (the model's own: how many of the part's own actions, visits of a sweep and steps of a restart, each coming command that sets them off makes before the next command, log 4), the 1 µs count, reset, straps and run state, and the thirteen blocks. -/
structure State where
  pending : List Instr
  paces : List Nat
  now : Nat
  resetAsserted : Bool
  straps : Straps
  runState : RunState
  xm : Exchange
  desk : DeskInput
  tlines : Vector TargetLine 8
  cur : CursorEngine
  focus : Focus
  hot : Hotkeys
  comp : Composer
  heads : Vector HeadRec 16
  idents : Vector ScreenIdent 6
  served : Vector Served 16
  setups : Vector Setup 8
  power : Vector PowerRec 8
  wakes : Vector WakeOp 8
  senseSlot : Fin 8
  panel : Panel
  deriving DecidableEq, Repr

/-- Why a step stops with a fault. The spec names no behaviour that stops the part (a bad frame is counted, a bad command completes with its result code), so there is no fault. -/
inductive Fault where
  deriving DecidableEq, Repr

/-- Why a step is refused. -/
inductive Refusal where
  /-- Raised by exec for a command that has no meaning in the model; safe. No arm of exec raises it. -/
  | notModelled (mnemonic : String)
  deriving DecidableEq, Repr

/-! ## Power-on values -/

/-- Head A of a target (10 section 10.1). -/
def headAOf (t : TargetId) : HeadId := ⟨2 * t.1, by omega⟩

/-- The target of a head. -/
def headTarget (h : HeadId) : TargetId := ⟨h.1 / 2, by omega⟩

/-- A FULL plan whose one tile has this source. -/
def Plan.fullOf (src : Option HeadId) : Plan := { layout := .full, src := #v[src, none, none, none] }

/-- The power-on and home plan of screen i (R90). -/
def Plan.initial (st : Straps) (sc : ScreenId) : Plan :=
  Plan.fullOf (if sc.1 < st.targets then some (headAOf ⟨sc.1, by omega⟩) else none)

/-- R1. -/
def DeskLine.initial : DeskLine :=
  { cls := .silent, lastKeys := Keys.empty, rollover := false, buttons := 0, bad := 0, resetUntil := none }

/-- R12: the line state of a fitted target is taken from PRESENT. -/
def Link.initial (st : Straps) (present : BitVec 8) (k : TargetId) : Link :=
  if k.1 < st.targets && present.getLsbD k.1 then .up else .down

/-- R12. -/
def TargetLine.initial (st : Straps) (present : BitVec 8) (k : TargetId) : TargetLine :=
  { link := Link.initial st present k, lastSent := Keys.empty, onLine := Keys.empty, collapsed := 0,
    resumeUntil := none, inTx := none, queue := [] }

/-- R24. -/
def Placement.initial (st : Straps) (sc : ScreenId) : Placement :=
  { enabled := decide (sc.1 < st.screens), x := 1920 * sc.1, y := 0, w := 1920, h := 1080, refresh := 60 }

/-- R24, R27's table, R28. -/
def CursorEngine.initial (st : Straps) : CursorEngine :=
  { geo := Vector.ofFn (Placement.initial st),
    settings := { gain := 8, dwell := 0, glide := st.glide, focusDuty := 200, idleDuty := 0 },
    cursor := { x := 960, y := 540, rx := 0, ry := 0, screen := some 0, tile := 0, dwell := .clear },
    lastAbs := Vector.replicate 8 (16384, 16384),
    lastButtons := Vector.replicate 8 0,
    deskButtons := 0 }

/-- R49. -/
def Focus.initial (st : Straps) (present : BitVec 8) : Focus :=
  { st := .nobody, previous := none, pin := false, count := 0, source := none, wakeOut := false,
    bringOut := none, waiting := [],
    view := Vector.ofFn fun k => { link := Link.initial st present k, power := .unknown, headA := .absent },
    masked := Keys.empty, inbox := [] }

/-- The default hotkey table (04 section 4.8, which gives modifiers for entries 9 to 31 alone; those of entries 0 to 8 are log 29). -/
def HotEntry.initial (st : Straps) (i : Fin 32) : HotEntry :=
  if i.1 < 8 then
    { enabled := decide (i.1 < st.targets), kind := 1, mods := 0, key := BitVec.ofNat 8 (0x1E + i.1), action := 1,
      ops := { Operands.zero with target := BitVec.ofNat 8 i.1 }, fires := 0 }
  else if i.1 = 8 then
    { enabled := true, kind := 1, mods := 0, key := 0x1A, action := 8, ops := Operands.zero, fires := 0 }
  else
    { enabled := false, kind := 0, mods := 0, key := 0x01, action := 9, ops := Operands.zero, fires := 0 }

/-- R71. -/
def Hotkeys.initial (st : Straps) : Hotkeys :=
  { table := Vector.ofFn (HotEntry.initial st), leaderKey := 0x47, leaderWindow := 750, state := .idle, lastFired := none }

/-- R90. -/
def ScreenRec.initial (st : Straps) (sc : ScreenId) : ScreenRec :=
  { state := if sc.1 < st.screens then .running else .unfitted,
    active := Plan.initial st sc, staged := none, ret := none, loans := [], home := Plan.initial st sc,
    refresh := 60, timingStart := none, boundary := 1 }

/-- R90; the thirty presented fields are written at clear done (log 9). -/
def Composer.initial (st : Straps) (present : BitVec 8) : Composer :=
  { screens := Vector.ofFn (ScreenRec.initial st),
    view := Vector.ofFn fun k =>
      { link := Link.initial st present k, power := .unknown, headA := .absent, headB := .absent, excluded := false },
    xpoint := Vector.replicate 30 0, strobes := [] }

/-- R109. -/
def HeadRec.initial : HeadRec :=
  { presence := .absent, lastPeriod := 0, good := 0, rate := 0, lastEdge := none, absenceDue := none }

/-- R121. -/
def ScreenIdent.initial : ScreenIdent :=
  { state := .noScreen, image := Vector.replicate 256 0, held := false, attempts := 0, presence := false, waiting := [],
    phase := .noRead, buffer := Vector.replicate 256 0, input := false, debounceDue := none }

/-- R126. -/
def Served.initial : Served :=
  { state := .silent, source := .nothing, follow := false, store := Vector.replicate 256 0, answering := false,
    inTransaction := false, pending := none, completing := none, copy := none, hotplug := false, announceUntil := none,
    offset := 0, addressed := false, offsetTaken := false, lastActivity := 0, lastByte := none }

/-- The wake policy of the table of 08 section 8.2. -/
def Policy.initial : Policy :=
  { signal := true, pulse := false, retry := 3, window := 15, delay := 0, width := 300, activeHigh := true }

/-- R41, R142. -/
def Setup.initial : Setup :=
  { headB := false, under := false, wA := 1920, hA := 1080, wB := 1920, hB := 1080, excluded := false,
    policy := Policy.initial, falling := false, hysteresis := 16, low := 300, high := 700 }

/-- R138. -/
def PowerRec.initial : PowerRec := { state := .unknown, sample := 0, runLevel := none, runCount := 0 }

/-- R142, R143. -/
def WakeOp.initial : WakeOp :=
  { state := .idle, attempts := 0, method := none, policy := none, due := none, joined := [], answerFocus := false, outHigh := false }

/-- The default map's key of a position (R163). -/
def PanelKey.initial (st : Straps) (p : PosId) : PanelKey :=
  let blank : PanelKey :=
    { state := .up, debounce := 0, longDue := none, action := .nothing, ops := Operands.zero, events := 0 }
  if p.1 < 8 && p.1 < st.targets then
    { blank with action := .focus, ops := { Operands.zero with target := BitVec.ofNat 8 p.1 } }
  else if 8 ≤ p.1 && p.1 < 14 && p.1 - 8 < st.screens then
    { blank with action := .restore, ops := { Operands.zero with screen := BitVec.ofNat 8 (p.1 - 8) } }
  else blank

/-- The default map's indicator of a position (R163); the source operand of an indicator whose source is NONE is 0 (log 53). -/
def Indicator.initial (st : Straps) (p : PosId) : Indicator :=
  let blank : Indicator := { source := .nothing, operand := 0, intensity := 15, pattern := .steady, hostLevel := false }
  if p.1 < 8 && p.1 < st.targets then
    { blank with source := .focus, operand := BitVec.ofNat 8 p.1 }
  else if 8 ≤ p.1 && p.1 < 14 && p.1 - 8 < st.screens then
    { blank with source := .screenLoaned, operand := BitVec.ofNat 8 (p.1 - 8) }
  else if 16 ≤ p.1 && p.1 - 16 < st.targets then
    { blank with source := .power, operand := BitVec.ofNat 8 (p.1 - 16) }
  else blank

/-- R163; that no last event is held is log 36. -/
def Panel.initial (st : Straps) : Panel :=
  { keys := Vector.ofFn (PanelKey.initial st),
    inds := Vector.ofFn (Indicator.initial st),
    lit := Vector.replicate 24 0,
    view :=
      { focus := .nobody, pin := false, power := Vector.replicate 8 .unknown, waking := Vector.replicate 8 false,
        loaned := Vector.replicate 6 false, plans := Vector.ofFn (Plan.initial st) },
    tallies := Vector.replicate 6 { working := 0, buffered := 0, periodStart := 0 },
    focusDuty := 200, idleDuty := 0, nextDrive := 0, phaseStart := 0, lastEvent := none }

/-- Before the first write of the mirrors no owner has given anything (log 49): each field at the first of its values, a plan all DARK. -/
def Given.initial : Given :=
  { lines := Vector.replicate 8 { link := .down, collapsed := 0, driving := false },
    powers := Vector.replicate 8
      { power := .unknown, sample := 0, wake := .idle, attempts := 0, method := none, joined := 0 },
    signals := Vector.replicate 16 { presence := .absent, good := 0, rate := 0, lastPeriod := 0 },
    served := Vector.replicate 16
      { state := .silent, source := .nothing, follow := false, hotplug := false, pending := false },
    plans := Vector.replicate 6
      { state := .unfitted, active := Plan.fullOf none, conditions := Vector.replicate 4 .dark, staged := none, ret := none,
        loans := [], home := Plan.fullOf none },
    idents := Vector.replicate 6 { state := .noScreen, held := false, attempts := 0, presence := false } }

/-- R171, 10 section 10.4. -/
def Exchange.initial : Exchange :=
  { mem := [], revision := Vector.replicate 22 0, given := Given.initial, noteEnable := false, sweepPeriod := .ms2,
    sweepDue := none, sweepState := .idle, pendingSweep := false, sweepCount := 0, completionNo := 0, inWork := [], waiting := [] }

/-- The values every block takes at the release of RESET_N (R183), for straps as sampled and the PRESENT levels of the eight targets. -/
def State.powerOn (st : Straps) (present : BitVec 8) : State :=
  { pending := [], paces := [], now := 0, resetAsserted := false, straps := st, runState := .starting,
    xm := Exchange.initial,
    desk := { lines := Vector.replicate 4 DeskLine.initial, keys := Keys.empty, merged := 0 },
    tlines := Vector.ofFn (TargetLine.initial st present),
    cur := CursorEngine.initial st,
    focus := Focus.initial st present,
    hot := Hotkeys.initial st,
    comp := Composer.initial st present,
    heads := Vector.replicate 16 HeadRec.initial,
    idents := Vector.replicate 6 ScreenIdent.initial,
    served := Vector.replicate 16 Served.initial,
    setups := Vector.replicate 8 Setup.initial,
    power := Vector.replicate 8 PowerRec.initial,
    wakes := Vector.replicate 8 WakeOp.initial,
    senseSlot := 0,
    panel := Panel.initial st }

/-- The part right after reset: RESET_N released, run state STARTING, before the clear is done. The straps (six screens, eight targets, glide default no) and PRESENT (none asserted) are inputs; log 6 names the choice. -/
def State.reset : State := State.powerOn { screens := 6, targets := 8, glide := false } 0

end Sys2Proof.Machine
end

