-- ==== Sys2Proof/WellFormed.lean ====
section
/-! DEFINITION. Which commands are well formed: the operands of each row name what the row is about. Most bounds are in the operand types; these are the checks that are left. -/

namespace Sys2Proof

/-- The byte address of a word address of the exchange port (10 section 10.1). -/
def byteAddress (a : BitVec 14) : Nat := 2 * a.toNat

/-- A payload that the length byte can count has at most 255 bytes. -/
def payloadFits (payload : List Byte) : Bool := payload.length ≤ 255

/-- The checks: a bad kind is none of the four kinds of R2; a memory write is neither a write to the notice summary nor to a port register, which are rows of their own; a payload is at most 255 bytes. -/
def Instr.wellFormed : Instr → Bool
  | .announce _ _ _ p _ => payloadFits p
  | .keys _ _ _ p _ => payloadFits p
  | .motion _ _ _ p _ => payloadFits p
  | .gone _ _ _ p _ => payloadFits p
  | .deskFrameBadKind _ _ kind _ p _ =>
      payloadFits p && !(kind == 1#8 || kind == 2#8 || kind == 3#8 || kind == 4#8)
  | .hostMemoryWrite _ a _ =>
      !(Config.noticeBase ≤ byteAddress a && byteAddress a < Config.summaryEnd) &&
        byteAddress a < Config.portBase
  | .lineResetEnd _ _ => true
  | .presentRises _ _ => true
  | .presentFalls _ _ => true
  | .suspendIndication _ _ => true
  | .slotStart _ _ _ => true
  | .transmissionComplete _ _ => true
  | .resumeSignalEnd _ _ => true
  | .layoutLoad _ _ => true
  | .deskSet _ _ => true
  | .dwellDeadlineExpiry _ => true
  | .focus _ _ => true
  | .pin _ _ => true
  | .leaderDeadlineExpiry _ => true
  | .hotkeysLoad _ _ => true
  | .leaderSet _ _ => true
  | .frameBoundary _ _ => true
  | .planSet _ _ => true
  | .share _ _ => true
  | .restore _ _ => true
  | .syncEdge _ _ => true
  | .absenceDeadlineExpiry _ _ => true
  | .screenPresenceInputChange _ _ _ => true
  | .presenceDebounceExpiry _ _ => true
  | .readAttemptEnd _ _ _ => true
  | .readRetryExpiry _ _ => true
  | .identReread _ _ => true
  | .identServe _ _ => true
  | .copyEnd _ _ => true
  | .announceExpiry _ _ => true
  | .headTransactionStart _ _ _ => true
  | .headOffsetWrite _ _ _ => true
  | .headByteRead _ _ => true
  | .headTransactionStop _ _ => true
  | .headBusIdleExpiry _ _ => true
  | .powerSample _ _ => true
  | .targetSetup _ _ => true
  | .wake _ _ => true
  | .pulseDelayEnd _ _ => true
  | .pulseEnd _ _ => true
  | .wakeWindowExpiry _ _ => true
  | .panelSlot _ _ => true
  | .longPressExpiry _ _ => true
  | .tallyPeriodEnd _ _ => true
  | .panelMapLoad _ _ => true
  | .indicatorSet _ _ => true
  | .heldAccessRelease _ => true
  | .summaryClear _ _ _ => true
  | .attention _ _ => true
  | .lineControl _ _ => true
  | .registerWriteIgnored _ _ _ => true
  | .sweepTimerExpiry _ => true
  | .unknownKind _ _ => true
  | .restart _ _ => true
  | .powerOnReset _ => true
  | .clearDone _ => true
  | .resetRelease _ _ _ _ _ => true

end Sys2Proof
end

