-- ==== Sys2Proof/Machine/Ops.lean ====
section
/-! DEFINITION. Named operations over memory, records and time: reading and writing blocks of the exchange memory, updating one record of a vector, byte order, and the 1 µs count. -/

namespace Sys2Proof.Machine

open Sys2Proof

/-! ## Records -/

/-- All indices of a vector, in order. -/
def ids (n : Nat) : List (Fin n) := List.finRange n

/-- One record of a vector changed, the others as they were. -/
def upd {α : Type} {n : Nat} (v : Vector α n) (i : Fin n) (f : α → α) : Vector α n := v.set i.1 (f v[i.1]) i.2

/-- A vector whose records are all changed. -/
def mapVec {α : Type} {n : Nat} (v : Vector α n) (f : Fin n → α → α) : Vector α n := Vector.ofFn fun i => f i v[i.1]

/-! ## Memory -/

/-- What an unlisted byte reads as (R168: every word is cleared to 0). -/
def Memory.fill : Byte := 0#8

/-- A byte of the memory. -/
def Memory.read : Memory → Nat → Byte
  | [], _ => Memory.fill
  | c :: cs, a => if c.1 = a then c.2 else Memory.read cs a

/-- The canonical form: addresses strictly rise from `lo` on, and no byte equals what an unlisted byte reads as. -/
def Memory.wfFrom : Nat → Memory → Bool
  | _, [] => true
  | lo, c :: cs => decide (lo ≤ c.1) && !(c.2 == Memory.fill) && Memory.wfFrom (c.1 + 1) cs

/-- The canonical form of a memory. -/
def Memory.wf (m : Memory) : Bool := Memory.wfFrom 0 m

/-- The cells of consecutive bytes from `a` on, without those equal to the fill. -/
def Memory.cellsFrom : Nat → List Byte → Memory
  | _, [] => []
  | a, b :: bs => if b = Memory.fill then Memory.cellsFrom (a + 1) bs else (a, b) :: Memory.cellsFrom (a + 1) bs

/-- The cells below an address. -/
def Memory.below (m : Memory) (a : Nat) : Memory := m.filter fun c => decide (c.1 < a)

/-- The cells at or above an address. -/
def Memory.from (m : Memory) (a : Nat) : Memory := m.filter fun c => decide (a ≤ c.1)

/-- Consecutive bytes written from `a` on. -/
def Memory.write (m : Memory) (a : Nat) (bs : List Byte) : Memory :=
  m.below a ++ (Memory.cellsFrom a bs ++ m.from (a + bs.length))

/-- `n` consecutive bytes from `a` on. -/
def Memory.block (m : Memory) (a n : Nat) : List Byte :=
  let part := (m.from a).below (a + n)
  (List.range n).map fun i => Memory.read part (a + i)

/-- The word at an even address: the byte at the lower address is the less significant half (10 section 10.1). -/
def Memory.word (m : Memory) (a : Nat) : Word16 := m.read (a + 1) ++ m.read a

/-! ## Byte order: every multi-byte number is stored least significant byte first (10 section 10.1) -/

/-- A 16-bit number as two bytes. -/
def le16 (w : Word16) : List Byte := [w.extractLsb' 0 8, w.extractLsb' 8 8]

/-- A number below 65536 as two bytes. -/
def le16n (n : Nat) : List Byte := le16 (BitVec.ofNat 16 n)

/-- A 32-bit number as four bytes. -/
def le32 (w : Word32) : List Byte :=
  [w.extractLsb' 0 8, w.extractLsb' 8 8, w.extractLsb' 16 8, w.extractLsb' 24 8]

/-- A number as one byte. -/
def byte (n : Nat) : Byte := BitVec.ofNat 8 n

/-- yes or no, on or off (10 section 10.8). -/
def boolByte (b : Bool) : Byte := if b then 1 else 0

/-- A byte of a list of parameter or block bytes; past its end 0. -/
def at8 (bs : List Byte) (i : Nat) : Byte := bs.getD i 0

/-- A two-byte number of such a list. -/
def at16 (bs : List Byte) (i : Nat) : Nat := (at8 bs i).toNat + 256 * (at8 bs (i + 1)).toNat

/-- A list cut or filled with zeros to a length. -/
def padTo (n : Nat) (bs : List Byte) : List Byte := (bs ++ List.replicate n 0).take n

/-- The sum of bytes modulo 256. -/
def byteSum (bs : List Byte) : Byte := bs.foldl (· + ·) 0

/-- The key codes 0 to 255 that stand in one list and not in another, in order. -/
def without (a b : List Byte) : List Byte := a.filter fun c => !b.contains c

/-- Two code lists hold the same codes (R17). -/
def sameCodes (a b : List Byte) : Bool := a.all b.contains && b.all a.contains

/-- Codes with every one after its first occurrence removed (R6). -/
def dedup : List Byte → List Byte → List Byte
  | seen, [] => seen
  | seen, c :: cs => if seen.contains c then dedup seen cs else dedup (seen ++ [c]) cs

/-! ## Fitted targets, screens and heads -/

/-- Targets are fitted from number 0 upward (R183). -/
def State.fittedTarget (s : State) (k : TargetId) : Bool := decide (k.1 < s.straps.targets)

/-- Screens are fitted from number 0 upward (R183). -/
def State.fittedScreen (s : State) (sc : ScreenId) : Bool := decide (sc.1 < s.straps.screens)

/-- Head B of a target. -/
def headBOf (t : TargetId) : HeadId := ⟨2 * t.1 + 1, by omega⟩

/-- Whether a head is a head B. -/
def isHeadB (h : HeadId) : Bool := decide (h.1 % 2 = 1)

/-- The head of a target: 0 is A and 1 is B. -/
def headOf (t : TargetId) (side : Bool) : HeadId := if side then headBOf t else headAOf t

/-- A number as an index, when it is in range. -/
def asFin (n : Nat) (v : Nat) : Option (Fin n) := if h : v < n then some ⟨v, h⟩ else none

/-! ## One record of the state changed -/

/-- A desk input line record changed. -/
def modDeskLine (l : LineId) (f : DeskLine → DeskLine) (s : State) : State :=
  { s with desk := { s.desk with lines := upd s.desk.lines l f } }

/-- A target line record changed. -/
def modTLine (k : TargetId) (f : TargetLine → TargetLine) (s : State) : State :=
  { s with tlines := upd s.tlines k f }

/-- A screen record changed. -/
def modScreen (sc : ScreenId) (f : ScreenRec → ScreenRec) (s : State) : State :=
  { s with comp := { s.comp with screens := upd s.comp.screens sc f } }

/-- A head record changed. -/
def modHead (h : HeadId) (f : HeadRec → HeadRec) (s : State) : State :=
  { s with heads := upd s.heads h f }

/-- A screen identity record changed. -/
def modIdent (sc : ScreenId) (f : ScreenIdent → ScreenIdent) (s : State) : State :=
  { s with idents := upd s.idents sc f }

/-- A served-image record changed. -/
def modServed (h : HeadId) (f : Served → Served) (s : State) : State :=
  { s with served := upd s.served h f }

/-- A setup changed. -/
def modSetup (k : TargetId) (f : Setup → Setup) (s : State) : State :=
  { s with setups := upd s.setups k f }

/-- A power record changed. -/
def modPower (k : TargetId) (f : PowerRec → PowerRec) (s : State) : State :=
  { s with power := upd s.power k f }

/-- A wake operation changed. -/
def modWake (k : TargetId) (f : WakeOp → WakeOp) (s : State) : State :=
  { s with wakes := upd s.wakes k f }

/-- A panel key record changed. -/
def modPanelKey (p : PosId) (f : PanelKey → PanelKey) (s : State) : State :=
  { s with panel := { s.panel with keys := upd s.panel.keys p f } }

/-- The cursor record changed. -/
def modCursor (f : Cursor → Cursor) (s : State) : State :=
  { s with cur := { s.cur with cursor := f s.cur.cursor } }

/-- A request or report handed to the focus controller, which takes it after those that came before. -/
def post (m : FocusMsg) (s : State) : State :=
  { s with focus := { s.focus with inbox := s.focus.inbox ++ [m] } }

/-! ## Time -/

/-- The 1 µs count moves forward to the time of a command; it never runs back (log 1). -/
def State.advance (s : State) (t : Nat) : State := { s with now := max s.now t }

/-- Whether a deadline is held and has been reached (log 3). -/
def reached (due : Option Nat) (s : State) : Bool :=
  match due with
  | some d => decide (d ≤ s.now)
  | none => false

end Sys2Proof.Machine
end

