-- ==== Sys2Proof/Machine/Operands.lean ====
section
/-! DEFINITION. Operand forms: the encodings of 10 section 10.8, both ways, the operands of actions, and the parameters and staging blocks as the part reads them. -/

namespace Sys2Proof.Machine

open Sys2Proof

/-! ## Codes written into mirrors, cells and registers -/

/-- Result codes (10 section 10.7). -/
def Result.code : Result → Byte
  | .ok => 0x00
  | .unknownKind => 0x01
  | .badParam => 0x02
  | .overlap => 0x03
  | .superseded => 0x04
  | .aborted => 0x05
  | .notReachable => 0x06
  | .wakeFailed => 0x07
  | .noMethod => 0x08
  | .identBad => 0x09
  | .notFitted => 0x0A

/-- Run state in STATUS. -/
def RunState.code : RunState → BitVec 2
  | .starting => 0
  | .running => 1
  | .restarting _ _ => 2

/-- Sweep period codes of LINE_CONTROL. -/
def SweepPeriod.code : SweepPeriod → BitVec 4
  | .off => 0
  | .ms1 => 1
  | .ms2 => 2
  | .ms5 => 3
  | .ms10 => 4

/-- The sweep period a code names; codes 5 to 15 name none (R171). -/
def SweepPeriod.ofCode (c : BitVec 4) : Option SweepPeriod :=
  match c.toNat with
  | 0 => some .off
  | 1 => some .ms1
  | 2 => some .ms2
  | 3 => some .ms5
  | 4 => some .ms10
  | _ => none

/-- The period in µs; OFF makes no request. -/
def SweepPeriod.length : SweepPeriod → Option Nat
  | .off => none
  | .ms1 => some (Config.ms 1)
  | .ms2 => some (Config.ms 2)
  | .ms5 => some (Config.ms 5)
  | .ms10 => some (Config.ms 10)

/-- Line class. -/
def LineClass.code : LineClass → Byte
  | .silent => 0
  | .keyboard => 1
  | .pointer => 2

/-- Line state. -/
def Link.code : Link → Byte
  | .down => 0
  | .up => 1
  | .suspended => 2

/-- Power state (log 20). -/
def Power.code : Power → Byte
  | .unknown => 0
  | .off => 1
  | .asleep => 2
  | .on => 3

/-- Wake operation state. -/
def WakeState.code : WakeState → Byte
  | .idle => 0
  | .signalling => 1
  | .delaying => 2
  | .pulsing => 3
  | .watching => 4

/-- Wake method; 0 is none. -/
def methodCode : Option Method → Byte
  | none => 0
  | some .signal => 1
  | some .pulse => 2

/-- Presence of a head. -/
def Presence.code : Presence → Byte
  | .absent => 0
  | .acquiring => 1
  | .present => 2
  | .unstable => 3

/-- Layout kind. -/
def Layout.code : Layout → Byte
  | .full => 0
  | .pair => 1
  | .stack => 2
  | .quad => 3
  | .trio => 4

/-- The layout kind a byte names. -/
def Layout.ofByte (b : Byte) : Option Layout :=
  match b.toNat with
  | 0 => some .full
  | 1 => some .pair
  | 2 => some .stack
  | 3 => some .quad
  | 4 => some .trio
  | _ => none

/-- Tile count of a layout kind (05 section 5.1). -/
def Layout.tiles : Layout → Nat
  | .full => 1
  | .pair => 2
  | .stack => 2
  | .quad => 4
  | .trio => 3

/-- Tile source: 2 × target + head, 0xFF DARK. -/
def sourceCode : Option HeadId → Byte
  | some h => byte h.1
  | none => 0xFF

/-- The source a byte names: DARK, a head of a target 0 to 7, or nothing in range. -/
def sourceOf (b : Byte) : Option (Option HeadId) :=
  if b = 0xFF then some none else (asFin 16 b.toNat).map some

/-- A plan as five bytes. -/
def Plan.bytes (p : Plan) : List Byte :=
  [p.layout.code, sourceCode p.src[0], sourceCode p.src[1], sourceCode p.src[2], sourceCode p.src[3]]

/-- Loan kind. -/
def LoanKind.code : LoanKind → Byte
  | .share => 0
  | .bring => 1

/-- Purpose of a staged plan. -/
def Purpose.code : Purpose → Byte
  | .host => 0
  | .loan => 1
  | .giveBack => 2

/-- Screen state. -/
def ScreenState.code : ScreenState → Byte
  | .unfitted => 0
  | .disabled => 1
  | .running => 2

/-- Screen identity state. -/
def IdentState.code : IdentState → Byte
  | .noScreen => 0
  | .reading => 1
  | .valid => 2
  | .invalid => 3

/-- Served-image state. -/
def ServedState.code : ServedState → Byte
  | .silent => 0
  | .serving => 1
  | .replacing => 2
  | .announcing => 3

/-- Served source kind. -/
def ServedSource.kind : ServedSource → Byte
  | .nothing => 0
  | .screen _ => 1
  | .slot => 2

/-- Served source screen, 0xFF when the source is no screen. -/
def ServedSource.screenByte : ServedSource → Byte
  | .screen sc => byte sc.1
  | _ => 0xFF

/-- Key state. -/
def KeyState.code : KeyState → Byte
  | .up => 0
  | .down => 1
  | .held => 2

/-- The action a byte names. -/
def Action.ofByte (b : Byte) : Option Action :=
  match b.toNat with
  | 0 => some .nothing
  | 1 => some .focus
  | 2 => some .focusNext
  | 3 => some .focusPrev
  | 4 => some .focusToggle
  | 5 => some .share
  | 6 => some .restore
  | 7 => some .wake
  | 8 => some .pinToggle
  | 9 => some .notify
  | 10 => some .host
  | _ => none

/-- Indicator source. -/
def IndSource.code : IndSource → Byte
  | .nothing => 0
  | .focus => 1
  | .power => 2
  | .waking => 3
  | .screenLoaned => 4
  | .pin => 5
  | .host => 6

/-- The indicator source a byte names. -/
def IndSource.ofByte (b : Byte) : Option IndSource :=
  match b.toNat with
  | 0 => some .nothing
  | 1 => some .focus
  | 2 => some .power
  | 3 => some .waking
  | 4 => some .screenLoaned
  | 5 => some .pin
  | 6 => some .host
  | _ => none

/-- Pattern. -/
def Pattern.code : Pattern → Byte
  | .steady => 0
  | .slow => 1
  | .fast => 2

/-- The pattern a byte names. -/
def Pattern.ofByte (b : Byte) : Option Pattern :=
  match b.toNat with
  | 0 => some .steady
  | 1 => some .slow
  | 2 => some .fast
  | _ => none

/-- Focus source; 0 is none. -/
def focusSourceCode : Option FocusSource → Byte
  | none => 0
  | some .glide => 1
  | some .hotkey => 2
  | some .panel => 3
  | some .command => 4
  | some .replan => 5
  | some .revert => 6
  | some .restart => 7

/-- Focus state. -/
def FocusState.code : FocusState → Byte
  | .nobody => 0
  | .focused _ => 1
  | .pending _ => 2

/-- Pending cause; 0 is absent. -/
def causeCode : Option Cause → Byte
  | none => 0
  | some .waking => 1
  | some .bringing => 2
  | some .lost => 3

/-- Dwell state. -/
def Dwell.code : Dwell → Byte
  | .clear => 0
  | .holding _ => 1
  | .ready _ => 2

/-- The held hold of a dwell state. -/
def Dwell.hold : Dwell → Option Hold
  | .clear => none
  | .holding h => some h
  | .ready h => some h

/-- A number or none, none as 0xFF. -/
def optByte {n : Nat} : Option (Fin n) → Byte
  | some i => byte i.1
  | none => 0xFF

/-- yes or no as read: any other value fails a range check. -/
def boolOf (b : Byte) : Option Bool :=
  if b = 0 then some false else if b = 1 then some true else none

/-! ## Target reports on the link out (10 section 10.8) -/

/-- Kind, length and payload of a report. -/
def Report.body : Report → List Byte
  | .keys k => [0x11, byte (1 + k.codes.length), k.mods] ++ k.codes
  | .point b x y w => [0x12, 6, b.setWidth 8] ++ le16n x ++ le16n y ++ [BitVec.ofInt 8 w]

/-- A report as sent: the check byte makes the sum of all bytes 0 modulo 256. -/
def Report.bytes (r : Report) : List Byte := r.body ++ [-(byteSum r.body)]

/-! ## Operands of actions -/

/-- A SHARE: screen, layout kind, tile, target and head as a head number, lend flag (05 section 5.5). -/
structure ShareReq where
  screen : ScreenId
  layout : Layout
  tile : Fin 4
  head : HeadId
  lend : Bool
  deriving DecidableEq, Repr

/-- The operands of a SHARE in range (R100 step 1, R85): screen, layout kind, tile below its tile count, target, head, lend flag. -/
def shareOf (screen layout tile target head lend : Byte) : Option ShareReq := do
  let sc ← asFin 6 screen.toNat
  let ly ← Layout.ofByte layout
  let k ← asFin 4 tile.toNat
  let t ← asFin 8 target.toNat
  let h ← boolOf head
  let l ← boolOf lend
  if k.1 < ly.tiles then some { screen := sc, layout := ly, tile := k, head := headOf t h, lend := l } else none

/-- The SHARE an action's operands name, with lend yes (R82). -/
def Operands.shareReq (o : Operands) : Option ShareReq := shareOf o.screen o.layout o.tile o.target o.head 1

/-- The operands an action uses are in range (R85). -/
def Operands.inRange (o : Operands) : Action → Bool
  | .focus | .wake => decide (o.target.toNat < 8)
  | .restore => decide (o.screen.toNat < 6)
  | .share => o.shareReq.isSome
  | .nothing | .focusNext | .focusPrev | .focusToggle | .pinToggle | .notify | .host => true

/-- A head that a setup leaves unfitted: head B of a target with head A alone. -/
def State.headFitted (s : State) (h : HeadId) : Bool := !isHeadB h || s.setups[(headTarget h).1].headB

/-- The operands an action uses name fitted targets, screens and heads (R85 step 2). -/
def Operands.fitted (s : State) (o : Operands) : Action → Bool
  | .focus | .wake => decide (o.target.toNat < s.straps.targets)
  | .restore => decide (o.screen.toNat < s.straps.screens)
  | .share =>
    match o.shareReq with
    | some r => s.fittedScreen r.screen && s.fittedTarget (headTarget r.head) && s.headFitted r.head
    | none => false
  | .nothing | .focusNext | .focusPrev | .focusToggle | .pinToggle | .notify | .host => true

/-- An indicator source's operand is in range (R164). -/
def IndSource.operandInRange (src : IndSource) (o : Byte) : Bool :=
  match src with
  | .focus | .power | .waking => decide (o.toNat < 8)
  | .screenLoaned => decide (o.toNat < 6)
  | .nothing | .pin | .host => true

/-- An indicator source's operand names a fitted target or screen (R164). -/
def IndSource.operandFitted (s : State) (src : IndSource) (o : Byte) : Bool :=
  match src with
  | .focus | .power | .waking => decide (o.toNat < s.straps.targets)
  | .screenLoaned => decide (o.toNat < s.straps.screens)
  | .nothing | .pin | .host => true

/-! ## Staging blocks as read (R182) -/

/-- The first element, with its index from `i` on, that a check gives an answer for. -/
def firstFailure {α β : Type} (check : Nat → α → Option β) : Nat → List α → Option β
  | _, [] => none
  | i, a :: as =>
    match check i a with
    | some b => some b
    | none => firstFailure check (i + 1) as

/-- Entries of `size` bytes cut from a block. -/
def entriesOf (size : Nat) : Nat → List Byte → List (List Byte)
  | 0, _ => []
  | n + 1, bs => bs.take size :: entriesOf size n (bs.drop size)

/-- A placement entry (10 section 10.8); the enabled byte is judged apart. -/
def placementOf (e : List Byte) : Placement :=
  { enabled := decide (at8 e 0 = 1), refresh := (at8 e 1).toNat, x := at16 e 2, y := at16 e 4, w := at16 e 6, h := at16 e 8 }

/-- The range checks of a placement entry (R25 pass 1). -/
def placementInRange (e : List Byte) : Bool :=
  let p := placementOf e
  (boolOf (at8 e 0)).isSome && decide (320 ≤ p.w ∧ p.w ≤ 7680) && decide (200 ≤ p.h ∧ p.h ≤ 4320) &&
    decide (24 ≤ p.refresh ∧ p.refresh ≤ 240) && decide (p.x + p.w ≤ 32768) && decide (p.y + p.h ≤ 32768)

/-- Operand bytes target, screen, tile, layout kind, head from an offset on. -/
def operandsAt (e : List Byte) (i : Nat) : Operands :=
  { target := at8 e i, screen := at8 e (i + 1), tile := at8 e (i + 2), layout := at8 e (i + 3), head := at8 e (i + 4) }

/-- A hotkey table entry as read, with fire count 0 (R86). -/
def hotEntryOf (e : List Byte) : HotEntry :=
  { enabled := decide (at8 e 0 = 1), kind := at8 e 1, mods := at8 e 2, key := at8 e 3, action := at8 e 4,
    ops := operandsAt e 5, fires := 0 }

/-- The action of a hotkey entry: one of the nine kinds (04 section 4.1). -/
def hotAction (b : Byte) : Option Action :=
  match Action.ofByte b with
  | some .nothing | some .host | none => none
  | some a => some a

/-- The range pass of an entry (R85 pass 1). -/
def hotEntryInRange (e : List Byte) : Bool :=
  let h := hotEntryOf e
  match boolOf (at8 e 0) with
  | none => false
  | some false => true
  | some true =>
    decide (h.kind = 0 ∨ h.kind = 1) && decide (h.key ≠ 0) &&
      match hotAction h.action with
      | none => false
      | some a => h.ops.inRange a

/-- The fitting pass of an entry (R85 pass 2): enabled entries alone. -/
def hotEntryFitted (s : State) (e : List Byte) : Bool :=
  let h := hotEntryOf e
  !h.enabled ||
    match hotAction h.action with
    | none => true
    | some a => h.ops.fitted s a

/-- The range checks of an indicator's source, operand, intensity and pattern (R164 pass 1). -/
def indicatorInRange (src operand intensity pattern : Byte) : Bool :=
  match IndSource.ofByte src with
  | none => false
  | some i => i.operandInRange operand && decide (intensity.toNat ≤ 15) && (Pattern.ofByte pattern).isSome

/-- The range pass of a panel map entry (R164 pass 1). -/
def panelEntryInRange (e : List Byte) : Bool :=
  (match Action.ofByte (at8 e 0) with
    | none => false
    | some a => (operandsAt e 1).inRange a) &&
    indicatorInRange (at8 e 6) (at8 e 7) (at8 e 8) (at8 e 9)

/-- The fitting pass of a panel map entry (R164 pass 2). -/
def panelEntryFitted (s : State) (e : List Byte) : Bool :=
  (match Action.ofByte (at8 e 0) with
    | none => true
    | some a => (operandsAt e 1).fitted s a) &&
    match IndSource.ofByte (at8 e 6) with
    | none => true
    | some i => i.operandFitted s (at8 e 7)

/-- An indicator as read from four bytes, with a host level. -/
def indicatorOf (src operand intensity pattern : Byte) (level : Bool) : Indicator :=
  { source := (IndSource.ofByte src).getD .nothing, operand := operand, intensity := intensity.toNat,
    pattern := (Pattern.ofByte pattern).getD .steady, hostLevel := level }

/-- A time in ms rounded down to a multiple of 10 (R27, R87, R140). -/
def round10 (n : Nat) : Nat := n / 10 * 10

/-- Pulse width as taken: rounded down, and at most 2000 (R140). -/
def pulseWidthOf (n : Nat) : Nat := min (round10 n) 2000

/-- A target setup block as taken (10 section 10.8). -/
def setupOf (b : List Byte) : Setup :=
  { headB := decide (at8 b 0 = 2), under := decide (at8 b 1 = 1),
    wA := at16 b 2, hA := at16 b 4, wB := at16 b 6, hB := at16 b 8,
    excluded := decide (at8 b 10 = 1),
    policy :=
      { signal := decide (at8 b 11 = 1), pulse := decide (at8 b 12 = 1), retry := (at8 b 13).toNat,
        window := (at8 b 14).toNat, activeHigh := decide (at8 b 15 = 0), delay := round10 (at16 b 16),
        width := pulseWidthOf (at16 b 18) },
    falling := decide (at8 b 20 = 1), hysteresis := (at8 b 21).toNat, low := at16 b 22, high := at16 b 24 }

/-- The block as taken: pulse delay and width rounded and clamped, every other byte as read (R141). -/
def setupBytesTaken (b : List Byte) : List Byte :=
  b.take 16 ++ le16n (round10 (at16 b 16)) ++ le16n (pulseWidthOf (at16 b 18)) ++ (b.drop 20).take 6

/-- A head size in range: 320 to 7680 by 200 to 4320 (R41). -/
def sizeFailure (b : List Byte) (i : Nat) : Option Nat :=
  if at16 b i < 320 ∨ 7680 < at16 b i then some i
  else if at16 b (i + 2) < 200 ∨ 4320 < at16 b (i + 2) then some (i + 2)
  else none

/-- The checks of R140 on the block, in order, `showsB` telling whether a plan shows the target's head B: the offset of the first failing field (log 21 for the relations between two fields). -/
def setupFailure (b : List Byte) (showsB : Bool) : Option Nat :=
  let p := (setupOf b).policy
  let q := setupOf b
  if (boolOf (at8 b 11)).isNone then some 11
  else if (boolOf (at8 b 12)).isNone then some 12
  else if (boolOf (at8 b 15)).isNone then some 15
  else if p.retry < 1 ∨ 7 < p.retry then some 13
  else if p.window < 1 ∨ 60 < p.window then some 14
  else if 2550 < p.delay then some 16
  else if p.width < 50 then some 18
  else if (boolOf (at8 b 20)).isNone then some 20
  else if 1023 < q.low then some 22
  else if 1023 < q.high then some 24
  else if 63 < q.hysteresis then some 21
  else if q.low < q.hysteresis then some 21
  else if ¬(q.low + q.hysteresis < q.high) then some 22
  else if (boolOf (at8 b 10)).isNone then some 10
  else if at8 b 0 ≠ 1 ∧ at8 b 0 ≠ 2 then some 0
  else if at8 b 0 = 2 ∧ (boolOf (at8 b 1)).isNone then some 1
  else
    match sizeFailure b 2 with
    | some i => some i
    | none =>
      if at8 b 0 = 2 then sizeFailure b 6
      else if showsB then some 0
      else none

/-! ## Spans (R41) -/

/-- Span width. -/
def Setup.spanW (q : Setup) : Nat :=
  if !q.headB then q.wA else if q.under then max q.wA q.wB else q.wA + q.wB

/-- Span height. -/
def Setup.spanH (q : Setup) : Nat :=
  if !q.headB then q.hA else if q.under then q.hA + q.hB else max q.hA q.hB

/-- A head's offset in the span: head A at (0, 0), head B beside or under it. -/
def Setup.headOffset (q : Setup) (b : Bool) : Nat × Nat :=
  if !b then (0, 0) else if q.under then (0, q.hA) else (q.wA, 0)

/-- A head's pixel size. -/
def Setup.headSize (q : Setup) (b : Bool) : Nat × Nat :=
  if b then (q.wB, q.hB) else (q.wA, q.hA)

end Sys2Proof.Machine
end

