-- ==== Sys2Proof/Machine/Flags.lean ====
section
/-! DEFINITION. The conditions and flags the part works out from its state: NOTE_N and WAIT_N, the port registers as read, head watching, tile conditions, eligibility, the pending cause, indicator conditions and gates, tally duties, saturating counts. -/

namespace Sys2Proof.Machine

open Sys2Proof

/-! ## Port outputs and registers -/

/-- The 22 bytes of the notice summary (10 section 10.5). -/
def State.summary (s : State) : List Byte := s.xm.mem.block Config.noticeBase 22

/-- NOTE_N is asserted while its enable is on and a summary byte is not 0 (R180). -/
def State.noteN (s : State) : Bool := s.xm.noteEnable && s.summary.any fun b => !(b == 0)

/-- WAIT_N is asserted while a host access is stretched (R168, R169). -/
def State.waitN (s : State) : Bool := !s.xm.waiting.isEmpty

/-- The sweep state is SWEEPING (R174). -/
def SweepState.isSweeping : SweepState → Bool
  | .idle => false
  | .sweeping _ => true

/-- STATUS (R170). -/
def State.statusWord (s : State) : Word16 :=
  let glide : BitVec 1 := BitVec.ofBool s.straps.glide
  let flag : BitVec 1 := BitVec.ofBool s.xm.pendingSweep
  let sweeping : BitVec 1 := BitVec.ofBool s.xm.sweepState.isSweeping
  (0#3 ++ glide) ++ BitVec.ofNat 4 s.straps.targets ++ (0#1 ++ BitVec.ofNat 3 s.straps.screens) ++ (flag ++ sweeping ++ s.runState.code)

/-- LINE_CONTROL (R171). -/
def State.lineControlWord (s : State) : Word16 :=
  (0#4 ++ s.xm.sweepPeriod.code) ++ (0#7 ++ BitVec.ofBool s.xm.noteEnable)

/-! ## Counts -/

/-- A count that saturates at 255 (R2, R19). -/
def satInc (n : Nat) : Nat := if n < Config.saturation then n + 1 else n

/-! ## Heads and tiles -/

/-- A head is watched when its target is fitted and its setup fits the head (R109). -/
def State.watched (s : State) (h : HeadId) : Bool := s.fittedTarget (headTarget h) && s.headFitted h

/-- Its code in the SCREEN mirror (log 20). -/
def TileCond.code : TileCond → Byte
  | .dark => 0
  | .inert => 1
  | .excluded => 2
  | .live => 3

/-- Condition of a tile from its source and the composer's view (R92). -/
def sourceCond (view : Vector TargetView 8) : Option HeadId → TileCond
  | none => .dark
  | some h =>
    let v := view[(headTarget h).1]
    let presence := if isHeadB h then v.headB else v.headA
    if presence ≠ .present ∨ v.power ≠ .on ∨ v.link ≠ .up then .inert
    else if v.excluded then .excluded
    else .live

/-- The conditions of the four tiles of a screen's active plan. -/
def Composer.conditions (c : Composer) (sc : ScreenId) : List TileCond :=
  let p := c.screens[sc.1].active
  [sourceCond c.view p.src[0], sourceCond c.view p.src[1], sourceCond c.view p.src[2], sourceCond c.view p.src[3]]

/-- A plan shows a head of a target. -/
def Plan.shows (p : Plan) (t : TargetId) : Bool :=
  p.src.toList.any fun src => match src with
    | some h => decide (headTarget h = t)
    | none => false

/-- A plan shows this head. -/
def Plan.showsHead (p : Plan) (h : HeadId) : Bool := p.src.toList.any fun src => decide (src = some h)

/-- A target is shown when a tile of an enabled screen's active plan shows a head of it (R55 step 9). -/
def State.shown (s : State) (t : TargetId) : Bool :=
  (ids 6).any fun sc => s.cur.geo[sc.1].enabled && s.comp.screens[sc.1].active.shows t

/-- Some screen is enabled. -/
def State.anyEnabled (s : State) : Bool := (ids 6).any fun sc => s.cur.geo[sc.1].enabled

/-! ## Focus -/

/-- A target is eligible when its line is UP, its power ON and its head A PRESENT, as last reported (R50). -/
def Eligibility.eligible (e : Eligibility) : Bool :=
  decide (e.link = .up) && decide (e.power = .on) && decide (e.headA = .present)

/-- A target is eligible in the focus controller's view. -/
def Focus.eligible (f : Focus) (t : TargetId) : Bool := f.view[t.1].eligible

/-- The focus target, FOCUSED or PENDING. -/
def FocusState.target : FocusState → Option TargetId
  | .nobody => none
  | .focused t => some t
  | .pending t => some t

/-- The pending cause, derived from the working items (R48). -/
def Focus.cause (f : Focus) : Option Cause :=
  match f.st with
  | .pending _ =>
    some (if f.wakeOut then .waking else if f.bringOut.isSome then .bringing else .lost)
  | _ => none

/-! ## Panel -/

/-- Condition of an indicator, on or off, from the scanner's view (R159). -/
def Indicator.condition (v : PanelView) (i : Indicator) : Bool :=
  match i.source with
  | .nothing => false
  | .focus =>
    match v.focus.target with
    | some t => decide (t.1 = i.operand.toNat)
    | none => false
  | .power => (ids 8).any fun k => decide (k.1 = i.operand.toNat) && decide (v.power[k.1] = .on)
  | .waking => (ids 8).any fun k => decide (k.1 = i.operand.toNat) && v.waking[k.1]
  | .screenLoaned => (ids 6).any fun sc => decide (sc.1 = i.operand.toNat) && v.loaned[sc.1]
  | .pin => v.pin
  | .host => i.hostLevel

/-- The conditions of the 24 indicators. -/
def Panel.conditions (p : Panel) : List Bool := p.inds.toList.map fun i => i.condition p.view

/-- The pattern phase: ms from the end of the clear, 0 to 999 (R160). -/
def State.phase (s : State) : Nat := (s.now - s.panel.phaseStart) / 1000 % 1000

/-- A pattern's gate at a phase (R160). -/
def Pattern.gate (phase : Nat) : Pattern → Bool
  | .steady => true
  | .slow => decide (phase ≤ 499)
  | .fast => decide (phase % 250 ≤ 124)

/-- The sixteenths of a slot an indicator is lit for (R160). -/
def Indicator.litFor (v : PanelView) (phase : Nat) (i : Indicator) : Nat :=
  if i.condition v && i.pattern.gate phase then i.intensity else 0

/-- The buffered duty of a screen (R161). -/
def Panel.dutyOf (p : Panel) (straps : Straps) (sc : ScreenId) : Nat :=
  if sc.1 < straps.screens then
    match p.view.focus with
    | .focused t => if p.view.plans[sc.1].shows t then p.focusDuty else p.idleDuty
    | _ => p.idleDuty
  else 0

/-- A tally output is lit for the first working duty steps of each period of 256 (R162). -/
def State.tallyLit (s : State) (sc : ScreenId) : Bool :=
  !s.resetAsserted && decide ((s.now - s.panel.tallies[sc.1].periodStart) % 256 < s.panel.tallies[sc.1].working)

/-! ## Power -/

/-- Classification of a sample (R136): the bands depend on the power state. -/
def classify (q : Setup) (state : Power) (sample : Nat) : Power :=
  let hi := if state = .on then q.high - q.hysteresis else q.high
  let lo := if state = .on ∨ state = .asleep then q.low - q.hysteresis else q.low
  if hi ≤ sample then .on else if lo ≤ sample then .asleep else .off

/-- A converter result saturated to 0 to 1023, and turned round for FALLING polarity (R135). -/
def sampleOf (falling : Bool) (result : Int) : Nat :=
  let v := if result < 0 then 0 else if 1023 < result then 1023 else result.toNat
  if falling then 1023 - v else v

/-- The inactive level of a wake pulse output (R142). -/
def inactiveHigh (q : Setup) : Bool := !q.policy.activeHigh

end Sys2Proof.Machine
end

