-- ==== Sys2Proof/Machine/Notice.lean ====
section
/-! DEFINITION. The notice writer (10 section 10.5): the contents of every mirror, a rewrite with or without a notice, and the completion of a command cell. -/

namespace Sys2Proof.Machine

open Sys2Proof

/-- Number of a mirror among the revision counts; 0 to 20 are also its group's summary byte (10 section 10.5). -/
def Mirror.index : Mirror → Fin 22
  | .focus => 0
  | .target k => ⟨1 + k.1, by omega⟩
  | .screen sc => ⟨9 + sc.1, by omega⟩
  | .line l => ⟨15 + l.1, by omega⟩
  | .panel => 19
  | .hotkey => 20
  | .cursor => 21

/-- Address of a mirror (10 section 10.5). -/
def Mirror.base : Mirror → Nat
  | .focus => 0x0420
  | .cursor => 0x0440
  | .target k => 0x0460 + 64 * k.1
  | .screen sc => 0x0660 + 64 * sc.1
  | .line l => 0x07E0 + 8 * l.1
  | .hotkey => 0x0800
  | .panel => 0x0850

/-- Size of a mirror in bytes (10 section 10.5). -/
def Mirror.size : Mirror → Nat
  | .focus => 32
  | .cursor => 32
  | .target _ => 64
  | .screen _ => 64
  | .line _ => 8
  | .hotkey => 80
  | .panel => 196

/-- The FOCUS mirror from byte 2 on (R69). -/
def focusFields (f : Focus) : List Byte :=
  [f.st.code, optByte f.st.target, optByte f.previous, causeCode f.cause, boolByte f.pin, focusSourceCode f.source]
    ++ le16 f.count

/-- The cursor mirror from byte 2 on (R47). -/
def cursorFields (c : Cursor) : List Byte :=
  le16n c.x ++ le16n c.y ++
    [optByte c.screen, byte c.tile.1, c.dwell.code, optByte (c.dwell.hold.map Hold.dest)]

/-! ### The shares of the mirrors with more than one owner -/

/-- What the target line controller gives of a line (R23). -/
def TargetLine.mirrored (l : TargetLine) : LineShare :=
  { link := l.link, collapsed := l.collapsed, driving := l.resumeUntil.isSome }

/-- What the power supervisor gives of a target (R153). -/
def PowerRec.mirrored (r : PowerRec) (w : WakeOp) : PowerShare :=
  { power := r.state, sample := r.sample, wake := w.state, attempts := w.attempts, method := w.method,
    joined := w.joined.length }

/-- What the head signal monitor gives of a head (R120). -/
def HeadRec.mirrored (r : HeadRec) : SignalShare :=
  { presence := r.presence, good := r.good, rate := r.rate, lastPeriod := r.lastPeriod }

/-- What the display identity unit gives of a head (R134). -/
def Served.mirrored (v : Served) : ServedShare :=
  { state := v.state, source := v.source, follow := v.follow, hotplug := v.hotplug, pending := v.pending.isSome }

/-- What the screen composer gives of a screen (R107). -/
def Composer.mirrored (c : Composer) (sc : ScreenId) : PlanShare :=
  let r := c.screens[sc.1]
  { state := r.state, active := r.active, conditions := Vector.ofFn fun i => sourceCond c.view r.active.src[i.1],
    staged := r.staged.map fun g => { plan := g.plan, purpose := g.purpose, home := g.home },
    ret := r.ret, loans := r.loans, home := r.home }

/-- What the display identity unit gives of a screen (R134). -/
def ScreenIdent.mirrored (r : ScreenIdent) : IdentShare :=
  { state := r.state, held := r.held, attempts := r.attempts, presence := r.presence }

/-- One owner's fields of a mirror that has more than one owner (10 section 10.5). -/
inductive Share where
  | line (k : TargetId)
  | power (k : TargetId)
  | signal (h : HeadId)
  | served (h : HeadId)
  | plans (sc : ScreenId)
  | ident (sc : ScreenId)
  deriving DecidableEq, Repr

/-- The mirror that a share belongs to. -/
def Share.mirror : Share → Mirror
  | .line k => .target k
  | .power k => .target k
  | .signal h => .target (headTarget h)
  | .served h => .target (headTarget h)
  | .plans sc => .screen sc
  | .ident sc => .screen sc

/-- An owner gives the notice writer its fields as they stand, and the fields of the other owners stay as those last gave them (R181). -/
def give (p : Share) (s : State) : State :=
  let g := s.xm.given
  let g := match p with
    | .line k => { g with lines := upd g.lines k fun _ => s.tlines[k.1].mirrored }
    | .power k => { g with powers := upd g.powers k fun _ => s.power[k.1].mirrored s.wakes[k.1] }
    | .signal h => { g with signals := upd g.signals h fun _ => s.heads[h.1].mirrored }
    | .served h => { g with served := upd g.served h fun _ => s.served[h.1].mirrored }
    | .plans sc => { g with plans := upd g.plans sc fun _ => s.comp.mirrored sc }
    | .ident sc => { g with idents := upd g.idents sc fun _ => s.idents[sc.1].mirrored }
  { s with xm := { s.xm with given := g } }

/-- Every owner's fields as they stand. -/
def State.gives (s : State) : Given :=
  { lines := Vector.ofFn fun k => s.tlines[k.1].mirrored
    powers := Vector.ofFn fun k => s.power[k.1].mirrored s.wakes[k.1]
    signals := Vector.ofFn fun h => s.heads[h.1].mirrored
    served := Vector.ofFn fun h => s.served[h.1].mirrored
    plans := Vector.ofFn s.comp.mirrored
    idents := Vector.ofFn fun sc => s.idents[sc.1].mirrored }

/-- Every owner gives its fields, as at a rewrite of the whole notice area (R181). -/
def giveAll (s : State) : State := { s with xm := { s.xm with given := s.gives } }

/-- The sixteen bytes of a head in the TARGET mirror (R120, R134). -/
def headFields (r : SignalShare) (v : ServedShare) : List Byte :=
  [r.presence.code, byte r.good] ++ le16n r.rate ++ le32 (BitVec.ofNat 32 r.lastPeriod) ++
    [v.state.code, v.source.kind, v.source.screenByte, boolByte v.follow, boolByte v.hotplug, boolByte v.pending, 0, 0]

/-- The TARGET mirror from byte 2 on (R23, R120, R134, R153). -/
def targetFields (g : Given) (k : TargetId) : List Byte :=
  let l := g.lines[k.1]
  let p := g.powers[k.1]
  [l.link.code, byte l.collapsed, boolByte l.driving, p.power.code] ++ le16n p.sample ++
    [p.wake.code, byte p.attempts, methodCode p.method, byte p.joined] ++
    headFields g.signals[(headAOf k).1] g.served[(headAOf k).1] ++
    headFields g.signals[(headBOf k).1] g.served[(headBOf k).1]

/-- Five bytes of a plan, zeros for an absent one (log 19). -/
def optPlanBytes : Option Plan → List Byte
  | some p => p.bytes
  | none => [0, 0, 0, 0, 0]

/-- A loan entry of the SCREEN mirror. -/
def Loan.bytes (l : Loan) : List Byte := [byte l.tile.1, l.kind.code, byte l.lender.1]

/-- The SCREEN mirror from byte 2 on (R107, R134). -/
def screenFields (g : Given) (sc : ScreenId) : List Byte :=
  let r := g.plans[sc.1]
  let i := g.idents[sc.1]
  [r.state.code] ++ r.active.bytes ++ r.conditions.toList.map TileCond.code ++
    (match r.staged with
      | some g => [1, g.purpose.code, boolByte g.home]
      | none => [0, 0, 0]) ++
    optPlanBytes (r.staged.map StagedShare.plan) ++
    [boolByte r.ret.isSome] ++ optPlanBytes r.ret ++
    [byte r.loans.length] ++ padTo 12 (r.loans.flatMap Loan.bytes) ++
    r.home.bytes ++
    [i.state.code, boolByte i.held, byte i.attempts, boolByte i.presence]

/-! ### The other mirrors -/

/-- A LINE mirror from byte 2 on (R11). -/
def lineFields (l : DeskLine) : List Byte := [l.cls.code, byte l.bad]

/-- The HOTKEY mirror from byte 2 on (R84). -/
def hotkeyFields (h : Hotkeys) : List Byte :=
  [optByte h.lastFired, 0] ++ h.table.toList.flatMap fun e => le16 e.fires

/-- A position's eight bytes of the PANEL mirror (R166). -/
def positionFields (p : Panel) (i : PosId) : List Byte :=
  let k := p.keys[i.1]
  let d := p.inds[i.1]
  [k.state.code, k.events, d.source.code, d.operand, byte d.intensity, d.pattern.code, boolByte d.hostLevel,
    boolByte (d.condition p.view)]

/-- The PANEL mirror from byte 2 on (R166). -/
def panelFields (p : Panel) : List Byte :=
  [optByte (p.lastEvent.map Prod.fst),
    match p.lastEvent with
    | some (_, true) => 1
    | _ => 0] ++ (ids 24).flatMap (positionFields p)

/-- The fields of a mirror from byte 2 on: those of its one owner as they stand, those of several owners as each last gave them (R181). -/
def mirrorFields (s : State) : Mirror → List Byte
  | .focus => focusFields s.focus
  | .cursor => cursorFields s.cur.cursor
  | .target k => targetFields s.xm.given k
  | .screen sc => screenFields s.xm.given sc
  | .line l => lineFields s.desk.lines[l.1]
  | .hotkey => hotkeyFields s.hot
  | .panel => panelFields s.panel

/-- Bytes written into the exchange memory by the part. -/
def writeMem (a : Nat) (bs : List Byte) (s : State) : State :=
  { s with xm := { s.xm with mem := s.xm.mem.write a bs } }

/-- A summary byte set to 1 (R179). -/
def setSummary (group : Nat) (s : State) : State := writeMem (Config.noticeBase + group) [1] s

/-- A mirror's whole rewrite: its revision count increments and every byte of it is written (R181). -/
def rewriteMirror (m : Mirror) (s : State) : State :=
  let rev := s.xm.revision[m.index.1] + 1
  writeMem m.base (le16 rev ++ padTo (m.size - 2) (mirrorFields s m))
    { s with xm := { s.xm with revision := s.xm.revision.set m.index.1 rev m.index.2 } }

/-- A rewrite with a notice: the group's summary byte is set in the same hold (R179). -/
def notice (m : Mirror) (s : State) : State := setSummary m.index.1 (rewriteMirror m s)

/-- An owner of a shared mirror gives its fields, and the mirror is rewritten in place (R179, R181). -/
def rewriteOf (p : Share) (s : State) : State := rewriteMirror p.mirror (give p s)

/-- An owner of a shared mirror gives its fields, and the mirror is rewritten with a notice (R179, R181). -/
def noticeOf (p : Share) (s : State) : State := notice p.mirror (give p s)

/-- The mirrors a whole rewrite of the notice area writes (R181). -/
def allMirrors : List Mirror :=
  [.focus, .cursor] ++ (ids 8).map .target ++ (ids 6).map .screen ++ (ids 4).map .line ++ [.hotkey, .panel]

/-- The cursor mirror is rewritten when any of its fields differs from before (R47). -/
def cursorMirrorSince (old : Cursor) (s : State) : State :=
  if cursorFields old = cursorFields s.cur.cursor then s else rewriteMirror .cursor s

/-! ## Completions (R177) -/

/-- Address of a cell. -/
def cellBase (c : CellId) : Nat := 64 * c.1

/-- The in-work entry of a cell. -/
def Exchange.entry (x : Exchange) (c : CellId) : Option InWork := x.inWork.find? fun e => decide (e.cell = c)

/-- A completion: the header and the 52 bytes are written in one hold, the sweep number's bytes are not written (R178; log 44), the cell leaves the in-work set and the CELLS byte is set (R177). A cell that is not in the in-work set is not written (R173). -/
def complete (c : CellId) (r : Result) (data : List Byte) (s : State) : State :=
  match s.xm.entry c with
  | none => s
  | some e =>
    let n := s.xm.completionNo + 1
    let s := { s with xm := { s.xm with completionNo := n, inWork := s.xm.inWork.filter fun x => decide (x.cell ≠ c) } }
    let s := writeMem (cellBase c) (le16 e.tag ++ [3, e.kind, r.code, byte data.length]) s
    let s := writeMem (cellBase c + 8) (le32 n ++ padTo 52 data) s
    setSummary 21 s

/-- Cells completed in order, each with its data worked out as it is completed. -/
def completeAll (cells : List CellId) (r : Result) (data : State → List Byte) (s : State) : State :=
  cells.foldl (fun s c => complete c r (data s) s) s

end Sys2Proof.Machine
end

