-- ==== Sys2Proof/Machine/TargetLine.lean ====
section
/-! DEFINITION. The target line controller (01 sections 1.2 and 1.3): the joining rules of an output queue, reports handed in, flushes, transmissions and the resume signal on the line. -/

namespace Sys2Proof.Machine

open Sys2Proof

/-! ## Joining rules -/

/-- A report is a KEYS. -/
def Report.isKeys : Report → Bool
  | .keys _ => true
  | .point _ _ _ _ => false

/-- The merge of a new entry into the newest entry (R18): both POINT, the same buttons, the wheels' sum in −8 to 7. The merged entry takes the new report's position and origin. -/
def mergePoint (newest new : Entry) : Option Entry :=
  match newest.report, new.report with
  | .point b _ _ w, .point b' x' y' w' =>
    if b = b' ∧ -8 ≤ w + w' ∧ w + w' ≤ 7 then some { report := .point b' x' y' (w + w'), origin := new.origin }
    else none
  | _, _ => none

/-- The newest entry of the new report's kind replaced whole, keeping its place (R19). -/
def replaceNewest (new : Entry) : List Entry → Option (List Entry)
  | [] => none
  | e :: es =>
    match replaceNewest new es with
    | some es' => some (e :: es')
    | none => if e.report.isKeys = new.report.isKeys then some (new :: es) else none

/-- The joining rules (R18, R19): the queue after, and whether a report was lost to them. -/
def joinQueue (q : List Entry) (new : Entry) : List Entry × Bool :=
  match q.getLast?.bind (mergePoint · new) with
  | some m => (q.dropLast ++ [m], false)
  | none =>
    if q.length < Config.queueCapacity then (q ++ [new], false)
    else
      match replaceNewest new q with
      | some q' => (q', true)
      | none => if new.report.isKeys then (q.tail ++ [new], true) else (q, true)

/-- A KEYS report of origin FOCUS equal to last keys sent, its codes taken as a set (R17). -/
def sameKeys (a b : Keys) : Bool := decide (a.mods = b.mods) && sameCodes a.codes b.codes

/-- The record after a report has gone through the joining rules; last keys sent takes the keys of every KEYS that enters (R20). -/
def TargetLine.join (l : TargetLine) (new : Entry) : TargetLine :=
  let r := joinQueue l.queue new
  { l with
    queue := r.1,
    lastSent := match new.report with
      | .keys k => k
      | .point _ _ _ _ => l.lastSent,
    collapsed := if r.2 then satInc l.collapsed else l.collapsed }

/-- A KEYS report of origin FOCUS that R17 discards. -/
def TargetLine.discards (l : TargetLine) (new : Entry) : Bool :=
  match new.report, new.origin with
  | .keys k, .focus => sameKeys k l.lastSent
  | _, _ => false

/-- A report handed in for a target (R17 to R20): discarded when the line is not UP or the KEYS repeats last keys sent; a change of collapsed reports rewrites the TARGET mirror (R23). -/
def handIn (k : TargetId) (r : Report) (o : Origin) (s : State) : State :=
  let l := s.tlines[k.1]
  let new : Entry := { report := r, origin := o }
  if l.link = .up ∧ l.discards new = false then
    let s' := modTLine k (fun l => l.join new) s
    if (l.join new).collapsed = l.collapsed then s' else noticeOf (.line k) s'
  else s

/-! ## Flushes -/

/-- The record of a line that leaves UP (R21). -/
def TargetLine.flush (l : TargetLine) : TargetLine :=
  { l with queue := [], lastSent := Keys.empty, onLine := Keys.empty }

/-- The keys of the newest KEYS entry of a queue. -/
def newestKeys (q : List Entry) : Option Keys :=
  q.reverse.findSome? fun e => match e.report with
    | .keys k => some k
    | .point _ _ _ _ => none

/-- The release flush at restart (R22): entries of origin FOCUS are removed, and last keys sent becomes the keys of the newest KEYS left, else of a KEYS in transmission, else keys on line. -/
def TargetLine.releaseFlush (l : TargetLine) : TargetLine :=
  let q := l.queue.filter fun e => decide (e.origin = .release)
  let sent :=
    match newestKeys q with
    | some k => k
    | none =>
      match l.inTx with
      | some (.keys k) => k
      | _ => l.onLine
  { l with queue := q, lastSent := sent }

/-! ## Transmissions -/

/-- The record after its transmission has ended (R15): keys on line takes a KEYS completed while UP. -/
def TargetLine.endTransmission (l : TargetLine) : TargetLine :=
  match l.inTx with
  | some (.keys k) => { l with inTx := none, onLine := if l.link = .up then k else l.onLine }
  | some (.point _ _ _ _) => { l with inTx := none }
  | none => l

/-- The oldest entry leaves the queue and becomes the report in transmission (R14). -/
def TargetLine.startTransmission (l : TargetLine) : TargetLine :=
  match l.queue with
  | [] => l
  | e :: es => { l with queue := es, inTx := some e.report }

/-! ## The resume signal on the line (R16) -/

/-- The power supervisor's request: driven at once on a SUSPENDED line, joined when it is driving already, not driven otherwise. Answers whether it is driven. -/
def requestResume (k : TargetId) (s : State) : Bool × State :=
  let l := s.tlines[k.1]
  if l.link = .suspended then
    match l.resumeUntil with
    | some _ => (true, s)
    | none =>
      (true, noticeOf (.line k) (modTLine k (fun l => { l with resumeUntil := some (s.now + Config.resumeSignal) }) s))
  else (false, s)

/-- The signal, if driving, ends, and the mirror is rewritten. -/
def stopResume (k : TargetId) (s : State) : State :=
  if s.tlines[k.1].resumeUntil.isSome then
    noticeOf (.line k) (modTLine k (fun l => { l with resumeUntil := none }) s)
  else s

/-- The release pair given to a target that loses focus (R54 step 1): KEYS with nothing held, then POINT with no buttons at its last absolute point. -/
def releasePair (k : TargetId) (s : State) : State :=
  let p := s.cur.lastAbs[k.1]
  handIn k (.point 0 p.1 p.2 0) .release (handIn k (.keys Keys.empty) .release s)

end Sys2Proof.Machine
end

