-- ==== Sys2Proof/Machine/Cursor.lean ====
section
/-! DEFINITION. The cursor engine's geometry (02): tiles, locating a point, the mapping to absolute coordinates, building a POINT, placing the cursor, and locating it again. -/

namespace Sys2Proof.Machine

open Sys2Proof

/-- A rectangle of desk points. -/
structure Rect where
  x : Nat
  y : Nat
  w : Nat
  h : Nat
  deriving DecidableEq, Repr

/-- A point lies in a rectangle: from x to x + w − 1 and from y to y + h − 1 (02 section 2.1). -/
def Rect.contains (r : Rect) (px py : Int) : Bool :=
  decide ((r.x : Int) ≤ px ∧ px < r.x + r.w ∧ (r.y : Int) ≤ py ∧ py < r.y + r.h)

/-- Two rectangles share a desk point. -/
def Rect.overlaps (a b : Rect) : Bool :=
  decide (a.x < b.x + b.w ∧ b.x < a.x + a.w ∧ a.y < b.y + b.h ∧ b.y < a.y + a.h)

/-- The centre of a rectangle. -/
def Rect.centre (r : Rect) : Nat × Nat := (r.x + r.w / 2, r.y + r.h / 2)

/-- A placement's rectangle. -/
def Placement.rect (p : Placement) : Rect := { x := p.x, y := p.y, w := p.w, h := p.h }

/-- The tile of a layout kind on a screen of size W by H, as offset and size (R39). -/
def tileOf (l : Layout) (W H : Nat) (i : Fin 4) : Option Rect :=
  let wL := W / 2
  let wR := W - wL
  let hT := H / 2
  let hB := H - hT
  match l, i.1 with
  | .full, 0 => some ⟨0, 0, W, H⟩
  | .pair, 0 => some ⟨0, 0, wL, H⟩
  | .pair, 1 => some ⟨wL, 0, wR, H⟩
  | .stack, 0 => some ⟨0, 0, W, hT⟩
  | .stack, 1 => some ⟨0, hT, W, hB⟩
  | .quad, 0 => some ⟨0, 0, wL, hT⟩
  | .quad, 1 => some ⟨wL, 0, wR, hT⟩
  | .quad, 2 => some ⟨0, hT, wL, hB⟩
  | .quad, 3 => some ⟨wL, hT, wR, hB⟩
  | .trio, 0 => some ⟨0, 0, wL, H⟩
  | .trio, 1 => some ⟨wL, 0, wR, hT⟩
  | .trio, 2 => some ⟨wL, hT, wR, hB⟩
  | _, _ => none

/-- A tile of a screen's active plan at its desk position. -/
def State.tileRect (s : State) (sc : ScreenId) (i : Fin 4) : Option Rect :=
  let p := s.cur.geo[sc.1]
  (tileOf s.comp.screens[sc.1].active.layout p.w p.h i).map fun r => { r with x := p.x + r.x, y := p.y + r.y }

/-- The source of a tile of a screen's active plan. -/
def State.tileSource (s : State) (sc : ScreenId) (i : Fin 4) : Option HeadId := s.comp.screens[sc.1].active.src[i.1]

/-- The condition of a tile of a screen's active plan (R92), read as it stands. -/
def State.tileCond (s : State) (sc : ScreenId) (i : Fin 4) : TileCond := sourceCond s.comp.view (s.tileSource sc i)

/-- The target a tile shows. -/
def State.tileTarget (s : State) (sc : ScreenId) (i : Fin 4) : Option TargetId := (s.tileSource sc i).map headTarget

/-- The enabled screen and its tile that hold a point (R40). -/
def State.locate (s : State) (px py : Int) : Option (ScreenId × Fin 4) :=
  (ids 6).findSome? fun sc =>
    if s.cur.geo[sc.1].enabled && s.cur.geo[sc.1].rect.contains px py then
      ((ids 4).find? fun i => match s.tileRect sc i with
        | some r => r.contains px py
        | none => false).map fun i => (sc, i)
    else none

/-- The tile under the cursor, found from the cursor's point in the plans as they stand. -/
def State.underCursor (s : State) : Option (ScreenId × Fin 4) :=
  s.locate (s.cur.cursor.x : Int) (s.cur.cursor.y : Int)

/-- The cursor lies in a tile showing a head of a target. -/
def State.cursorOn (s : State) (t : TargetId) : Bool :=
  match s.underCursor with
  | some (sc, i) => decide (s.tileTarget sc i = some t)
  | none => false

/-- The mapping of a desk point in a tile's rectangle through a head of a setup (R42). -/
def mapPoint (r : Rect) (q : Setup) (b : Bool) (cx cy : Nat) : Nat × Nat :=
  let u := cx - r.x
  let v := cy - r.y
  let px := u * (q.headSize b).1 / r.w
  let py := v * (q.headSize b).2 / r.h
  (((q.headOffset b).1 + px) * 32768 / q.spanW, ((q.headOffset b).2 + py) * 32768 / q.spanH)

/-- The absolute coordinates of the cursor through the current tile (R42). -/
def State.mapCursor (s : State) : Option (Nat × Nat) :=
  match s.cur.cursor.screen with
  | none => none
  | some sc =>
    match s.tileRect sc s.cur.cursor.tile, s.tileSource sc s.cur.cursor.tile with
    | some r, some h =>
      some (mapPoint r s.setups[(headTarget h).1] (isHeadB h) s.cur.cursor.x s.cur.cursor.y)
    | _, _ => none

/-- A POINT built for a target with the desk's buttons and a wheel, handed to its queue; its last absolute point and last POINT buttons follow (R44, R45). -/
def buildPoint (t : TargetId) (wheel : Int) (s : State) : State :=
  match s.mapCursor with
  | none => s
  | some p =>
    let s := handIn t (.point s.cur.deskButtons p.1 p.2 wheel) .focus s
    { s with cur := { s.cur with
        lastAbs := s.cur.lastAbs.set t.1 p t.2,
        lastButtons := s.cur.lastButtons.set t.1 s.cur.deskButtons t.2 } }

/-- The focus controller's request for a POINT (R45): built while FOCUSED, with wheel 0. -/
def requestPoint (s : State) : State :=
  match s.focus.st with
  | .focused t => buildPoint t 0 s
  | _ => s

/-- Both residuals 0 and the dwell state CLEAR (R31). -/
def Cursor.still (c : Cursor) : Cursor := { c with rx := 0, ry := 0, dwell := .clear }

/-- The first tile of the enabled screens' active plans showing a head (R46 step 2). -/
def State.findHead (s : State) (h : HeadId) : Option (ScreenId × Fin 4) :=
  (ids 6).findSome? fun sc =>
    if s.cur.geo[sc.1].enabled then
      ((ids 4).find? fun i => decide (s.tileSource sc i = some h) && (s.tileRect sc i).isSome).map fun i => (sc, i)
    else none

/-- The placement tile of a target: head A first, then head B (R46 step 2). -/
def State.placementTile (s : State) (t : TargetId) : Option (ScreenId × Fin 4) :=
  match s.findHead (headAOf t) with
  | some p => some p
  | none => s.findHead (headBOf t)

/-- The cursor moved to the centre of a tile (R46 step 3). -/
def moveToTile (sc : ScreenId) (i : Fin 4) (s : State) : State :=
  match s.tileRect sc i with
  | none => s
  | some r =>
    rewriteMirror .cursor
      (modCursor (fun c => { c.still with x := r.centre.1, y := r.centre.2, screen := some sc, tile := i }) s)

/-- The focus controller's request to place the cursor (R46); answers whether the target is shown. -/
def placeCursor (t : TargetId) (s : State) : Bool × State :=
  if s.cursorOn t then (true, s)
  else
    match s.placementTile t with
    | some (sc, i) => (true, moveToTile sc i s)
    | none => (false, s)

/-- The cursor's point located again (R40); a point in no enabled screen leaves the current screen and tile as they are. -/
def relocate (s : State) : State :=
  match s.underCursor with
  | some (sc, i) => modCursor (fun c => { c with screen := some sc, tile := i }) s
  | none => s

/-- The cursor engine's handling of the report of a new active plan on a screen (R40, R47). -/
def planReportToCursor (sc : ScreenId) (s : State) : State :=
  if s.cur.cursor.screen = some sc then cursorMirrorSince s.cur.cursor (relocate s) else s

/-- The lowest-numbered enabled screen. -/
def State.lowestEnabled (s : State) : Option ScreenId := (ids 6).find? fun sc => s.cur.geo[sc.1].enabled

/-- The cursor put at the centre of a screen and located (R26 step 4, R28). -/
def centreOn (sc : ScreenId) (s : State) : State :=
  let p := s.cur.geo[sc.1].rect.centre
  relocate (modCursor (fun c => { c with x := p.1, y := p.2 }) s)

end Sys2Proof.Machine
end

