-- ==== Sys2Proof/Machine/PanelView.lean ====
section
/-! DEFINITION. The panel scanner's view (09 sections 9.3 and 9.4): what it does at each report it is given. -/

namespace Sys2Proof.Machine

open Sys2Proof

/-- The buffered duties worked out afresh (R161). -/
def Panel.workOutDuties (p : Panel) (straps : Straps) : Panel :=
  { p with tallies := mapVec p.tallies fun sc t => { t with buffered := p.dutyOf straps sc } }

/-- The scanner's records changed, the buffered duties worked out, and the PANEL mirror rewritten in place when an indicator's condition changed (R159, R161, R166). -/
def panelReport (f : Panel → Panel) (s : State) : State :=
  let p := (f s.panel).workOutDuties s.straps
  let s' := { s with panel := p }
  if p.conditions = s.panel.conditions then s' else rewriteMirror .panel s'

/-- The focus record as it stands, given to the scanner (R69, R159). -/
def focusToPanel (s : State) : State :=
  panelReport (fun p => { p with view := { p.view with focus := s.focus.st, pin := s.focus.pin } }) s

/-- A power state given to the scanner (R139). -/
def powerToPanel (k : TargetId) (v : Power) (s : State) : State :=
  panelReport (fun p => { p with view := { p.view with power := p.view.power.set k.1 v k.2 } }) s

/-- The start or end of a wake operation given to the scanner (R152). -/
def wakingToPanel (k : TargetId) (v : Bool) (s : State) : State :=
  panelReport (fun p => { p with view := { p.view with waking := p.view.waking.set k.1 v k.2 } }) s

/-- A screen's new active plan and whether it holds a loan, given to the scanner (R97). -/
def planToPanel (sc : ScreenId) (s : State) : State :=
  let r := s.comp.screens[sc.1]
  panelReport (fun p => { p with view := { p.view with
    loaned := p.view.loaned.set sc.1 (!r.loans.isEmpty) sc.2,
    plans := p.view.plans.set sc.1 r.active sc.2 } }) s

end Sys2Proof.Machine
end

