-- ==== Sys2Proof/Machine/Composer.lean ====
section
/-! DEFINITION. The screen composer (05): tile conditions and their reports, the crosspoint presentation, staging, application, sharing, restoring and returning. -/

namespace Sys2Proof.Machine

open Sys2Proof

/-! ## Presentation (R93) -/

/-- A presented tile field: the source of a LIVE or EXCLUDED tile, 0xFF for the fill. -/
def presentedSource (view : Vector TargetView 8) (src : Option HeadId) : Byte :=
  match sourceCond view src with
  | .live | .excluded => sourceCode src
  | .dark | .inert => 0xFF

/-- The five presented fields of a screen: its layout kind and four tiles; an UNFITTED screen presents the fill in one tile of a FULL layout. -/
def Composer.presentedFields (c : Composer) (sc : ScreenId) : List Byte :=
  let r := c.screens[sc.1]
  match r.state with
  | .unfitted => [Layout.full.code, 0xFF, 0xFF, 0xFF, 0xFF]
  | _ =>
    [r.active.layout.code, presentedSource c.view r.active.src[0], presentedSource c.view r.active.src[1],
      presentedSource c.view r.active.src[2], presentedSource c.view r.active.src[3]]

/-- The value presented at a field's address: screen s has addresses 5 × s to 5 × s + 4. -/
def Composer.presented (c : Composer) (a : Fin 30) : Byte :=
  (c.presentedFields ⟨a.1 / 5, by omega⟩).getD (a.1 % 5) 0xFF

/-- Fields written with their presented values, each with its address and data lines and one pulse of the strobe, in order (log 37). -/
def Composer.writeFields (c : Composer) (as : List (Fin 30)) : Composer :=
  { c with
    xpoint := mapVec c.xpoint fun a old => if as.contains a then c.presented a else old,
    strobes := c.strobes ++ as.map fun a => { addr := a, data := c.presented a } }

/-- The fields of a screen whose presented value is not the one latched, in address order (log 47). -/
def Composer.changedFields (c : Composer) (sc : ScreenId) : List (Fin 30) :=
  (ids 30).filter fun a => decide (a.1 / 5 = sc.1) && !decide (c.xpoint[a.1] = c.presented a)

/-- The changed fields of a screen written. -/
def Composer.present (c : Composer) (sc : ScreenId) : Composer := c.writeFields (c.changedFields sc)

/-- All thirty fields written, in address order. -/
def Composer.presentAll (c : Composer) : Composer := c.writeFields (ids 30)

/-- A screen's presentation made. -/
def presentScreen (sc : ScreenId) (s : State) : State := { s with comp := s.comp.present sc }

/-! ## The composer's view (R92) -/

/-- Whether a screen's presentation follows its conditions at once (R93). -/
def presentIfDisabled (sc : ScreenId) (s : State) : State :=
  if s.comp.screens[sc.1].state = .disabled then presentScreen sc s else s

/-- A report taken into the view: every screen whose active plan has a tile of changed condition has its SCREEN mirror rewritten with a notice; a DISABLED one is presented at once (R92, R93). -/
def viewReport (k : TargetId) (f : TargetView → TargetView) (s : State) : State :=
  let old := s.comp
  let s := { s with comp := { s.comp with view := upd s.comp.view k f } }
  (ids 6).foldl (fun s sc =>
    if s.comp.conditions sc = old.conditions sc then s
    else noticeOf (.plans sc) (presentIfDisabled sc s)) s

/-! ## Application (R95 to R97) -/

/-- The result data of R106: the screen, its active plan, and whether it holds a loan. -/
def planData (sc : ScreenId) (s : State) : List Byte :=
  let r := s.comp.screens[sc.1]
  [byte sc.1] ++ r.active.bytes ++ [boolByte (!r.loans.isEmpty)]

/-- A screen record after its staged plan has become active (R95 steps 1 to 3, R96). -/
def ScreenRec.applied (r : ScreenRec) (g : Staged) : ScreenRec :=
  { r with
    loans := g.loansAfter,
    ret := if g.loansAfter.isEmpty then none else match r.ret with
      | some p => some p
      | none => some r.active,
    active := g.plan,
    home := if g.home then g.plan else r.home,
    staged := none }

/-- The staged plan of a screen applied (R95 to R97); `inLoad` tells an application made at step 2 of R26. Without a staged plan the presentation alone is made. Of the two that take the report independently, the cursor engine takes it first (DESIGN CHOICE, log 56). -/
def applyStaged (sc : ScreenId) (inLoad : Bool) (s : State) : State :=
  match s.comp.screens[sc.1].staged with
  | none => presentScreen sc s
  | some g =>
    let s := presentScreen sc (modScreen sc (fun r => r.applied g) s)
    let s := completeAll g.cells .ok (planData sc) s
    let s := noticeOf (.plans sc) s
    let s := planToPanel sc s
    let s := post (if inLoad then .planInLoad sc else .plan sc) s
    planReportToCursor sc s

/-! ## Staging (R94) -/

/-- A plan staged on a screen (R94): a staged plan is replaced and its cells complete SUPERSEDED; on a DISABLED screen the plan is applied at once; an UNFITTED screen takes none. -/
def stage (sc : ScreenId) (g : Staged) (s : State) : State :=
  let r := s.comp.screens[sc.1]
  match r.state with
  | .unfitted => s
  | st =>
    let superseded := match r.staged with
      | some old => old.cells
      | none => []
    let s := modScreen sc (fun r => { r with staged := some g }) s
    let s := completeAll superseded .superseded (planData sc) s
    if st = .disabled then applyStaged sc false s else noticeOf (.plans sc) s

/-! ## Plans built for SHARE, RESTORE, brings and returns -/

/-- Loans kept and added by a SHARE (R101). -/
def shareLoans (r : ShareReq) (base : List Loan) : List Loan :=
  let kept := base.filter fun l => decide (l.tile ≠ r.tile) && decide (l.tile.1 < r.layout.tiles)
  if r.lend then
    (kept.filter fun l => decide (l.tile.1 < r.tile.1)) ++ [{ tile := r.tile, kind := .share, lender := r.head }] ++
      kept.filter fun l => decide (r.tile.1 < l.tile.1)
  else kept

/-- The plan a SHARE builds from the base (R101). -/
def sharePlan (r : ShareReq) (base : Plan) : Plan :=
  { layout := r.layout,
    src := Vector.ofFn fun i =>
      if i = r.tile then some r.head
      else if i.1 < r.layout.tiles ∧ i.1 < base.layout.tiles then base.src[i.1]
      else none }

/-- A SHARE that has passed its checks, staged (R101). -/
def stageShare (r : ShareReq) (cells : List CellId) (s : State) : State :=
  let b := s.comp.screens[r.screen.1]
  let loans := shareLoans r b.loans
  stage r.screen
    { plan := sharePlan r b.active, purpose := if loans.isEmpty then .host else .loan, home := false,
      loansAfter := loans, cells := cells } s

/-- The checks of R100 after the range step: the result of a refusal, if any. -/
def shareRefusal (s : State) (r : ShareReq) : Option Result :=
  if ¬(s.fittedScreen r.screen ∧ s.fittedTarget (headTarget r.head) ∧ s.headFitted r.head) then some .notFitted
  else if s.comp.screens[r.screen.1].state = .disabled then some .notReachable
  else none

/-- A SHARE request of a hotkey or a panel key: declined when the command would be refused (R82, R100). -/
def shareRequest (o : Operands) (s : State) : State :=
  match o.shareReq with
  | none => s
  | some r => if (shareRefusal s r).isSome then s else stageShare r [] s

/-- A RESTORE that is taken (R102): a staged RETURN plan is joined; otherwise the return plan, or the home plan, is staged. -/
def restoreScreen (sc : ScreenId) (cells : List CellId) (s : State) : State :=
  let r := s.comp.screens[sc.1]
  let fresh : Staged :=
    { plan := r.ret.getD r.home, purpose := .giveBack, home := false, loansAfter := [], cells := cells }
  match r.staged with
  | some g =>
    if g.purpose = .giveBack then
      modScreen sc (fun r => { r with staged := some { g with cells := g.cells ++ cells } }) s
    else stage sc fresh s
  | none => stage sc fresh s

/-- A RESTORE request of a hotkey or a panel key (R82, R102). -/
def restoreRequest (o : Operands) (s : State) : State :=
  match asFin 6 o.screen.toNat with
  | some sc => if s.fittedScreen sc then restoreScreen sc [] s else s
  | none => s

/-- The focus controller's bring (R105): a FULL plan showing head A of a target, as a BRING-LOAN. -/
def stageBring (t : TargetId) (sc : ScreenId) (s : State) : State :=
  stage sc
    { plan := Plan.fullOf (some (headAOf t)), purpose := .loan, home := false,
      loansAfter := [{ tile := 0, kind := .bring, lender := headAOf t }], cells := [] } s

/-- The coming loans of a screen (R103). -/
def ScreenRec.comingLoans (r : ScreenRec) : List Loan :=
  match r.staged with
  | some g => g.loansAfter
  | none => r.loans

/-- A return on one screen for the loans that match (R103); the RETURN plan it stages has home flag no (log 46). -/
def returnOn (lent : Loan → Bool) (s : State) (sc : ScreenId) : State :=
  let r := s.comp.screens[sc.1]
  if r.comingLoans.any lent then
    match r.staged, r.ret with
    | _, some p => stage sc { plan := p, purpose := .giveBack, home := false, loansAfter := [], cells := [] } s
    | some g, none =>
      let s := modScreen sc (fun r => { r with staged := none }) s
      let s := completeAll g.cells .aborted (planData sc) s
      post (.withdrawn sc) (noticeOf (.plans sc) s)
    | none, none => s
  else s

/-- A return asked for a lender and a kind: each screen in order (R103). -/
def returnLoans (lent : Loan → Bool) (s : State) : State := (ids 6).foldl (returnOn lent) s

/-- The return of every BRING-LOAN whose lender is a target (R105). -/
def returnBrings (t : TargetId) (s : State) : State :=
  returnLoans (fun l => decide (l.kind = .bring) && decide (headTarget l.lender = t)) s

/-! ## Reports of targets to the composer (R92, R104) -/

/-- A line state reported. -/
def linkToComposer (k : TargetId) (l : Link) (s : State) : State := viewReport k (fun v => { v with link := l }) s

/-- A power state reported; leaving ON asks a return for the target with any head. -/
def powerToComposer (k : TargetId) (old new : Power) (s : State) : State :=
  let s := viewReport k (fun v => { v with power := new }) s
  if old = .on ∧ new ≠ .on then returnLoans (fun l => decide (headTarget l.lender = k)) s else s

/-- A head's presence reported; becoming ABSENT asks a return for that head. -/
def presenceToComposer (h : HeadId) (p : Presence) (s : State) : State :=
  let s := viewReport (headTarget h) (fun v => if isHeadB h then { v with headB := p } else { v with headA := p }) s
  if p = .absent then returnLoans (fun l => decide (l.lender = h)) s else s

/-! ## Screen states (R91) -/

/-- Frame boundary timing started now with a refresh (R90, R91). -/
def ScreenRec.startTiming (r : ScreenRec) (now refresh : Nat) : ScreenRec :=
  { r with refresh := refresh, timingStart := some now, boundary := 1 }

/-- A screen's new enabled and refresh fields (R91). -/
def screenPlacement (sc : ScreenId) (enabled : Bool) (refresh : Nat) (s : State) : State :=
  match s.comp.screens[sc.1].state, enabled with
  | .unfitted, _ => s
  | .disabled, false => s
  | .disabled, true =>
    noticeOf (.plans sc) (modScreen sc (fun r => { r.startTiming s.now refresh with state := .running }) s)
  | .running, true => modScreen sc (fun r => r.startTiming s.now refresh) s
  | .running, false =>
    applyStaged sc true
      (noticeOf (.plans sc) (modScreen sc (fun r => { r with state := .disabled, timingStart := none }) s))

/-- When the next frame boundary of a screen is due (R90). -/
def ScreenRec.boundaryDue (r : ScreenRec) : Option Nat :=
  if r.state = .running then r.timingStart.map fun b => b + r.boundary * 1000000 / r.refresh else none

/-- Some plan of some screen shows this head (R107, last paragraph). -/
def State.anyPlanShows (s : State) (h : HeadId) : Bool :=
  (ids 6).any fun sc =>
    let r := s.comp.screens[sc.1]
    r.active.showsHead h || r.home.showsHead h ||
      (match r.ret with
        | some p => p.showsHead h
        | none => false) ||
      match r.staged with
      | some g => g.plan.showsHead h
      | none => false

/-- The staged plans discarded at restart: their cells complete ABORTED, screen by screen (R108). -/
def discardStaged (s : State) : State :=
  (ids 6).foldl (fun s sc =>
    match s.comp.screens[sc.1].staged with
    | none => s
    | some g => completeAll g.cells .aborted (planData sc) (modScreen sc (fun r => { r with staged := none }) s)) s

end Sys2Proof.Machine
end

