-- ==== Sys2Proof/Machine/Wake.lean ====
section
/-! DEFINITION. Wake operations (08 section 8.3): requests, attempts, the resume signal's answers, pulses, ends, and changes of a target's line state (R13), which end a resume signal. -/

namespace Sys2Proof.Machine

open Sys2Proof

/-- Who asks for a wake (08 section 8.3.1): a WAKE cell, the focus controller, or a hotkey or panel key with no one to tell. -/
inductive Requester where
  | cell (c : CellId)
  | focus
  | nobody
  deriving DecidableEq, Repr

/-- Result data of a WAKE (R150): the target, the outcome, the attempt number, the method and the power state as they stand. -/
def wakeData (k : TargetId) (outcome : Result) (s : State) : List Byte :=
  let w := s.wakes[k.1]
  [byte k.1, outcome.code, byte w.attempts, methodCode w.method, s.power[k.1].state.code]

/-- An outcome told to one requester (R144, R150). -/
def answerRequester (k : TargetId) (who : Requester) (outcome : Result) (s : State) : State :=
  match who with
  | .cell c => complete c outcome (wakeData k outcome s) s
  | .focus => post (.wakeAnswer k outcome) s
  | .nobody => s

/-- The method of an attempt (R145): the first prefers SIGNAL, a later one PULSE; none when no method is usable. -/
def chooseMethod (first : Bool) (p : Policy) (l : Link) : Option Method :=
  let signal := if l = .suspended ∧ p.signal = true then some Method.signal else none
  let pulse := if p.pulse then some Method.pulse else none
  if first then signal.or pulse else pulse.or signal

/-- The record after an operation has ended (R143): it returns to IDLE, its attempt number and method keep their values, and the output takes the given level. -/
def WakeOp.ended (w : WakeOp) (high : Bool) : WakeOp :=
  { w with state := .idle, policy := none, due := none, joined := [], answerFocus := false, outHigh := high }

/-- An operation's end (R150): the deadline is cancelled and the output takes the inactive level of the present polarity; the joined cells complete; the focus controller is told when it asked; the operation becomes IDLE; the end is reported and the mirror rewritten. -/
def endWake (k : TargetId) (outcome : Result) (s : State) : State :=
  let s := modWake k (fun w => { w with due := none, outHigh := inactiveHigh s.setups[k.1] }) s
  let w := s.wakes[k.1]
  let s := completeAll w.joined outcome (wakeData k outcome) s
  let s := if w.answerFocus then post (.wakeAnswer k outcome) s else s
  let s := modWake k (fun w => w.ended w.outHigh) s
  noticeOf (.power k) (wakingToPanel k false s)

/-- A wake operation enters a phase with a deadline, and the mirror is rewritten (R153). -/
def enterPhase (k : TargetId) (st : WakeState) (due : Option Nat) (s : State) : State :=
  noticeOf (.power k) (modWake k (fun w => { w with state := st, due := due }) s)

/-- The policy an operation copied at its start (R144). -/
def State.wakePolicy (s : State) (k : TargetId) : Policy := (s.wakes[k.1].policy).getD s.setups[k.1].policy

/-- WATCHING with the phase deadline at now plus the wake window (R146, R147). -/
def enterWatching (k : TargetId) (s : State) : State :=
  enterPhase k .watching (some (s.now + Config.ms (1000 * (s.wakePolicy k).window))) s

/-- An answer of the resume signal (R146): it reaches the operation only while it is SIGNALLING. -/
def resumeAnswer (k : TargetId) (s : State) : State :=
  if s.wakes[k.1].state = .signalling then enterWatching k s else s

/-- The pulse start at the end of the delay (R147): only while the power state is OFF or ASLEEP. -/
def startPulse (k : TargetId) (s : State) : State :=
  match s.power[k.1].state with
  | .off | .asleep =>
    let p := s.wakePolicy k
    enterPhase k .pulsing (some (s.now + Config.ms p.width)) (modWake k (fun w => { w with outHigh := p.activeHigh }) s)
  | .unknown | .on => enterWatching k s

/-- An attempt with a chosen method (R145 to R147). -/
def runAttempt (k : TargetId) (m : Method) (s : State) : State :=
  let s := modWake k (fun w => { w with attempts := w.attempts + 1, method := some m }) s
  match m with
  | .signal =>
    let r := requestResume k (enterPhase k .signalling none s)
    if r.1 then r.2 else resumeAnswer k r.2
  | .pulse =>
    let delay := (s.wakePolicy k).delay
    let s := enterPhase k .delaying (some (s.now + Config.ms delay)) s
    if delay = 0 then startPulse k s else s

/-- A later attempt (R145): with no usable method the operation ends WAKE_FAILED at once. -/
def nextAttempt (k : TargetId) (s : State) : State :=
  match chooseMethod false (s.wakePolicy k) s.tlines[k.1].link with
  | some m => runAttempt k m s
  | none => endWake k .wakeFailed s

/-- The record with a requester joined (R144): a cell once, the focus controller as answer focus, a hotkey or panel request not at all. -/
def WakeOp.join (w : WakeOp) : Requester → WakeOp
  | .cell c => if w.joined.contains c then w else { w with joined := w.joined ++ [c] }
  | .focus => { w with answerFocus := true }
  | .nobody => w

/-- A wake request (R144). -/
def requestWake (k : TargetId) (who : Requester) (s : State) : State :=
  let w := s.wakes[k.1]
  if w.state = .idle then
    if s.power[k.1].state = .on then answerRequester k who .ok s
    else
      let policy := s.setups[k.1].policy
      match chooseMethod true policy s.tlines[k.1].link with
      | none => answerRequester k who .noMethod s
      | some m =>
        let fresh : WakeOp := { w with attempts := 0, method := none, policy := some policy, joined := [], answerFocus := false }
        runAttempt k m (wakingToPanel k true (modWake k (fun _ => fresh.join who) s))
  else
    let s' := modWake k (fun w => w.join who) s
    if (w.join who).joined = w.joined then s' else rewriteOf (.power k) s'

/-- A wake request of a hotkey or panel key for its operand target (R83, R156, R157). -/
def wakeRequest (o : Operands) (s : State) : State :=
  match asFin 8 o.target.toNat with
  | some k => if s.fittedTarget k then requestWake k .nobody s else s
  | none => s

/-- A report that the power state has become ON ends a running operation OK (R149). -/
def wakeOnPower (k : TargetId) (s : State) : State :=
  if s.wakes[k.1].state = .idle then s else endWake k .ok s

/-- Restart of the power supervisor (R152, R185 step 1): every running operation ends with its joined cells ABORTED and its resume signal ended at once, in order of target number; then every other driving resume signal ends. -/
def restartWakes (s : State) : State :=
  let abort (s : State) (k : TargetId) : State :=
    if s.wakes[k.1].state = .idle then s
    else
      let s := stopResume k (modWake k (fun w => { w with due := none, outHigh := inactiveHigh s.setups[k.1] }) s)
      let s := completeAll s.wakes[k.1].joined .aborted (wakeData k .aborted) s
      let s := modWake k (fun w => w.ended w.outHigh) s
      noticeOf (.power k) (wakingToPanel k false s)
  (ids 8).foldl (fun s k => stopResume k s) ((ids 8).foldl abort s)

/-! ## Changes of line state (R13) -/

/-- The resume signal ends as its line leaves SUSPENDED, and the power supervisor is told that it was cut short (R16). -/
def cutResume (k : TargetId) (s : State) : State :=
  if s.tlines[k.1].resumeUntil.isSome then resumeAnswer k (stopResume k s) else s

/-- A line's record after a change of its state, before its resume signal ends (R13, R15, R21): leaving UP flushes the queue, and going DOWN abandons a transmission. -/
def TargetLine.relinked (l : TargetLine) (new : Link) : TargetLine :=
  let q := if l.link = .up then l.flush else l
  { q with link := new, inTx := if new = .down then none else q.inTx }

/-- A change of line state with its consequences (R13, R15, R21): leaving UP flushes the queue, leaving SUSPENDED ends the resume signal, going DOWN abandons a transmission; the focus controller and the composer are told and the mirror is rewritten. The wake operation takes the change first, then the composer, and the focus controller when the step settles (DESIGN CHOICE, log 56). -/
def setLink (k : TargetId) (new : Link) (s : State) : State :=
  let old := s.tlines[k.1].link
  if old = new then s
  else
    let s := modTLine k (fun l => l.relinked new) s
    let s := if old = .suspended then cutResume k s else s
    let s := noticeOf (.line k) s
    linkToComposer k new (post (.link k new) s)

end Sys2Proof.Machine
end

