-- ==== Sys2Proof/Machine/Focus.lean ====
section
/-! DEFINITION. The focus controller (03): requests, the focus change, losing and regaining the desk, new plans, KEYS reports, input while pending, pin, restart, and taking the requests and reports that have arrived. -/

namespace Sys2Proof.Machine

open Sys2Proof

/-- The focus record and working items changed. -/
def modFocus (f : Focus → Focus) (s : State) : State := { s with focus := f s.focus }

/-- Result data of a FOCUS completion (R68): target, state, pending cause and change count as they stand. -/
def focusData (s : State) : List Byte :=
  [optByte s.focus.st.target, s.focus.st.code, causeCode s.focus.cause] ++ le16 s.focus.count

/-- The changed record goes to the notice writer and the panel scanner (R69). -/
def focusRecordChanged (s : State) : State := focusToPanel (notice .focus s)

/-- The record goes out when the pending cause is no longer the one before (R48, R69). -/
def noteCause (old : Option Cause) (s : State) : State :=
  if s.focus.cause = old then s else focusRecordChanged s

/-- The masked key set set whole to the desk key state (R62). -/
def maskDesk (s : State) : State := modFocus (fun f => { f with masked := s.desk.keys }) s

/-- The desk key state less the masked key set (R63). -/
def Keys.less (k m : Keys) : Keys := { mods := k.mods &&& ~~~m.mods, codes := without k.codes m.codes }

/-- The members of the masked key set that the new desk key state holds (R62). -/
def Keys.keep (m k : Keys) : Keys := { mods := m.mods &&& k.mods, codes := m.codes.filter k.codes.contains }

/-- A KEYS report built from the desk key state less the masked key set and handed to a target (R63). -/
def sendKeys (t : TargetId) (s : State) : State := handIn t (.keys (s.desk.keys.less s.focus.masked)) .focus s

/-- Residuals 0 and dwell CLEAR at a focus change (R31, R54 step 4); outside a motion the cursor mirror follows a cleared dwell (log 27). -/
def stillCursor (src : FocusSource) (s : State) : State :=
  let s' := modCursor Cursor.still s
  if src = .glide then s' else cursorMirrorSince s.cur.cursor s'

/-- The focus state becomes FOCUSED on a target (R56); `byGlide` tells that a GLIDE change is entering it. -/
def becomeFocused (t : TargetId) (byGlide : Bool) (s : State) : State :=
  let s := modFocus (fun f => { f with st := .focused t, wakeOut := false }) s
  let s := (placeCursor t s).2
  let s := maskDesk s
  let s := sendKeys t s
  let s := if byGlide then s else requestPoint s
  let s := completeAll s.focus.waiting .ok focusData s
  let s := modFocus (fun f => { f with waiting := [] }) s
  focusRecordChanged s

/-- The condition of R56 for becoming FOCUSED on a target. -/
def State.canFocus (s : State) (t : TargetId) : Bool := s.focus.eligible t && s.focus.bringOut.isNone && s.shown t

/-- An enabled screen whose staged plan shows a head of a target, the lowest-numbered one (R55 step 9; log 18). -/
def State.stagedShows (s : State) (t : TargetId) : Option ScreenId :=
  (ids 6).find? fun sc => s.cur.geo[sc.1].enabled &&
    match s.comp.screens[sc.1].staged with
    | some g => g.plan.shows t
    | none => false

/-- Step 9 of a focus change (R55): a target not shown waits on a staged plan that shows it, or on a bring staged on the cursor's current screen. -/
def bring (t : TargetId) (s : State) : State :=
  if s.shown t then s
  else
    match s.stagedShows t, s.cur.cursor.screen with
    | some sc, _ => modFocus (fun f => { f with bringOut := some sc }) s
    | none, some sc => modFocus (fun f => { f with bringOut := some sc }) (stageBring t sc s)
    | none, none => s

/-- Whether step 10 of a focus change requests a wake (R55). -/
def Eligibility.wakeable (e : Eligibility) : Bool :=
  !e.eligible && (decide (e.power = .off) || decide (e.power = .asleep) || decide (e.link = .suspended))

/-- Step 10 of a focus change (R55). -/
def wakeForFocus (t : TargetId) (s : State) : State :=
  if s.focus.view[t.1].wakeable then requestWake t .focus (modFocus (fun f => { f with wakeOut := true }) s) else s

/-- Steps 1 to 7 of a focus change (R54): the waiting cells complete with `old` after step 6, those of a revert too (R60; log 15), and `cell` waits for the new target. -/
def focusLeave (src : FocusSource) (b : Option TargetId) (old : Result) (cell : Option CellId) (s : State) : State :=
  let a := s.focus.st.target
  let s := match a with
    | some t => releasePair t s
    | none => s
  let s := maskDesk s
  let s := modFocus (fun f => { f with previous := a }) s
  let s := stillCursor src s
  let s := match src, b with
    | .glide, _ => s
    | _, some t => (placeCursor t s).2
    | _, none => s
  let s := modFocus (fun f => { f with count := f.count + 1, source := some src }) s
  let s := completeAll s.focus.waiting old focusData s
  modFocus (fun f => { f with waiting := cell.toList, wakeOut := false, bringOut := none }) s

/-- Step 8 of a focus change (R55): the BRING-LOANs of the target left are returned. -/
def returnFor (a : Option TargetId) (s : State) : State :=
  match a with
  | some t => returnBrings t s
  | none => s

/-- A focus change from the present focus target to `b` (R54, R55). -/
def focusChange (src : FocusSource) (b : Option TargetId) (old : Result) (cell : Option CellId) (s : State) : State :=
  let a := s.focus.st.target
  let s := focusLeave src b old cell s
  match b with
  | none => focusRecordChanged (returnFor a (modFocus (fun f => { f with st := .nobody }) s))
  | some t =>
    let s := modFocus (fun f => { f with st := .pending t }) s
    let s := wakeForFocus t (bring t (returnFor a s))
    if s.canFocus t then becomeFocused t (src == .glide) s else focusRecordChanged s

/-! ## Requests (R52, R53) -/

/-- The target a form of request names (R52); none drops it. -/
def resolveRequest (s : State) : FocusReq → Option TargetId
  | .target t => some t
  | .next =>
    match s.focus.st.target with
    | none => some 0
    | some t => asFin 8 (if t.1 + 1 < s.straps.targets then t.1 + 1 else 0)
  | .prev =>
    match s.focus.st.target with
    | none => asFin 8 (s.straps.targets - 1)
    | some t => asFin 8 (if t.1 = 0 then s.straps.targets - 1 else t.1 - 1)
  | .toggle => s.focus.previous

/-- A request that names a target, from GLIDE, HOTKEY or PANEL (R53). -/
def takeRequest (src : FocusSource) (t : TargetId) (s : State) : State :=
  if s.fittedTarget t ∧ s.focus.st.target ≠ some t ∧ s.anyEnabled then focusChange src (some t) .superseded none s
  else s

/-- A FOCUS command's request for a target or none (R53, R67); a cell that asks for none completes once its change is whole, after the cells of plans that step 8 ends and after the rewrite of the FOCUS mirror (log 51). -/
def takeFocusCommand (cell : CellId) (target : Option TargetId) (s : State) : State :=
  match target with
  | none =>
    let s := if s.focus.st = .nobody then s else focusChange .command none .superseded none s
    complete cell .ok (focusData s) s
  | some t =>
    if s.focus.st = .focused t then complete cell .ok (focusData s) s
    else if s.focus.st = .pending t then modFocus (fun f => { f with waiting := f.waiting ++ [cell] }) s
    else if s.anyEnabled then focusChange .command (some t) .superseded (some cell) s
    else complete cell .notReachable [] s

/-! ## Losing and regaining the desk (R58, R59) -/

/-- The focus target is lost (R58). -/
def loseDesk (t : TargetId) (s : State) : State :=
  focusRecordChanged (maskDesk (releasePair t (modFocus (fun f => { f with st := .pending t }) s)))

/-- The focus target becomes eligible while PENDING (R59). -/
def regainDesk (t : TargetId) (s : State) : State :=
  let old := s.focus.cause
  let s := modFocus (fun f => { f with wakeOut := false }) s
  if s.canFocus t then becomeFocused t false s else noteCause old s

/-- A report of R50 recorded in the eligibility view; for the focus target a change of eligibility acts (R50, R58, R59). -/
def takeEligibility (t : TargetId) (f : Eligibility → Eligibility) (s : State) : State :=
  let before := s.focus.eligible t
  let s := modFocus (fun g => { g with view := upd g.view t f }) s
  let after := s.focus.eligible t
  if s.focus.st = .focused t ∧ before = true ∧ after = false then loseDesk t s
  else if s.focus.st = .pending t ∧ before = false ∧ after = true then regainDesk t s
  else s

/-! ## Answers of wake operations (R60) -/

/-- The target a failed wake reverts to: previous, when it is eligible and shown. -/
def State.revertTarget (s : State) : Option TargetId :=
  match s.focus.previous with
  | some p => if s.focus.eligible p && s.shown p then some p else none
  | none => none

/-- The end of a wake operation that the focus controller asked for (R60). -/
def takeWakeAnswer (t : TargetId) (outcome : Result) (s : State) : State :=
  if s.focus.st.target = some t ∧ s.focus.wakeOut = true then
    let old := s.focus.cause
    if outcome = .ok then
      let s := modFocus (fun f => { f with wakeOut := false }) s
      if s.canFocus t then becomeFocused t false s else noteCause old s
    else
      match s.revertTarget with
      | some p => focusChange .revert (some p) .notReachable none s
      | none =>
        let s := modFocus (fun f => { f with wakeOut := false }) s
        let s := completeAll s.focus.waiting outcome focusData s
        noteCause old (modFocus (fun f => { f with waiting := [] }) s)
  else s

/-! ## New plans and new geometry (R61) -/

/-- Step 1 of R61: bring outstanding becomes absent when it names the screen of the report. -/
def clearBring (covers : ScreenId → Bool) (s : State) : State :=
  match s.focus.bringOut with
  | some sc => if covers sc then modFocus (fun f => { f with bringOut := none }) s else s
  | none => s

/-- The target a REPLAN goes to: the target of the tile under the cursor when it is LIVE. -/
def State.replanTarget (s : State) : Option TargetId :=
  match s.underCursor with
  | some (sc, i) => if s.tileCond sc i = .live then s.tileTarget sc i else none
  | none => none

/-- A report of a new active plan, a withdrawal or a new geometry (R61). -/
def takePlanReport (covers : ScreenId → Bool) (s : State) : State :=
  let old := s.focus.cause
  let s := clearBring covers s
  match s.focus.st with
  | .nobody => s
  | .focused t =>
    if s.shown t then
      if s.cursorOn t then s else requestPoint (placeCursor t s).2
    else if s.focus.bringOut.isSome then s
    else focusChange .replan s.replanTarget .superseded none s
  | .pending t =>
    if s.shown t then
      if s.canFocus t then becomeFocused t false s else noteCause old s
    else if s.focus.bringOut.isSome then s
    else focusChange .replan s.replanTarget .superseded none s

/-! ## Taking requests and reports -/

/-- One request or report taken whole. -/
def takeFocusMsg (m : FocusMsg) (s : State) : State :=
  match m with
  | .request src r =>
    match resolveRequest s r with
    | some t => takeRequest src t s
    | none => s
  | .link t l => takeEligibility t (fun e => { e with link := l }) s
  | .power t p => takeEligibility t (fun e => { e with power := p }) s
  | .headA t p => takeEligibility t (fun e => { e with headA := p }) s
  | .plan sc => takePlanReport (fun x => decide (x = sc)) s
  | .withdrawn sc => takePlanReport (fun x => decide (x = sc)) s
  | .planInLoad sc => noteCause s.focus.cause (clearBring (fun x => decide (x = sc)) s)
  | .geometry => takePlanReport (fun _ => true) s
  | .wakeAnswer t outcome => takeWakeAnswer t outcome s

/-- The requests and reports that have arrived taken one after another, those that a change causes after it (03 section 3.3). -/
def takeInbox : Nat → State → State
  | 0, s => s
  | n + 1, s =>
    match s.focus.inbox with
    | [] => s
    | m :: ms => takeInbox n (takeFocusMsg m (modFocus (fun f => { f with inbox := ms }) s))

/-- Everything that has reached the focus controller taken; none is left (log 14). -/
def settle (s : State) : State := modFocus (fun f => { f with inbox := [] }) (takeInbox Config.inboxFuel s)

/-- The outcome of a command whose effect is `f`: the count moves to the command's time, the effect is made with all it makes the focus controller hear; while RESET_N is asserted the part answers nothing (R183). -/
def act (t : Nat) (f : State → State) (s : State) : Host.Outcome State Fault Refusal :=
  .next (if s.resetAsserted then s.advance t else settle (f (s.advance t)))

/-- A request or report handed over and taken with all it causes. -/
def askFocus (m : FocusMsg) (s : State) : State := settle (post m s)

/-! ## Keys (R63, R65) -/

/-- The wake that the first input asks for while focus is lost on a sleeping target (R65). -/
def wakeOnInput (s : State) : State :=
  match s.focus.st with
  | .pending t =>
    if s.focus.cause = some .lost ∧ s.focus.view[t.1].power = .asleep ∧ s.wakes[t.1].state = .idle then
      requestWake t .focus (focusRecordChanged (modFocus (fun f => { f with wakeOut := true }) s))
    else s
  | _ => s

/-- The new desk key state holds a key or modifier that the previous one did not (R65). -/
def Keys.adds (prev new : Keys) : Bool := !(without new.codes prev.codes).isEmpty || !(new.mods &&& ~~~prev.mods == 0)

/-- A change of the desk key state taken by the focus controller (R63, R65). -/
def takeKeyChange (prev new : Keys) (s : State) : State :=
  match s.focus.st with
  | .focused t => sendKeys t s
  | .pending _ => if prev.adds new then settle (wakeOnInput s) else s
  | .nobody => s

/-! ## Pin (R66) -/

/-- Pin set; a change rewrites the FOCUS mirror and goes to the panel scanner. -/
def setPin (v : Bool) (s : State) : State :=
  if s.focus.pin = v then s else focusRecordChanged (modFocus (fun f => { f with pin := v }) s)

/-! ## Restart (R70) -/

/-- The focus controller's restart: release pair, waiting cells ABORTED, focus NONE. -/
def restartFocus (s : State) : State :=
  let a := s.focus.st.target
  let s := match a with
    | some t => releasePair t s
    | none => s
  let s := completeAll s.focus.waiting .aborted focusData s
  let s := modFocus (fun f => { f with
    waiting := [],
    previous := match a with
      | some t => some t
      | none => f.previous,
    st := .nobody, wakeOut := false, bringOut := none, masked := Keys.empty,
    count := if a.isSome then f.count + 1 else f.count,
    source := if a.isSome then some .restart else f.source }) s
  focusToPanel s

end Sys2Proof.Machine
end

