-- ==== Sys2Proof/Machine/LinkEvents.lean ====
section
/-! DEFINITION. Events of the target lines (01 section 1.2): PRESENT, the SUSPEND indication, slot starts and the end of a transmission. -/

namespace Sys2Proof.Machine

open Sys2Proof

/-- An event on the line of a fitted target; the line of a target that is not fitted takes none (R12). -/
def onLink (t : Nat) (k : TargetId) (f : State → State) (s : State) : Host.Outcome State Fault Refusal :=
  act t (fun s => if s.fittedTarget k then f s else s) s

/-- PRESENT rises (R13): DOWN becomes UP. -/
def execPresentRises (t : Nat) (k : TargetId) (s : State) : Host.Outcome State Fault Refusal :=
  onLink t k (fun s => if s.tlines[k.1].link = .down then setLink k .up s else s) s

/-- PRESENT falls (R13): UP and SUSPENDED become DOWN. -/
def execPresentFalls (t : Nat) (k : TargetId) (s : State) : Host.Outcome State Fault Refusal :=
  onLink t k (setLink k .down) s

/-- A SUSPEND indication (R13): UP becomes SUSPENDED. -/
def execSuspendIndication (t : Nat) (k : TargetId) (s : State) : Host.Outcome State Fault Refusal :=
  onLink t k (fun s => if s.tlines[k.1].link = .up then setLink k .suspended s else s) s

/-- A slot start with the level of TAKE (R13, R14): a SUSPENDED line with TAKE becomes UP and sends nothing; an UP line with TAKE sends the oldest entry. A transmission still open has ended by then (R15; log 25). -/
def slotStart (k : TargetId) (take : Bool) (s : State) : State :=
  let s := modTLine k TargetLine.endTransmission s
  match s.tlines[k.1].link with
  | .down => s
  | .suspended => if take then setLink k .up s else s
  | .up => if take then modTLine k TargetLine.startTransmission s else s

/-- A slot start (R13, R14). -/
def execSlotStart (t : Nat) (k : TargetId) (take : Bool) (s : State) : Host.Outcome State Fault Refusal :=
  onLink t k (slotStart k take) s

/-- The end of a transmission (R15). -/
def execTransmissionComplete (t : Nat) (k : TargetId) (s : State) : Host.Outcome State Fault Refusal :=
  onLink t k (modTLine k TargetLine.endTransmission) s

end Sys2Proof.Machine
end

