-- ==== Sys2Proof/Machine/HostPort.lean ====
section
/-! DEFINITION. Host accesses to the memory (R168, R169, R180): the words a write stores, the banks held, and the stretched accesses. -/

namespace Sys2Proof.Machine

open Sys2Proof

/-- A word lies in the notice summary. -/
def inSummary (a : Nat) : Bool := decide (Config.noticeBase ≤ a ∧ a < Config.summaryEnd)

/-- A byte of the summary after a host write (R180): written 0 it becomes 0, any other value keeps it. -/
def clearedByte (old new : Byte) : Byte := if new = 0 then 0 else old

/-- A host write made (R168, R180); a word after the mirrors stores what is written like any other (log 39). -/
def storeWord (a : Nat) (v : Word16) (s : State) : State :=
  if inSummary a then
    writeMem a [clearedByte (s.xm.mem.read a) (v.extractLsb' 0 8), clearedByte (s.xm.mem.read (a + 1)) (v.extractLsb' 8 8)] s
  else writeMem a (le16 v) s

/-- The head whose image slot holds an address. -/
def slotOf (a : Nat) : Option HeadId :=
  if Config.slotBase ≤ a then asFin 16 ((a - Config.slotBase) / 256) else none

/-- A word lies in a bank that the part holds between two steps: the slot of a head whose copy from SLOT is running (R129, R169). -/
def State.bankHeld (s : State) (a : Nat) : Bool :=
  match slotOf a with
  | none => false
  | some h =>
    match s.served[h.1].copy with
    | some c => decide (c.rep.source = .slot)
    | none => false

/-- A memory access made now waits: the run state is STARTING, or the bank is held (R168, R169), or an earlier access waits (log 12). -/
def State.mustWait (s : State) (a : Nat) : Bool :=
  decide (s.runState = .starting) || s.bankHeld a || !s.xm.waiting.isEmpty

/-- A host write to a memory word (R168, R169). -/
def hostWrite (a : BitVec 14) (v : Word16) (s : State) : State :=
  if s.mustWait (byteAddress a) then
    { s with xm := { s.xm with waiting := s.xm.waiting ++ [{ addr := a, value := v }] } }
  else storeWord (byteAddress a) v s

/-- The oldest stretched access made, if the run state and its bank let it (R169). -/
def releaseAccess (s : State) : State :=
  match s.xm.waiting with
  | [] => s
  | w :: ws =>
    if s.runState = .starting ∨ s.bankHeld (byteAddress w.addr) = true then s
    else storeWord (byteAddress w.addr) w.value { s with xm := { s.xm with waiting := ws } }

/-- The stretched accesses made in order from the oldest on, up to the first that a held bank still stretches. -/
def makeReady : List HeldAccess → State → State
  | [], s => s
  | w :: ws, s =>
    if s.runState = .starting ∨ s.bankHeld (byteAddress w.addr) = true then s
    else makeReady ws (storeWord (byteAddress w.addr) w.value { s with xm := { s.xm with waiting := ws } })

/-- A hold of a slot that is asked for while an access is stretched begins when that access has been made (R169): the accesses that no bank stretches any more are made first. -/
def releaseReady (s : State) : State := makeReady s.xm.waiting s

/-- The stretched accesses made in order at RUNNING (R168, R184). -/
def releaseAll (s : State) : State :=
  s.xm.waiting.foldl (fun s w => storeWord (byteAddress w.addr) w.value s) { s with xm := { s.xm with waiting := [] } }

end Sys2Proof.Machine
end

