-- ==== Sys2Proof/Machine/Take.lean ====
section
/-! DEFINITION. The take of a command cell (10 sections 10.3 and 10.4): reading it, marking it IN_WORK, and handing the command to its owner. -/

namespace Sys2Proof.Machine

open Sys2Proof

/-- A visit of a sweep takes this cell: the run state is RUNNING, the cell is not in the in-work set and its state field reads READY (R172, R175). -/
def State.cellReady (s : State) (c : CellId) : Bool :=
  decide (s.runState = .running) && (s.xm.entry c).isNone && s.xm.mem.read (cellBase c + 2) == 1

/-- The kind byte of a cell. -/
def State.cellKind (s : State) (c : CellId) : Byte := s.xm.mem.read (cellBase c + 3)

/-- The 52 parameter bytes of a cell. -/
def State.cellParams (s : State) (c : CellId) : List Byte := s.xm.mem.block (cellBase c + 12) 52

/-- The take (R175): IN_WORK and the sweep number are written and the cell joins the in-work set with the tag and kind read. -/
def take (c : CellId) (s : State) : State :=
  let e : InWork := { cell := c, tag := s.xm.mem.word (cellBase c), kind := s.cellKind c }
  let s := { s with xm := { s.xm with inWork := s.xm.inWork ++ [e] } }
  writeMem (cellBase c + 6) (le16 s.xm.sweepCount) (writeMem (cellBase c + 2) [2] s)

/-- What an owner does with a command it is handed: the cell and the 52 parameter bytes read at the take. -/
abbrev Owner := CellId → List Byte → State → State

/-- A take with the owner's handling; what it makes the focus controller hear is taken with it (log 14). -/
def handOver (owner : Owner) (c : CellId) (s : State) : State := settle (owner c (s.cellParams c) (take c s))

/-- A command row: the visit of a sweep at this cell, when the cell is READY with this kind (log 5). -/
def takeCell (t : Nat) (kind : Byte) (owner : Owner) (c : CellId) (s : State) : Host.Outcome State Fault Refusal :=
  act t (fun s => if s.cellReady c && s.cellKind c == kind then handOver owner c s else s) s

/-- A focus action asked for from a source (R80, R157). -/
def focusAction (src : FocusSource) (a : Action) (o : Operands) (s : State) : State :=
  match a with
  | .focus =>
    match asFin 8 o.target.toNat with
    | some t => askFocus (.request src (.target t)) s
    | none => s
  | .focusNext => askFocus (.request src .next) s
  | .focusPrev => askFocus (.request src .prev) s
  | .focusToggle => askFocus (.request src .toggle) s
  | _ => s

/-- An action handed to its owner (R80 to R83, R157). -/
def dispatchAction (src : FocusSource) (a : Action) (o : Operands) (s : State) : State :=
  match a with
  | .focus | .focusNext | .focusPrev | .focusToggle => focusAction src a o s
  | .share => settle (shareRequest o s)
  | .restore => settle (restoreRequest o s)
  | .wake => settle (wakeRequest o s)
  | .pinToggle => setPin (!s.focus.pin) s
  | .nothing | .notify | .host => s

end Sys2Proof.Machine
end

