-- ==== Sys2Proof/Machine/Desk.lean ====
section
/-! DEFINITION. Commands of the cursor engine, the focus controller and the screen composer: LAYOUT_LOAD, DESK_SET, FOCUS, PIN, PLAN_SET, SHARE, RESTORE, and the frame boundary. -/

namespace Sys2Proof.Machine

open Sys2Proof

/-! ## LAYOUT_LOAD (R25, R26) -/

/-- The pairs of entries of the overlap pass, in order (R25 pass 3). -/
def entryPairs : List (Fin 6 × Fin 6) :=
  (ids 6).flatMap fun i => ((ids 6).filter fun j => decide (i < j)).map fun j => (i, j)

/-- The first overlapping pair of enabled entries. -/
def overlapPair (ps : Vector Placement 6) : Option (Fin 6 × Fin 6) :=
  entryPairs.find? fun (i, j) =>
    ps[i.1].enabled && ps[j.1].enabled && ps[i.1].rect.overlaps ps[j.1].rect

/-- The checks of R25: the result and the data of a refusal, if any. -/
def layoutRefusal (s : State) (entries : List (List Byte)) (ps : Vector Placement 6) : Option (Result × List Byte) :=
  match firstFailure (fun i e => if placementInRange e then none else some i) 0 entries with
  | some i => some (.badParam, [byte i, 0xFF])
  | none =>
    match (ids 6).find? fun i => ps[i.1].enabled && !s.fittedScreen i with
    | some i => some (.notFitted, [byte i.1, 0xFF])
    | none =>
      match overlapPair ps with
      | some (i, j) => some (.overlap, [byte i.1, byte j.1])
      | none => none

/-- Step 4 of R26: the cursor re-placed; where no screen is enabled the current tile keeps its number (log 50). -/
def replaceCursor (s : State) : State :=
  match s.underCursor with
  | some _ => relocate s
  | none =>
    match s.lowestEnabled with
    | some sc => centreOn sc s
    | none => modCursor (fun c => { c with screen := none }) s

/-- A geometry table applied (R26 steps 1 to 6); the screens take their placements in number order (log 40). -/
def applyLayout (ps : Vector Placement 6) (s : State) : State :=
  let s := { s with cur := { s.cur with geo := ps } }
  let s := (ids 6).foldl (fun s sc => screenPlacement sc ps[sc.1].enabled ps[sc.1].refresh s) s
  let s := modCursor Cursor.still s
  let s := replaceCursor s
  let s := askFocus .geometry s
  rewriteMirror .cursor s

/-- Result data of a LAYOUT_LOAD (R26). -/
def layoutData (s : State) : List Byte :=
  let c := s.cur.cursor
  le16n c.x ++ le16n c.y ++ [optByte c.screen, byte c.tile.1]

/-- The owner of LAYOUT_LOAD (R25, R26). -/
def ownLayoutLoad : Owner := fun c _ s =>
  let entries := entriesOf 10 6 (s.xm.mem.block Config.placementBase 60)
  let ps : Vector Placement 6 := Vector.ofFn fun i => placementOf (entries.getD i.1 [])
  match layoutRefusal s entries ps with
  | some (r, data) => complete c r data s
  | none =>
    let s := applyLayout ps s
    complete c .ok (layoutData s) s

/-- LAYOUT_LOAD (R25, R26). -/
def execLayoutLoad (t : Nat) (c : CellId) (s : State) : Host.Outcome State Fault Refusal :=
  takeCell t 0x01 ownLayoutLoad c s

/-! ## DESK_SET (R27) -/

/-- The settings a DESK_SET takes; none when it is refused. -/
def settingsOf (p : List Byte) : Option Settings :=
  let g := (at8 p 0).toNat
  if 999 < at16 p 1 then none
  else
    (boolOf (at8 p 3)).map fun glide =>
      { gain := if g = 0 then 1 else min g 32, dwell := round10 (at16 p 1), glide := glide,
        focusDuty := min (at16 p 4) 255, idleDuty := min (at16 p 6) 255 }

/-- The settings written, and the two duties handed to the panel scanner (R27, R161). -/
def applySettings (q : Settings) (s : State) : State :=
  let s := { s with cur := { s.cur with settings := q } }
  { s with panel := ({ s.panel with focusDuty := q.focusDuty, idleDuty := q.idleDuty } : Panel).workOutDuties s.straps }

/-- The owner of DESK_SET (R27). -/
def ownDeskSet : Owner := fun c p s =>
  match settingsOf p with
  | none => complete c .badParam [] s
  | some q =>
    complete c .ok ([byte q.gain] ++ le16n q.dwell ++ [boolByte q.glide, byte q.focusDuty, byte q.idleDuty])
      (applySettings q s)

/-- DESK_SET (R27). -/
def execDeskSet (t : Nat) (c : CellId) (s : State) : Host.Outcome State Fault Refusal :=
  takeCell t 0x02 ownDeskSet c s

/-! ## FOCUS and PIN (R66, R67) -/

/-- The owner of FOCUS (R67). -/
def ownFocus : Owner := fun c p s =>
  let b := at8 p 0
  if b = 0xFF then takeFocusCommand c none s
  else
    match asFin 8 b.toNat with
    | none => complete c .badParam [] s
    | some k => if s.fittedTarget k then takeFocusCommand c (some k) s else complete c .notFitted [] s

/-- FOCUS (R53, R67). -/
def execFocus (t : Nat) (c : CellId) (s : State) : Host.Outcome State Fault Refusal :=
  takeCell t 0x03 ownFocus c s

/-- The pin a PIN's operand asks for: off, on or toggle (R66). -/
def pinOf (b : Byte) (pin : Bool) : Option Bool :=
  match b.toNat with
  | 0 => some false
  | 1 => some true
  | 2 => some (!pin)
  | _ => none

/-- The owner of PIN (R66). -/
def ownPin : Owner := fun c p s =>
  match pinOf (at8 p 0) s.focus.pin with
  | none => complete c .badParam [] s
  | some v => complete c .ok [boolByte v] (setPin v s)

/-- PIN (R66). -/
def execPin (t : Nat) (c : CellId) (s : State) : Host.Outcome State Fault Refusal :=
  takeCell t 0x04 ownPin c s

/-! ## PLAN_SET, SHARE, RESTORE (R98 to R102) -/

/-- The first tile of the used ones that fails a test. -/
def firstTile (n : Nat) (bad : Fin 4 → Bool) : Option (Fin 4) := (ids 4).find? fun i => decide (i.1 < n) && bad i

/-- The source byte of a tile of a PLAN_SET. -/
def tileByte (p : List Byte) (i : Fin 4) : Byte := at8 p (3 + i.1)

/-- A source names a head that is not fitted (R98 step 2). -/
def sourceUnfitted (s : State) (b : Byte) : Bool :=
  match sourceOf b with
  | some (some h) => !s.watched h
  | _ => false

/-- The plan of a PLAN_SET: sources beyond the tile count are not kept (R98). -/
def planOf (l : Layout) (p : List Byte) : Plan :=
  { layout := l, src := Vector.ofFn fun i => if i.1 < l.tiles then (sourceOf (tileByte p i)).getD none else none }

/-- What a PLAN_SET asks for, or its refusal with the failing tile (R98). -/
inductive PlanCheck where
  | stage (sc : ScreenId) (plan : Plan) (home : Bool)
  | refuse (r : Result) (tile : Option (Fin 4))
  deriving DecidableEq, Repr

/-- The checks of R98. The rule gives no order among the tiles, and the model names the lowest (DESIGN CHOICE, log 41): for BAD_PARAM the lowest used source that is out of range, for NOT_FITTED the lowest whose source names an unfitted target or an unfitted head B. -/
def planCheck (s : State) (p : List Byte) : PlanCheck :=
  match asFin 6 (at8 p 0).toNat, Layout.ofByte (at8 p 1), boolOf (at8 p 2) with
  | some sc, some l, some home =>
    match firstTile l.tiles fun i => (sourceOf (tileByte p i)).isNone with
    | some i => .refuse .badParam (some i)
    | none =>
      if s.fittedScreen sc = false then .refuse .notFitted none
      else
        match firstTile l.tiles fun i => sourceUnfitted s (tileByte p i) with
        | some i => .refuse .notFitted (some i)
        | none => .stage sc (planOf l p) home
  | _, _, _ => .refuse .badParam none

/-- The owner of PLAN_SET (R98, R99). -/
def ownPlanSet : Owner := fun c p s =>
  match planCheck s p with
  | .refuse r i => complete c r [at8 p 0, optByte i] s
  | .stage sc plan home =>
    stage sc { plan := plan, purpose := .host, home := home, loansAfter := [], cells := [c] } s

/-- PLAN_SET (R98, R99). -/
def execPlanSet (t : Nat) (c : CellId) (s : State) : Host.Outcome State Fault Refusal :=
  takeCell t 0x08 ownPlanSet c s

/-- The owner of SHARE (R100, R101). -/
def ownShare : Owner := fun c p s =>
  match shareOf (at8 p 0) (at8 p 1) (at8 p 2) (at8 p 3) (at8 p 4) (at8 p 5) with
  | none => complete c .badParam [at8 p 0] s
  | some r =>
    match shareRefusal s r with
    | some e => complete c e [at8 p 0] s
    | none => stageShare r [c] s

/-- SHARE (R100, R101). -/
def execShare (t : Nat) (c : CellId) (s : State) : Host.Outcome State Fault Refusal :=
  takeCell t 0x09 ownShare c s

/-- The owner of RESTORE (R102). -/
def ownRestore : Owner := fun c p s =>
  match asFin 6 (at8 p 0).toNat with
  | none => complete c .badParam [at8 p 0] s
  | some sc => if s.fittedScreen sc then restoreScreen sc [c] s else complete c .notFitted [at8 p 0] s

/-- RESTORE (R102). -/
def execRestore (t : Nat) (c : CellId) (s : State) : Host.Outcome State Fault Refusal :=
  takeCell t 0x0A ownRestore c s

/-! ## Frame boundary (R90, R93, R95) -/

/-- A frame boundary taken: the staged plan, if any, is applied and the presentation made, and the next boundary is counted. -/
def frameBoundary (sc : ScreenId) (s : State) : State :=
  applyStaged sc false (modScreen sc (fun r => { r with boundary := r.boundary + 1 }) s)

/-- A screen's frame boundary (R90; log 3). -/
def execFrameBoundary (t : Nat) (sc : ScreenId) (s : State) : Host.Outcome State Fault Refusal :=
  act t (fun s =>
    if reached s.comp.screens[sc.1].boundaryDue s then frameBoundary sc s else s) s

end Sys2Proof.Machine
end

