-- ==== Sys2Proof/Machine/Hotkeys.lean ====
section
/-! DEFINITION. The hotkey matcher (04): chords, leader sequences, a match, its deadline, and the commands HOTKEYS_LOAD and LEADER_SET. -/

namespace Sys2Proof.Machine

open Sys2Proof

/-- The matcher's state changed. -/
def modHot (f : Hotkeys → Hotkeys) (s : State) : State := { s with hot := f s.hot }

/-- A key code added to the masked key set (R62). -/
def maskKey (k : Byte) (s : State) : State :=
  modFocus (fun f => { f with masked := { f.masked with
    codes := if f.masked.codes.contains k then f.masked.codes else f.masked.codes ++ [k] } }) s

/-- A pair is a leader tap (R75). -/
def Hotkeys.isTap (h : Hotkeys) (joined : List Byte) (new : Keys) : Bool :=
  decide (h.leaderKey ≠ 0) && decide (joined = [h.leaderKey]) && decide (new.codes = [h.leaderKey]) &&
    decide (new.mods = 0)

/-- A chord entry matches a joined code under a modifier set (R73). -/
def HotEntry.chordMatch (e : HotEntry) (mods : BitVec 8) (code : Byte) : Bool :=
  e.enabled && decide (e.kind = 0) && decide (e.key = code) && decide (e.mods = mods)

/-- A leader entry matches a joined code (R77). -/
def HotEntry.leaderMatch (e : HotEntry) (code : Byte) : Bool := e.enabled && decide (e.kind = 1) && decide (e.key = code)

/-- The first entry that matches: joined codes in order, entries in index order (R73, R74, R77). -/
def Hotkeys.firstMatch (h : Hotkeys) (test : HotEntry → Byte → Bool) (joined : List Byte) : Option (Fin 32) :=
  joined.findSome? fun code => (ids 32).find? fun i => test h.table[i.1] code

/-- An entry fires (R78): withhold, state, count with the HOTKEY notice, dispatch. -/
def fire (i : Fin 32) (s : State) : State :=
  let e := s.hot.table[i.1]
  let s := maskKey e.key s
  let s := modHot (fun h => { h with
    state := .idle, table := upd h.table i (fun e => { e with fires := e.fires + 1 }), lastFired := some i }) s
  let s := notice .hotkey s
  match hotAction e.action with
  | some a => dispatchAction .hotkey a e.ops s
  | none => s

/-- The chord test of a pair (R73). -/
def chordTest (joined : List Byte) (new : Keys) (s : State) : State :=
  match s.hot.firstMatch (fun e code => e.chordMatch new.mods code) joined with
  | some i => fire i s
  | none => s

/-- The matcher state set. -/
def setMatcher (m : Matcher) (s : State) : State := modHot (fun h => { h with state := m }) s

/-- The leader deadline set from now (R75, R76). -/
def State.leaderDue (s : State) : Nat := s.now + Config.ms s.hot.leaderWindow

/-- A pair of previous and new desk key state taken by the matcher (R72 to R77). -/
def takePair (prev new : Keys) (s : State) : State :=
  let joined := without new.codes prev.codes
  if joined.isEmpty then s
  else
    let tap := s.hot.isTap joined new
    match s.hot.state with
    | .idle => if tap then setMatcher (.leaderOne s.leaderDue) s else chordTest joined new s
    | .leaderOne _ =>
      if tap then setMatcher (.armed s.leaderDue) (maskKey s.hot.leaderKey s)
      else chordTest joined new (setMatcher .idle s)
    | .armed _ =>
      match s.hot.firstMatch (fun e code => e.leaderMatch code) joined with
      | some i => fire i s
      | none => chordTest joined new (setMatcher .idle s)

/-- The leader deadline held. -/
def Matcher.due : Matcher → Option Nat
  | .idle => none
  | .leaderOne d => some d
  | .armed d => some d

/-- The leader deadline's expiry (R76, R77, R89): the matcher becomes IDLE; a deadline that is cancelled, replaced or not reached has no effect (log 3). -/
def execLeaderDeadlineExpiry (t : Nat) (s : State) : Host.Outcome State Fault Refusal :=
  act t (fun s => if reached s.hot.state.due s then setMatcher .idle s else s) s

/-- The number of enabled entries of a kind (R86). -/
def Hotkeys.countKind (h : Hotkeys) (kind : Byte) : Nat :=
  (h.table.toList.filter fun e => e.enabled && decide (e.kind = kind)).length

/-- HOTKEYS_LOAD applied (R86). -/
def applyHotkeys (entries : List (List Byte)) (s : State) : State :=
  notice .hotkey (modHot (fun h => { h with
    table := Vector.ofFn fun i => hotEntryOf (entries.getD i.1 []), state := .idle, lastFired := none }) s)

/-- The owner of HOTKEYS_LOAD (R85, R86). -/
def ownHotkeysLoad : Owner := fun c _ s =>
  let entries := entriesOf 16 32 (s.xm.mem.block Config.hotkeyBase 512)
  match firstFailure (fun i e => if hotEntryInRange e then none else some i) 0 entries with
  | some i => complete c .badParam [byte i] s
  | none =>
    match firstFailure (fun i e => if hotEntryFitted s e then none else some i) 0 entries with
    | some i => complete c .notFitted [byte i] s
    | none =>
      let s := applyHotkeys entries s
      complete c .ok [byte (s.hot.countKind 0), byte (s.hot.countKind 1)] s

/-- The owner of LEADER_SET (R87). -/
def ownLeaderSet : Owner := fun c p s =>
  let window := round10 (at16 p 2)
  if window < 200 ∨ 2000 < window then complete c .badParam [] s
  else
    let key := at8 p 0
    let s := modHot (fun h => { h with
      leaderKey := key, leaderWindow := window, state := if key = h.leaderKey then h.state else .idle }) s
    complete c .ok ([key] ++ le16n window) s

/-- HOTKEYS_LOAD (R85, R86). -/
def execHotkeysLoad (t : Nat) (c : CellId) (s : State) : Host.Outcome State Fault Refusal :=
  takeCell t 0x05 ownHotkeysLoad c s

/-- LEADER_SET (R87). -/
def execLeaderSet (t : Nat) (c : CellId) (s : State) : Host.Outcome State Fault Refusal :=
  takeCell t 0x06 ownLeaderSet c s

end Sys2Proof.Machine
end

