-- ==== Sys2Proof/Machine/Motion.lean ====
section
/-! DEFINITION. Taking a motion (02 section 2.4): the gain, the dwell test, the steps, the POINT at its end, and the dwell deadline. -/

namespace Sys2Proof.Machine

open Sys2Proof

/-- A motion as handed to the cursor engine (R8). -/
structure MotionIn where
  dx : Int
  dy : Int
  wheel : Int
  merged : BitVec 5
  deriving DecidableEq, Repr

/-- The move and the new residual of one axis (R30). -/
def gain (d : Int) (g : Nat) (r : Int) : Int × Int :=
  let total := d * g + r
  let move := Int.tdiv total 8
  (move, total - 8 * move)

/-- A dwell hold is pushed on by a move on its axis of its direction's sign (R32). -/
def Hold.toward (h : Hold) (mx my : Int) : Bool :=
  let m := match h.axis with
    | .x => mx
    | .y => my
  if h.positive then decide (0 < m) else decide (m < 0)

/-- The dwell state after the test at the start of a motion (R32). -/
def Dwell.tested (d : Dwell) (mx my : Int) : Dwell :=
  match d.hold with
  | none => d
  | some h => if h.toward mx my then d else .clear

/-- The lowest coordinate of a rectangle on an axis. -/
def Rect.lo (r : Rect) : Axis → Nat
  | .x => r.x
  | .y => r.y

/-- The highest coordinate of a rectangle on an axis. -/
def Rect.hi (r : Rect) : Axis → Nat
  | .x => r.x + r.w - 1
  | .y => r.y + r.h - 1

/-- A coordinate limited to a rectangle's bounds on an axis (R33). -/
def Rect.limit (r : Rect) (a : Axis) (v : Int) : Nat :=
  if v < r.lo a then r.lo a else if (r.hi a : Int) < v then r.hi a else v.toNat

/-- The cursor's coordinate on an axis. -/
def Cursor.coord (c : Cursor) : Axis → Nat
  | .x => c.x
  | .y => c.y

/-- The candidate of a step: the cursor's point with the move added on its axis alone (02 section 2.4.3). -/
def Cursor.candidate (c : Cursor) (a : Axis) (m : Int) : Int × Int :=
  match a with
  | .x => (c.x + m, c.y)
  | .y => (c.x, c.y + m)

/-- A coordinate of the cursor set, its axis's residual 0 and the dwell state as given (R33). -/
def Cursor.clamped (c : Cursor) (a : Axis) (v : Nat) (d : Dwell) : Cursor :=
  match a with
  | .x => { c with x := v, rx := 0, dwell := d }
  | .y => { c with y := v, ry := 0, dwell := d }

/-- The bounds of the current tile. -/
def State.currentRect (s : State) : Option Rect :=
  match s.cur.cursor.screen with
  | some sc => s.tileRect sc s.cur.cursor.tile
  | none => none

/-- A step clamped to the current tile with a dwell state after it (R33). -/
def clampStep (a : Axis) (m : Int) (d : Dwell) (s : State) : State :=
  let v := match s.currentRect with
    | some r => r.limit a (s.cur.cursor.coord a + m)
    | none => s.cur.cursor.coord a
  modCursor (fun c => c.clamped a v d) s

/-- A step accepted: the candidate becomes the point, and its tile the current tile (R34). -/
def acceptStep (p : Int × Int) (sc : ScreenId) (i : Fin 4) (s : State) : State :=
  modCursor (fun c => { c with x := p.1.toNat, y := p.2.toNat, screen := some sc, tile := i }) s

/-- What a candidate meets (02 section 2.4.3). -/
inductive Meets where
  | outside
  | own (sc : ScreenId) (i : Fin 4)
  | invites (sc : ScreenId) (i : Fin 4) (dest : TargetId)
  | barrier
  deriving DecidableEq, Repr

/-- The four tests of a candidate, in order (R33 to R36). -/
def State.meets (s : State) (p : Int × Int) : Meets :=
  match s.locate p.1 p.2 with
  | none => .outside
  | some (sc, i) =>
    let shown := s.tileTarget sc i
    if (s.cur.cursor.screen = some sc ∧ s.cur.cursor.tile = i) ∨ (shown.isSome ∧ shown = s.focus.st.target) then .own sc i
    else
      match shown with
      | none => .barrier
      | some t =>
        if s.tileCond sc i = .live ∧ s.cur.settings.glide = true ∧ s.focus.pin = false then .invites sc i t else .barrier

/-- A dwell hold names this axis, direction and destination. -/
def Hold.names (h : Hold) (a : Axis) (positive : Bool) (dest : TargetId) : Bool :=
  decide (h.axis = a) && (h.positive == positive) && decide (h.dest = dest)

/-- What a step into an inviting tile does to the dwell state: accepted with a glide (none), or clamped with the dwell state given (R35). -/
def Dwell.invited (d : Dwell) (setting now : Nat) (a : Axis) (positive : Bool) (dest : TargetId) : Option Dwell :=
  let fresh : Dwell := .holding { axis := a, positive := positive, dest := dest, due := now + Config.ms setting }
  if setting = 0 then none
  else
    match d with
    | .ready h => if h.names a positive dest then none else some fresh
    | .holding h => if h.names a positive dest then some d else some fresh
    | .clear => some fresh

/-- A step on one axis (R33 to R37); a move of 0 makes none. -/
def stepAxis (a : Axis) (m : Int) (s : State) : State :=
  if m = 0 then s
  else
    let p := s.cur.cursor.candidate a m
    match s.meets p with
    | .outside => clampStep a m .clear s
    | .barrier => clampStep a m .clear s
    | .own sc i => acceptStep p sc i s
    | .invites sc i dest =>
      match s.cur.cursor.dwell.invited s.cur.settings.dwell s.now a (decide (0 < m)) dest with
      | some d => clampStep a m d s
      | none => askFocus (.request .glide (.target dest)) (acceptStep p sc i s)

/-- The POINT at the end of a motion (R44). -/
def motionPoint (before : Cursor) (m : MotionIn) (s : State) : State :=
  match s.focus.st with
  | .focused t =>
    if (before.x ≠ s.cur.cursor.x ∨ before.y ≠ s.cur.cursor.y) ∨ m.merged ≠ s.cur.lastButtons[t.1] ∨ m.wheel ≠ 0 then
      buildPoint t m.wheel s
    else s
  | _ => s

/-- A motion that counts as input for R65: one that moves, or presses a button the previous motion did not hold. -/
def MotionIn.isInput (m : MotionIn) (previous : BitVec 5) : Bool :=
  decide (m.dx ≠ 0) || decide (m.dy ≠ 0) || decide (m.wheel ≠ 0) || !(m.merged &&& ~~~previous == 0)

/-- The cursor engine's report of a motion taken while PENDING (R65), tested once the motion is done (log 17). -/
def reportMotion (m : MotionIn) (previous : BitVec 5) (s : State) : State :=
  if m.isInput previous then settle (wakeOnInput s) else s

/-- Stages 1 and 2 of a motion: the residuals of both axes stored, and the dwell state tested unless no screen is current (R29). -/
def gainAndDwell (gx gy : Int × Int) (s : State) : State :=
  modCursor (fun c => { c with
    rx := gx.2, ry := gy.2,
    dwell := if c.screen.isSome then c.dwell.tested gx.1 gy.1 else c.dwell }) s

/-- A motion taken whole (R29). -/
def motion (m : MotionIn) (s : State) : State :=
  let before := s.cur.cursor
  let previous := s.cur.deskButtons
  let gx := gain m.dx s.cur.settings.gain before.rx
  let gy := gain m.dy s.cur.settings.gain before.ry
  let s := { s with cur := { s.cur with deskButtons := m.merged } }
  let s := gainAndDwell gx gy s
  if before.screen.isNone then reportMotion m previous s
  else
    let s := stepAxis .y gy.1 (stepAxis .x gx.1 s)
    reportMotion m previous (cursorMirrorSince before (motionPoint before m s))

/-- The dwell deadline's expiry (R38): HOLDING becomes READY with the same axis, direction and destination, and the cursor mirror is rewritten; it acts only when the deadline is held and reached (log 3). -/
def execDwellDeadlineExpiry (t : Nat) (s : State) : Host.Outcome State Fault Refusal :=
  act t (fun s =>
    match s.cur.cursor.dwell with
    | .holding h =>
      if h.due ≤ s.now then rewriteMirror .cursor (modCursor (fun c => { c with dwell := .ready h }) s) else s
    | _ => s) s

end Sys2Proof.Machine
end

