-- ==== Sys2Proof/Machine/DeskInput.lean ====
section
/-! DEFINITION. The desk input unit (01 section 1.1): the check of a frame, line classes, the desk key state and its hand-off, merged buttons, and the line reset condition. -/

namespace Sys2Proof.Machine

open Sys2Proof

/-- A desk frame as the hub delivers it (01 section 1.1). -/
structure Frame where
  kind : Byte
  len : Byte
  payload : List Byte
  check : Byte
  deriving DecidableEq, Repr

/-- The four kinds of desk frame (10 section 10.8). -/
inductive FrameKind where
  | announce
  | keys
  | motion
  | gone
  deriving DecidableEq, Repr

/-- Its code. -/
def FrameKind.code : FrameKind → Byte
  | .announce => 1
  | .keys => 2
  | .motion => 3
  | .gone => 4

/-- The kind a byte names. -/
def FrameKind.ofByte (b : Byte) : Option FrameKind :=
  match b.toNat with
  | 1 => some .announce
  | 2 => some .keys
  | 3 => some .motion
  | 4 => some .gone
  | _ => none

/-- The sum of all bytes modulo 256 (R2). -/
def Frame.sum (f : Frame) : Byte := byteSum ([f.kind, f.len] ++ f.payload ++ [f.check])

/-- A payload size allowed for a kind (01 section 1.1.1). -/
def FrameKind.sizeAllowed (k : FrameKind) (n : Nat) : Bool :=
  match k with
  | .announce => decide (n = 1)
  | .keys => decide (1 ≤ n ∧ n ≤ 7)
  | .motion => decide (n = 6)
  | .gone => decide (n = 0)

/-- A signed 16-bit number of a payload. -/
def signed16 (p : List Byte) (i : Nat) : Int := (at8 p (i + 1) ++ at8 p i : BitVec 16).toInt

/-- The motion fields of a payload: buttons, dx, dy, wheel (10 section 10.8). -/
def motionOf (p : List Byte) : BitVec 5 × Int × Int × Int :=
  ((at8 p 0).setWidth 5, signed16 p 1, signed16 p 3, (at8 p 5).toInt)

/-- A KEYS payload is the ROLLOVER marker alone. -/
def isRollover (p : List Byte) : Bool := decide (p.tail = [0])

/-- No code of a list stands in it twice. -/
def distinct : List Byte → Bool
  | [] => true
  | c :: cs => !cs.contains c && distinct cs

/-- The contents of a payload are in range (R2). -/
def FrameKind.contentsInRange (k : FrameKind) (p : List Byte) : Bool :=
  match k with
  | .announce => decide (at8 p 0 = 1 ∨ at8 p 0 = 2)
  | .keys => (!p.tail.contains 0 || isRollover p) && distinct p.tail
  | .motion =>
    let m := motionOf p
    decide ((at8 p 0).toNat < 32) && decide (-2048 ≤ m.2.1 ∧ m.2.1 ≤ 2047) && decide (-2048 ≤ m.2.2.1 ∧ m.2.2.1 ≤ 2047) &&
      decide (-8 ≤ m.2.2.2 ∧ m.2.2.2 ≤ 7)
  | .gone => true

/-- A kind that a line's class takes (R2). -/
def LineClass.takes (cls : LineClass) (k : FrameKind) : Bool :=
  match cls, k with
  | .silent, k => decide (k = .announce)
  | .keyboard, .motion => false
  | .pointer, .keys => false
  | _, _ => true

/-- The check of a frame on a line of a class (R2): the kind it is accepted as, or none when it is refused. -/
def Frame.accepted (f : Frame) (cls : LineClass) : Option FrameKind :=
  match FrameKind.ofByte f.kind with
  | none => none
  | some k =>
    if f.sum = 0 ∧ k.sizeAllowed f.len.toNat = true ∧ f.len.toNat = f.payload.length ∧
        k.contentsInRange f.payload = true ∧ cls.takes k = true then some k
    else none

/-- A refused frame is counted; a change of the count rewrites the LINE mirror (R2, R11). -/
def refuseFrame (l : LineId) (s : State) : State :=
  let n := s.desk.lines[l.1].bad
  if satInc n = n then s else notice (.line l) (modDeskLine l (fun r => { r with bad := satInc n }) s)

/-! ## The desk key state (R6, R7) -/

/-- The lines in state KEYBOARD, in line order. -/
def DeskInput.keyboards (d : DeskInput) : List DeskLine := d.lines.toList.filter fun l => decide (l.cls = .keyboard)

/-- The union over all KEYBOARD lines (R6). -/
def DeskInput.union (d : DeskInput) : Keys :=
  { mods := d.keyboards.foldl (fun m l => m ||| l.lastKeys.mods) 0,
    codes := dedup [] (d.keyboards.flatMap fun l => l.lastKeys.codes) }

/-- The unit is holding: a ROLLOVER marker is held, or the union has more than 6 codes (R6). -/
def DeskInput.holding (d : DeskInput) : Bool :=
  d.keyboards.any (fun l => l.rollover) || decide (6 < d.union.codes.length)

/-- A change of the desk key state handed on (R7): the masked key set drops what is no longer held, the matcher takes the pair, then the focus controller does. -/
def handOff (prev new : Keys) (s : State) : State :=
  let s := modFocus (fun f => { f with masked := f.masked.keep new }) s
  settle (takeKeyChange prev new (takePair prev new s))

/-- The desk key state recomputed (R6), and a change handed on (R7). -/
def recomputeKeys (s : State) : State :=
  let new := s.desk.union
  if s.desk.holding || decide (new = s.desk.keys) then s
  else handOff s.desk.keys new { s with desk := { s.desk with keys := new } }

/-! ## Merged buttons (R8, R9) -/

/-- The union of the button states of the POINTER lines (R8). -/
def DeskInput.buttonUnion (d : DeskInput) : BitVec 5 :=
  (d.lines.toList.filter fun l => decide (l.cls = .pointer)).foldl (fun b l => b ||| l.buttons) 0

/-- The merged buttons recomputed. -/
def recomputeButtons (s : State) : State := { s with desk := { s.desk with merged := s.desk.buttonUnion } }

/-- The held keys or buttons of a line released, with their hand-offs (R4, R9). -/
def releaseLine (l : LineId) (s : State) : State :=
  match s.desk.lines[l.1].cls with
  | .silent => s
  | .keyboard => recomputeKeys (modDeskLine l (fun r => { r with lastKeys := Keys.empty, rollover := false }) s)
  | .pointer =>
    let old := s.desk.merged
    let s := recomputeButtons (modDeskLine l (fun r => { r with buttons := 0 }) s)
    if s.desk.merged = old then s else motion { dx := 0, dy := 0, wheel := 0, merged := s.desk.merged } s

/-- A line takes a class with nothing held. -/
def setClass (l : LineId) (cls : LineClass) (s : State) : State :=
  notice (.line l)
    (modDeskLine l (fun r => { r with cls := cls, lastKeys := Keys.empty, rollover := false, buttons := 0 }) s)

/-! ## Accepted frames -/

/-- The class an ANNOUNCE names. -/
def announcedClass (p : List Byte) : LineClass := if at8 p 0 = 1 then .keyboard else .pointer

/-- An accepted frame taken (R3, R4, R5, R8). -/
def takeFrame (l : LineId) (k : FrameKind) (p : List Byte) (s : State) : State :=
  match k with
  | .announce => setClass l (announcedClass p) (releaseLine l s)
  | .gone => setClass l .silent (releaseLine l s)
  | .keys =>
    let codes := if isRollover p then [] else p.tail
    recomputeKeys (modDeskLine l (fun r => { r with
      lastKeys := { mods := at8 p 0, codes := codes }, rollover := isRollover p }) s)
  | .motion =>
    let m := motionOf p
    let s := recomputeButtons (modDeskLine l (fun r => { r with buttons := m.1 }) s)
    motion { dx := m.2.1, dy := m.2.2.1, wheel := m.2.2.2, merged := s.desk.merged } s

/-- A line delivers frames: its reset condition is not driven (R1), and start-up has driven it once (log 8). -/
def State.lineDelivers (s : State) (l : LineId) : Bool :=
  decide (s.runState ≠ .starting) && s.desk.lines[l.1].resetUntil.isNone

/-- A frame's arrival (R2). -/
def arrive (l : LineId) (f : Frame) (s : State) : State :=
  if s.lineDelivers l then
    match f.accepted s.desk.lines[l.1].cls with
    | some k => takeFrame l k f.payload s
    | none => refuseFrame l s
  else s

/-- An ANNOUNCE frame (R2, R3). -/
def execAnnounce (t : Nat) (l : LineId) (len : Byte) (p : List Byte) (check : Byte) (s : State) :
    Host.Outcome State Fault Refusal :=
  act t (arrive l { kind := FrameKind.announce.code, len := len, payload := p, check := check }) s

/-- A KEYS frame (R2, R5 to R7). -/
def execKeys (t : Nat) (l : LineId) (len : Byte) (p : List Byte) (check : Byte) (s : State) :
    Host.Outcome State Fault Refusal :=
  act t (arrive l { kind := FrameKind.keys.code, len := len, payload := p, check := check }) s

/-- A MOTION frame (R2, R8). -/
def execMotion (t : Nat) (l : LineId) (len : Byte) (p : List Byte) (check : Byte) (s : State) :
    Host.Outcome State Fault Refusal :=
  act t (arrive l { kind := FrameKind.motion.code, len := len, payload := p, check := check }) s

/-- A GONE frame (R2, R4). -/
def execGone (t : Nat) (l : LineId) (len : Byte) (p : List Byte) (check : Byte) (s : State) :
    Host.Outcome State Fault Refusal :=
  act t (arrive l { kind := FrameKind.gone.code, len := len, payload := p, check := check }) s

/-- A frame whose kind is none of the four (R2). -/
def execDeskFrameBadKind (t : Nat) (l : LineId) (kind len : Byte) (p : List Byte) (check : Byte) (s : State) :
    Host.Outcome State Fault Refusal :=
  act t (arrive l { kind := kind, len := len, payload := p, check := check }) s

/-- The end of a line reset condition (R1): the line delivers frames again. -/
def endLineReset (l : LineId) (s : State) : State := modDeskLine l (fun r => { r with resetUntil := none }) s

/-- The line reset condition driven on every line (R1). -/
def driveLineResets (s : State) : State :=
  { s with desk := { s.desk with lines := s.desk.lines.map fun r => { r with resetUntil := some (s.now + Config.lineReset) } } }

end Sys2Proof.Machine
end

