-- ==== Sys2Proof/Machine/Panel.lean ====
section
/-! DEFINITION. The panel scanner (09): key readings and their actions, slots, tallies, PANEL_MAP_LOAD and INDICATOR_SET. -/

namespace Sys2Proof.Machine

open Sys2Proof

/-! ## Keys (R155 to R158) -/

/-- A key's settled level is pressed (R155). -/
def PanelKey.pressed (k : PanelKey) : Bool := !decide (k.state = .up)

/-- An event reported to the host: the count increments, the last event is kept, and the mirror is rewritten with a notice (R156, R158, R166). -/
def panelEvent (p : PosId) (release : Bool) (s : State) : State :=
  let s := modPanelKey p (fun k => { k with events := k.events + 1 }) s
  notice .panel { s with panel := { s.panel with lastEvent := some (p, release) } }

/-- The action a key raises as it becomes DOWN (R156). -/
def raiseAction (p : PosId) (s : State) : State :=
  let k := s.panel.keys[p.1]
  match k.action with
  | .notify | .host => panelEvent p false s
  | a => dispatchAction .panel a k.ops (rewriteMirror .panel s)

/-- A key becomes DOWN (R156). -/
def keyDown (p : PosId) (s : State) : State :=
  raiseAction p (modPanelKey p (fun k => { k with state := .down, debounce := 0, longDue := some (s.now + Config.longPress) }) s)

/-- A key becomes UP (R158). -/
def keyUp (p : PosId) (s : State) : State :=
  let s := modPanelKey p (fun k => { k with state := .up, debounce := 0, longDue := none }) s
  match s.panel.keys[p.1].action with
  | .host => panelEvent p true s
  | _ => rewriteMirror .panel s

/-- A reading of a position (R155). -/
def readKey (p : PosId) (pressed : Bool) (s : State) : State :=
  let k := s.panel.keys[p.1]
  if pressed = k.pressed then modPanelKey p (fun k => { k with debounce := 0 }) s
  else if k.debounce + 1 < 3 then modPanelKey p (fun k => { k with debounce := k.debounce + 1 }) s
  else if pressed then keyDown p s
  else keyUp p s

/-- Position of a drive line and a return line (09 section 9.1). -/
def positionOf (d : Fin 4) (r : Fin 6) : PosId := ⟨6 * d.1 + r.1, by omega⟩

/-- The indicators of a drive line's slot evaluated (R160). -/
def lightSlot (d : Fin 4) (s : State) : State :=
  { s with panel := { s.panel with
    lit := mapVec s.panel.lit fun i old => if i.1 / 6 = d.1 then s.panel.inds[i.1].litFor s.panel.view s.phase else old } }

/-- The six readings of a drive line's slot, in return-line order (R154, R155). -/
def readSlot (d : Fin 4) (levels : BitVec 6) (s : State) : State :=
  (ids 6).foldl (fun s r => readKey (positionOf d r) (levels.getLsbD r.1) s) s

/-- A panel slot: the lights as they stand at its start (R160), the readings, and the next drive line (R154). -/
def panelSlot (levels : BitVec 6) (s : State) : State :=
  let d := s.panel.nextDrive
  let s := readSlot d levels (lightSlot d s)
  { s with panel := { s.panel with nextDrive := d + 1 } }

/-- The start of a panel slot with the six levels read (R154); the scan begins when the clear is done. -/
def execPanelSlot (t : Nat) (levels : BitVec 6) (s : State) : Host.Outcome State Fault Refusal :=
  act t (fun s => if s.runState = .starting then s else panelSlot levels s) s

/-- A key becomes HELD (R157): a FOCUS key asks for a wake as well. -/
def keyHeld (p : PosId) (s : State) : State :=
  let s := rewriteMirror .panel (modPanelKey p (fun k => { k with state := .held, longDue := none }) s)
  let k := s.panel.keys[p.1]
  match k.action with
  | .focus => wakeRequest k.ops s
  | _ => s

/-- The long-press deadline's expiry (R157; log 3). -/
def execLongPressExpiry (t : Nat) (p : PosId) (s : State) : Host.Outcome State Fault Refusal :=
  act t (fun s => if reached s.panel.keys[p.1].longDue s then keyHeld p s else s) s

/-- The end of a tally channel's PWM period: the working duty takes the buffered duty (R162). -/
def execTallyPeriodEnd (t : Nat) (sc : ScreenId) (s : State) : Host.Outcome State Fault Refusal :=
  act t (fun s => { s with panel := { s.panel with
    tallies := upd s.panel.tallies sc fun c => { c with working := c.buffered, periodStart := s.now } } }) s

/-! ## PANEL_MAP_LOAD and INDICATOR_SET (R164, R165) -/

/-- The map written (R164): every host level becomes off, and key states are kept. -/
def applyPanelMap (entries : List (List Byte)) (s : State) : State :=
  let e (i : Nat) := entries.getD i []
  notice .panel { s with panel := { s.panel with
    keys := mapVec s.panel.keys fun i k =>
      { k with action := (Action.ofByte (at8 (e i.1) 0)).getD .nothing, ops := operandsAt (e i.1) 1 },
    inds := mapVec s.panel.inds fun i _ =>
      indicatorOf (at8 (e i.1) 6) (at8 (e i.1) 7) (at8 (e i.1) 8) (at8 (e i.1) 9) false } }

/-- The positions whose key action is not NONE. -/
def Panel.actionCount (p : Panel) : Nat := (p.keys.toList.filter fun k => !decide (k.action = .nothing)).length

/-- The owner of PANEL_MAP_LOAD (R164). -/
def ownPanelMapLoad : Owner := fun c _ s =>
  let entries := entriesOf 12 24 (s.xm.mem.block Config.panelMapBase 288)
  match firstFailure (fun i e => if panelEntryInRange e then none else some i) 0 entries with
  | some i => complete c .badParam [byte i] s
  | none =>
    match firstFailure (fun i e => if panelEntryFitted s e then none else some i) 0 entries with
    | some i => complete c .notFitted [byte i] s
    | none =>
      let s := applyPanelMap entries s
      complete c .ok [byte s.panel.actionCount] s

/-- PANEL_MAP_LOAD (R164). -/
def execPanelMapLoad (t : Nat) (c : CellId) (s : State) : Host.Outcome State Fault Refusal :=
  takeCell t 0x0E ownPanelMapLoad c s

/-- The checks of INDICATOR_SET (R165): the result of a refusal, if any. -/
def indicatorRefusal (s : State) (p : List Byte) : Option Result :=
  if (boolOf (at8 p 5)).isNone ∨ indicatorInRange (at8 p 1) (at8 p 2) (at8 p 3) (at8 p 4) = false then some .badParam
  else
    match IndSource.ofByte (at8 p 1) with
    | none => some .badParam
    | some src => if src.operandFitted s (at8 p 2) then none else some .notFitted

/-- The owner of INDICATOR_SET (R165). -/
def ownIndicatorSet : Owner := fun c p s =>
  match asFin 24 (at8 p 0).toNat with
  | none => complete c .badParam [] s
  | some pos =>
    match indicatorRefusal s p with
    | some r => complete c r [] s
    | none =>
      let i := indicatorOf (at8 p 1) (at8 p 2) (at8 p 3) (at8 p 4) (decide (at8 p 5 = 1))
      let s := rewriteMirror .panel { s with panel := { s.panel with inds := upd s.panel.inds pos fun _ => i } }
      complete c .ok (p.take 6) s

/-- INDICATOR_SET (R165). -/
def execIndicatorSet (t : Nat) (c : CellId) (s : State) : Host.Outcome State Fault Refusal :=
  takeCell t 0x0F ownIndicatorSet c s

end Sys2Proof.Machine
end

