-- ==== Sys2Proof/Machine/HeadMonitor.lean ====
section
/-! DEFINITION. The head signal monitor (06): periods and their classes, the presence rules, absence, and the reports of a presence. -/

namespace Sys2Proof.Machine

open Sys2Proof

/-- |p − q|. -/
def distance (p q : Nat) : Nat := (p - q) + (q - p)

/-- A good period (R111). -/
def goodPeriod (p : Nat) : Bool := decide (10000 ≤ p ∧ p ≤ 50000)

/-- A period steady with the last one (R111). -/
def steadyPeriod (p q : Nat) : Bool := decide (distance p q ≤ q / 200)

/-- A period wild against the last one (R111). -/
def wildPeriod (p q : Nat) : Bool := decide (q / 50 < distance p q)

/-- The rate found from a good period, in centihertz (R116). -/
def rateOf (p : Nat) : Nat := 100000000 / p

/-- A run of good periods goes on (R112, R114): eight of them make the head PRESENT. -/
def HeadRec.acquire (r : HeadRec) (p : Nat) : HeadRec :=
  if goodPeriod p = false then { r with good := 0, lastPeriod := p }
  else if r.good = 0 then { r with good := 1, lastPeriod := p }
  else if steadyPeriod p r.lastPeriod then
    if 8 ≤ r.good + 1 then { r with good := 8, lastPeriod := p, presence := .present, rate := rateOf p }
    else { r with good := r.good + 1, lastPeriod := p }
  else { r with good := 1, lastPeriod := p }

/-- A period in PRESENT (R113). -/
def HeadRec.hold (r : HeadRec) (p : Nat) : HeadRec :=
  if goodPeriod p = false ∨ wildPeriod p r.lastPeriod = true then
    { r with good := 0, lastPeriod := p, presence := .unstable }
  else { r with lastPeriod := p, rate := rateOf p }

/-- The presence rule of a measured period. -/
def HeadRec.period (r : HeadRec) (p : Nat) : HeadRec :=
  match r.presence with
  | .absent => r
  | .acquiring => r.acquire p
  | .present => r.hold p
  | .unstable => r.acquire p

/-- The record after an edge (R110). -/
def HeadRec.edge (r : HeadRec) (now : Nat) : HeadRec :=
  let r' := match r.presence, r.lastEdge with
    | .absent, _ | _, none => { r with presence := .acquiring, lastPeriod := 0, good := 0, rate := 0 }
    | _, some e => r.period (now - e)
  { r' with lastEdge := some now, absenceDue := some (now + Config.absence) }

/-- A new head record with its reports (R117, R120): a presence change goes to the mirror with a notice, to the focus controller for a head A, and to the composer; another change of a mirrored field rewrites the mirror in place. Either block may take the report first (R117): the composer always finishes with it here, and the focus controller takes the posted report after it, when the step settles (DESIGN CHOICE, log 56). -/
def setHead (h : HeadId) (r : HeadRec) (s : State) : State :=
  let old := s.heads[h.1]
  let s := modHead h (fun _ => r) s
  let k := headTarget h
  if old.presence ≠ r.presence then
    let s := noticeOf (.signal h) s
    let s := if isHeadB h then s else post (.headA k r.presence) s
    presenceToComposer h r.presence s
  else if old.lastPeriod ≠ r.lastPeriod ∨ old.good ≠ r.good ∨ old.rate ≠ r.rate then rewriteOf (.signal h) s
  else s

/-- The absence handling (R115). -/
def makeAbsent (h : HeadId) (s : State) : State := setHead h HeadRec.initial s

/-- An edge later than 100 ms after the one before, which the absence deadline has ended first (R110, R115; log 26). -/
def HeadRec.lapsed (r : HeadRec) (now : Nat) : Bool :=
  match r.lastEdge with
  | some e => decide (e + Config.absence < now)
  | none => false

/-- An edge taken on a head (R110). -/
def takeEdge (h : HeadId) (s : State) : State :=
  let s := if s.heads[h.1].lapsed s.now then makeAbsent h s else s
  setHead h (s.heads[h.1].edge s.now) s

/-- A vertical sync edge (R109, R110): looked at on a watched head once the clear is done. -/
def execSyncEdge (t : Nat) (h : HeadId) (s : State) : Host.Outcome State Fault Refusal :=
  act t (fun s => if s.watched h && decide (s.runState ≠ .starting) then takeEdge h s else s) s

/-- The absence deadline's expiry (R115; log 3). -/
def execAbsenceDeadlineExpiry (t : Nat) (h : HeadId) (s : State) : Host.Outcome State Fault Refusal :=
  act t (fun s => if reached s.heads[h.1].absenceDue s then makeAbsent h s else s) s

end Sys2Proof.Machine
end

