-- ==== Sys2Proof/Machine/Identity.lean ====
section
/-! DEFINITION. The display identity unit (07): screen presence and reads, replacements of served images, IDENT_REREAD and IDENT_SERVE, and the responder on the head buses. -/

namespace Sys2Proof.Machine

open Sys2Proof

/-! ## Replacements (R128 to R130) -/

/-- A served-image record changed, with a notice when a mirrored field changes (R134). -/
def changeServed (h : HeadId) (f : Served → Served) (s : State) : State :=
  let s' := modServed h f s
  if s'.served[h.1].mirrored = s.served[h.1].mirrored then s' else noticeOf (.served h) s'

/-- The sums of the two blocks of an image modulo 256. -/
def blockSums (bs : List Byte) : List Byte := [byteSum (bs.take 128), byteSum ((bs.drop 128).take 128)]

/-- Both blocks of an image are intact (R123). -/
def blocksIntact (bs : List Byte) : Bool := decide (blockSums bs = [0, 0])

/-- Result data of an IDENT_SERVE (R130): target, head, served state, source kind and screen as they stand, and the block sums of a SLOT copy, else zeros. -/
def serveData (h : HeadId) (sums : List Byte) (s : State) : List Byte :=
  let v := s.served[h.1]
  [byte (headTarget h).1, boolByte (isHeadB h), v.state.code, v.source.kind, v.source.screenByte] ++ sums

/-- Block sums of a copy from a source; zeros unless the source is SLOT. -/
def sumsFor (src : ServedSource) (img : Image) : List Byte :=
  match src with
  | .slot => blockSums img.toList
  | _ => [0, 0]

/-- A waiting cell, if any, completed with the IDENT_SERVE result data. -/
def completeServe (h : HeadId) (c : Option CellId) (r : Result) (sums : List Byte) (s : State) : State :=
  match c with
  | some c => complete c r (serveData h sums s) s
  | none => s

/-- Address of a head's image slot (10 section 10.1). -/
def slotAddress (h : HeadId) : Nat := Config.slotBase + 256 * h.1

/-- Bytes as an image. -/
def imageOf (bs : List Byte) : Image := Vector.ofFn fun i => bs.getD i.1 0

/-- The image a source holds. -/
def sourceImage (s : State) (h : HeadId) : ServedSource → Image
  | .nothing => s.served[h.1].store
  | .screen sc => s.idents[sc.1].image
  | .slot => imageOf (s.xm.mem.block (slotAddress h) 256)

/-- What a hold of a head's slot waits for: an access that is stretched no longer is made before a source SLOT is read (R169; log 12). -/
def beforeSlot (src : ServedSource) (s : State) : State := if src = .slot then releaseReady s else s

/-- A replacement begins (R129): to NONE the head becomes SILENT and takes the follow announce flag (R131); otherwise the copy starts and the head becomes REPLACING. A completing cell is superseded and a running announce cancelled. -/
def beginReplacement (h : HeadId) (rep : Replacement) (s : State) : State :=
  let s := beforeSlot rep.source s
  let v := s.served[h.1]
  let sums := sumsFor v.source v.store
  match rep.source with
  | .nothing =>
    let s := changeServed h (fun v => { v with
      state := .silent, source := .nothing, follow := rep.follow, answering := false, hotplug := false, pending := none,
      completing := none, announceUntil := none }) s
    completeServe h v.completing .superseded sums (completeServe h rep.cell .ok [0, 0] s)
  | src =>
    let img := sourceImage s h src
    let s := changeServed h (fun v => { v with
      state := .replacing, pending := none, completing := none, announceUntil := none,
      copy := some { rep := rep, image := img, due := s.now + Config.copyTime, before := v.state } }) s
    completeServe h v.completing .superseded sums s

/-- A replacement requested for a head (R128). -/
def requestReplacement (h : HeadId) (rep : Replacement) (s : State) : State :=
  let v := s.served[h.1]
  match v.pending with
  | some old =>
    completeServe h old.cell .superseded [0, 0] (changeServed h (fun v => { v with pending := some rep }) s)
  | none =>
    if v.inTransaction = false ∧ v.state ≠ .replacing then beginReplacement h rep s
    else changeServed h (fun v => { v with pending := some rep }) s

/-- A pending replacement begins at the first moment at which no transaction is open and no copy runs (R128). -/
def beginPending (h : HeadId) (s : State) : State :=
  let v := s.served[h.1]
  match v.pending with
  | some rep => if v.inTransaction = false ∧ v.state ≠ .replacing then beginReplacement h rep s else s
  | none => s

/-- The record at the end of a copy (R130). -/
def Served.copied (v : Served) (c : Copy) (now : Nat) : Served :=
  let v := { v with source := c.rep.source, follow := c.rep.follow, store := c.image, copy := none, lastActivity := now }
  let announcing : Served :=
    { v with state := .announcing, hotplug := false, answering := true, announceUntil := some (now + Config.announce),
             completing := if c.rep.announce then c.rep.cell else none }
  match c.before with
  | .serving => if c.rep.announce then announcing else { v with state := .serving, hotplug := true, answering := true }
  | .announcing => announcing
  | .silent | .replacing => { v with state := .serving, hotplug := true, answering := true }

/-- The end of a copy (R130): the cell completes OK at once unless it waits for the end of ANNOUNCING; then a pending replacement may begin. -/
def endCopy (h : HeadId) (c : Copy) (s : State) : State :=
  let s := changeServed h (fun v => v.copied c s.now) s
  let v := s.served[h.1]
  let s :=
    if v.completing.isSome then s else completeServe h c.rep.cell .ok (sumsFor c.rep.source c.image) s
  beginPending h s

/-- The end of ANNOUNCING (R130). -/
def endAnnounce (h : HeadId) (s : State) : State :=
  let v := s.served[h.1]
  let s := changeServed h (fun v => { v with state := .serving, hotplug := true, completing := none, announceUntil := none }) s
  completeServe h v.completing .ok (sumsFor v.source v.store) s

/-- The end of a 1,000 µs copy (R129, R130; log 3). -/
def execCopyEnd (t : Nat) (h : HeadId) (s : State) : Host.Outcome State Fault Refusal :=
  act t (fun s =>
    match s.served[h.1].copy with
    | some c => if c.due ≤ s.now then endCopy h c s else s
    | none => s) s

/-- The expiry of the 200 ms of ANNOUNCING (R130; log 3). -/
def execAnnounceExpiry (t : Nat) (h : HeadId) (s : State) : Host.Outcome State Fault Refusal :=
  act t (fun s => if reached s.served[h.1].announceUntil s then endAnnounce h s else s) s

/-! ## Screen reads (R121 to R125) -/

/-- A screen identity record changed, with a notice when a mirrored field changes (R134). -/
def changeIdent (sc : ScreenId) (f : ScreenIdent → ScreenIdent) (s : State) : State :=
  let s' := modIdent sc f s
  if s'.idents[sc.1].mirrored = s.idents[sc.1].mirrored then s' else noticeOf (.ident sc) s'

/-- Result data of an IDENT_REREAD (R124): screen, identity state, read attempts, image changed. -/
def rereadData (sc : ScreenId) (changed : Bool) (s : State) : List Byte :=
  let r := s.idents[sc.1]
  [byte sc.1, r.state.code, byte r.attempts, boolByte changed]

/-- The waiting cells of a screen's read completed in order of joining, and the list emptied. -/
def completeReads (sc : ScreenId) (r : Result) (changed : Bool) (s : State) : State :=
  modIdent sc (fun i => { i with waiting := [] })
    (completeAll s.idents[sc.1].waiting r (rereadData sc changed) s)

/-- A read starts with its first attempt (R122, R125). -/
def startRead (sc : ScreenId) (f : ScreenIdent → ScreenIdent) (s : State) : State :=
  changeIdent sc (fun i => { f i with state := .reading, attempts := 1, phase := .attempting }) s

/-- A change of debounced presence (R122); of an attempt that a fall abandons nothing comes into the read buffer, which keeps what it held (log 22). -/
def presenceChange (sc : ScreenId) (level : Bool) (s : State) : State :=
  if level then startRead sc (fun i => { i with presence := true }) s
  else
    completeReads sc .notReachable false
      (changeIdent sc (fun i => { i with presence := false, state := .noScreen, phase := .noRead }) s)

/-- The replacement of R132 for one head when screen `sc` has a changed image. -/
def followScreen (sc : ScreenId) (s : State) (h : HeadId) : State :=
  let v := s.served[h.1]
  let src := match v.copy with
    | some c => c.rep.source
    | none => v.source
  if v.pending.isNone ∧ src = .screen sc then
    requestReplacement h { source := .screen sc, announce := v.follow, follow := v.follow, cell := none } s
  else s

/-- A read ends VALID (R124). -/
def readValid (sc : ScreenId) (img : Image) (s : State) : State :=
  let r := s.idents[sc.1]
  let changed := !r.held || decide (r.image ≠ img)
  let s := if changed then writeMem (Config.imageBase + 256 * sc.1) img.toList s else s
  let s := changeIdent sc (fun i => { i with
    image := if changed then img else i.image, held := true, state := .valid, phase := .noRead }) s
  let s := completeReads sc .ok changed s
  if changed then (ids 16).foldl (followScreen sc) s else s

/-- A failed attempt (R124): a retry is scheduled, or at three attempts the read ends INVALID. -/
def readFailed (sc : ScreenId) (s : State) : State :=
  if s.idents[sc.1].attempts < Config.readAttempts then
    modIdent sc (fun i => { i with phase := .retryAt (s.now + Config.readRetry) }) s
  else completeReads sc .identBad false (changeIdent sc (fun i => { i with state := .invalid, phase := .noRead }) s)

/-- An answer on a screen's bus that is no fault: an acknowledge, with the clock held low for 10 ms at most (R123). -/
def busTaken (a : BusAnswer) : Bool := a.ack && decide (a.low ≤ Config.clockLow)

/-- The bytes of a block that arrive before the first fault of the bus (R123). -/
def blockReceived (a : BlockAnswer) : List Byte :=
  if busTaken a.address && busTaken a.offset then
    (a.bytes.toList.takeWhile fun b => decide (b.2 ≤ Config.clockLow)).map Prod.fst
  else []

/-- A block that arrived whole and whose sum is 0 (R123). -/
def blockIntact (bs : List Byte) : Bool := decide (bs.length = 128) && decide (byteSum bs = 0)

/-- Bytes read into the read buffer from an offset on (R123). -/
def fillBuffer (sc : ScreenId) (start : Nat) (bs : List Byte) (s : State) : State :=
  modIdent sc (fun i => { i with
    buffer := imageOf (i.buffer.toList.take start ++ bs ++ i.buffer.toList.drop (start + bs.length)) }) s

/-- The end of an attempt (R123, R124): block 0 is read into the buffer and checked, and then block 1. What arrives before a fault of the bus stays in the buffer (log 22). -/
def attemptEnd (sc : ScreenId) (result : ReadResult) (s : State) : State :=
  let b0 := blockReceived result.block0
  let s := fillBuffer sc 0 b0 s
  if blockIntact b0 then
    let b1 := blockReceived result.block1
    let s := fillBuffer sc 128 b1 s
    if blockIntact b1 then readValid sc s.idents[sc.1].buffer s else readFailed sc s
  else readFailed sc s

/-- The debounce of a presence input begun or cancelled at its present level (R121). -/
def ScreenIdent.debounce (r : ScreenIdent) (now : Nat) : ScreenIdent :=
  { r with debounceDue := if r.input = r.presence then none else some (now + Config.presenceDebounce) }

/-- The level of a screen's presence input, which lies outside the part (log 23). -/
def setInput (sc : ScreenId) (level : Bool) (s : State) : State := modIdent sc (fun i => { i with input := level }) s

/-- A new level of a screen's presence input looked at on a fitted screen once the clear is done (R121). -/
def inputChanged (sc : ScreenId) (level : Bool) (s : State) : State :=
  if s.idents[sc.1].input = level then s
  else
    let s := setInput sc level s
    if s.fittedScreen sc && decide (s.runState ≠ .starting) then modIdent sc (fun i => i.debounce s.now) s else s

/-- A change of a screen's presence input (R121); while RESET_N is asserted the input has its new level all the same, and nothing else changes (log 23). -/
def execScreenPresenceInputChange (t : Nat) (sc : ScreenId) (level : Bool) (s : State) :
    Host.Outcome State Fault Refusal :=
  if s.resetAsserted then .next (setInput sc level (s.advance t)) else act t (inputChanged sc level) s

/-- The input has been steady for 50 ms (R121, R122; log 3). -/
def execPresenceDebounceExpiry (t : Nat) (sc : ScreenId) (s : State) : Host.Outcome State Fault Refusal :=
  act t (fun s =>
    if reached s.idents[sc.1].debounceDue s then
      presenceChange sc s.idents[sc.1].input (modIdent sc (fun i => { i with debounceDue := none }) s)
    else s) s

/-- The end of an attempt of a read in progress (R123, R124). -/
def execReadAttemptEnd (t : Nat) (sc : ScreenId) (result : ReadResult) (s : State) : Host.Outcome State Fault Refusal :=
  act t (fun s => if s.idents[sc.1].phase = .attempting then attemptEnd sc result s else s) s

/-- The retry's expiry: the next attempt begins (R124; log 3). -/
def execReadRetryExpiry (t : Nat) (sc : ScreenId) (s : State) : Host.Outcome State Fault Refusal :=
  act t (fun s =>
    match s.idents[sc.1].phase with
    | .retryAt due =>
      if due ≤ s.now then
        changeIdent sc (fun i => { i with attempts := i.attempts + 1, phase := .attempting }) s
      else s
    | _ => s) s

/-- The owner of IDENT_REREAD (R125). -/
def ownIdentReread : Owner := fun c p s =>
  match asFin 6 (at8 p 0).toNat with
  | none => complete c .badParam [] s
  | some sc =>
    if s.fittedScreen sc = false then complete c .notFitted [] s
    else
      match s.idents[sc.1].state with
      | .noScreen => complete c .notReachable [] s
      | .reading => modIdent sc (fun i => { i with waiting := i.waiting ++ [c] }) s
      | .valid | .invalid => startRead sc (fun i => { i with waiting := [c] }) s

/-- IDENT_REREAD (R125). -/
def execIdentReread (t : Nat) (c : CellId) (s : State) : Host.Outcome State Fault Refusal :=
  takeCell t 0x0C ownIdentReread c s

/-! ## IDENT_SERVE (R131) -/

/-- The source an IDENT_SERVE names: the screen byte counts only with SCREEN. -/
def servedSourceOf (kind screen : Byte) : Option ServedSource :=
  match kind.toNat with
  | 0 => some .nothing
  | 1 => (asFin 6 screen.toNat).map .screen
  | 2 => some .slot
  | _ => none

/-- The parameters of an IDENT_SERVE in range (R131 step 1): the head and the replacement with its cell. -/
def serveOf (c : CellId) (p : List Byte) : Option (HeadId × Replacement) := do
  let t ← asFin 8 (at8 p 0).toNat
  let h ← boolOf (at8 p 1)
  let src ← servedSourceOf (at8 p 2) (at8 p 3)
  let announce ← boolOf (at8 p 4)
  let follow ← boolOf (at8 p 5)
  some (headOf t h, { source := src, announce := announce, follow := follow, cell := some c })

/-- The checks of R131 after the range: the result of a refusal, if any. -/
def serveRefusal (s : State) (h : HeadId) (src : ServedSource) : Option Result :=
  if s.watched h = false then some .notFitted
  else
    match src with
    | .nothing => none
    | .screen sc =>
      if s.fittedScreen sc = false then some .notFitted
      else if s.idents[sc.1].held then none
      else some .identBad
    | .slot => if blocksIntact (s.xm.mem.block (slotAddress h) 256) then none else some .identBad

/-- The owner of IDENT_SERVE (R131); the check of a slot holds its bank, after the accesses that it waits for (R169). -/
def ownIdentServe : Owner := fun c p s =>
  match serveOf c p with
  | none => complete c .badParam [] s
  | some (h, rep) =>
    let s := if s.watched h then beforeSlot rep.source s else s
    match serveRefusal s h rep.source with
    | some r => complete c r [] s
    | none => requestReplacement h rep s

/-- IDENT_SERVE (R131). -/
def execIdentServe (t : Nat) (c : CellId) (s : State) : Host.Outcome State Fault Refusal :=
  takeCell t 0x0D ownIdentServe c s

/-! ## The responder (R127) -/

/-- A transaction held after its address byte: the clock is held low until the copy ends (R127). -/
def Served.busHeld (v : Served) : Bool := decide (v.state = .replacing) && v.inTransaction

/-- The record after a start condition and an address (R127): the responder's own address is acknowledged while it answers and opens a transaction, or goes on in one; another address is not the responder's. -/
def Served.busStart (v : Served) (addr : BitVec 7) (now : Nat) : Served :=
  if addr = Config.responderAddress ∧ v.answering = true then
    { v with inTransaction := true, addressed := true, offsetTaken := false, lastActivity := now }
  else if v.inTransaction then { v with addressed := false, lastActivity := now }
  else v

/-- The record after a byte written to the responder (R127): the first sets the offset, later ones change nothing. -/
def Served.busWrite (v : Served) (b : Byte) (now : Nat) : Served :=
  let v := { v with lastActivity := now }
  if v.addressed = true ∧ v.offsetTaken = false then { v with offset := b, offsetTaken := true } else v

/-- The record after a byte read from the responder (R127): the byte at the offset, which then advances, wrapping from 255 to 0. -/
def Served.busRead (v : Served) (now : Nat) : Served :=
  let v := { v with lastActivity := now }
  if v.addressed then { v with lastByte := some (v.store.toList.getD v.offset.toNat 0), offset := v.offset + 1 } else v

/-- The end of a transaction (R127, R128). -/
def endTransaction (h : HeadId) (s : State) : State :=
  beginPending h (modServed h (fun v => { v with inTransaction := false, addressed := false }) s)

/-- A bus event in an open transaction that the responder does not hold (R127; log 11). -/
def inOpenTransaction (h : HeadId) (f : State → State) (s : State) : State :=
  let v := s.served[h.1]
  if v.inTransaction = true ∧ v.busHeld = false then f s else s

/-- A start condition with an address on a head bus (R127). -/
def execHeadTransactionStart (t : Nat) (h : HeadId) (addr : BitVec 7) (s : State) : Host.Outcome State Fault Refusal :=
  act t (fun s =>
    if s.served[h.1].busHeld then s else modServed h (fun v => v.busStart addr s.now) s) s

/-- A byte written on a head bus (R127). -/
def execHeadOffsetWrite (t : Nat) (h : HeadId) (value : Byte) (s : State) : Host.Outcome State Fault Refusal :=
  act t (inOpenTransaction h fun s => modServed h (fun v => v.busWrite value s.now) s) s

/-- A byte read on a head bus (R127). -/
def execHeadByteRead (t : Nat) (h : HeadId) (s : State) : Host.Outcome State Fault Refusal :=
  act t (inOpenTransaction h fun s => modServed h (fun v => v.busRead s.now) s) s

/-- The stop condition of a head bus (R127, R128). -/
def execHeadTransactionStop (t : Nat) (h : HeadId) (s : State) : Host.Outcome State Fault Refusal :=
  act t (inOpenTransaction h (endTransaction h)) s

/-- The bus has been idle for 25 ms in a transaction, which is taken as ended (R127; log 3). -/
def execHeadBusIdleExpiry (t : Nat) (h : HeadId) (s : State) : Host.Outcome State Fault Refusal :=
  act t (inOpenTransaction h fun s =>
    if s.served[h.1].lastActivity + Config.busIdle ≤ s.now then endTransaction h s else s) s

/-! ## Setup and restart (R133) -/

/-- Head B of a target becomes unfitted: a replacement to NONE with no cell (R133, which gives it no follow announce flag: log 38). -/
def unfitServed (h : HeadId) (s : State) : State :=
  requestReplacement h { source := .nothing, announce := false, follow := false, cell := none } s

/-- A pending replacement with a waiting cell removed, its cell ABORTED. -/
def abortPending (s : State) (h : HeadId) : State :=
  match s.served[h.1].pending with
  | some rep =>
    if rep.cell.isSome then
      completeServe h rep.cell .aborted [0, 0] (changeServed h (fun v => { v with pending := none }) s)
    else s
  | none => s

/-- The cell of a running copy and a completing cell ABORTED; the copy and the ANNOUNCING run on. -/
def abortServing (s : State) (h : HeadId) : State :=
  let v := s.served[h.1]
  let s := modServed h (fun v => { v with
    copy := v.copy.map fun c => { c with rep := { c.rep with cell := none } }, completing := none }) s
  let s := match v.copy with
    | some c => completeServe h c.rep.cell .aborted (sumsFor c.rep.source c.image) s
    | none => s
  completeServe h v.completing .aborted (sumsFor v.source v.store) s

/-- The display identity unit's part of a restart (R133; the order in which cells of different heads complete is log 42). -/
def restartIdentity (s : State) : State :=
  let s := (ids 6).foldl (fun s sc => completeReads sc .aborted false s) s
  let s := (ids 16).foldl abortPending s
  (ids 16).foldl abortServing s

end Sys2Proof.Machine
end

