-- ==== Sys2Proof/Machine/Power.lean ====
section
/-! DEFINITION. The power supervisor (08): the sense rotation, power states, TARGET_SETUP, WAKE, and the deadlines of wake operations. -/

namespace Sys2Proof.Machine

open Sys2Proof

/-! ## Sensing (R135 to R139) -/

/-- The record after a sample and its classification (R135 to R137). -/
def PowerRec.sampled (r : PowerRec) (sample : Nat) (level : Power) : PowerRec :=
  let r := { r with sample := sample }
  if level = r.state then { r with runLevel := none, runCount := 0 }
  else
    let n := if r.runLevel = some level then r.runCount + 1 else 1
    if 3 ≤ n then { r with state := level, runLevel := none, runCount := 0 }
    else { r with runLevel := some level, runCount := n }

/-- A power record after its sample with the reports of a change (R139, R153): the composer, the panel scanner and the wake operation take the change in this order, and the focus controller takes it after them (log 43). At a change to ON its report is posted, and so taken, before the OK of a wake operation that the change ends (R59; log 55). -/
def setPowerRec (k : TargetId) (r : PowerRec) (s : State) : State :=
  let old := s.power[k.1].state
  let s := modPower k (fun _ => r) s
  if old = r.state then rewriteOf (.power k) s
  else
    let s := noticeOf (.power k) s
    let s := powerToPanel k r.state (powerToComposer k old r.state (post (.power k r.state) s))
    if r.state = .on then wakeOnPower k s else s

/-- The end of a slot of the rotation (R135): the target of the slot, if fitted, takes the sample. -/
def takeSample (result : Int) (s : State) : State :=
  let k := s.senseSlot
  let s := { s with senseSlot := k + 1 }
  if s.fittedTarget k then
    let q := s.setups[k.1]
    let r := s.power[k.1]
    let v := sampleOf q.falling result
    setPowerRec k (r.sampled v (classify q r.state v)) s
  else s

/-- A conversion result at the end of a slot (R135 to R139); the rotation begins when the clear is done. -/
def execPowerSample (t : Nat) (result : Int) (s : State) : Host.Outcome State Fault Refusal :=
  act t (fun s => if s.runState = .starting then s else takeSample result s) s

/-! ## TARGET_SETUP (R140, R141) -/

/-- Head B of a target becomes unfitted: the head monitor's absence handling and the identity unit's replacement to NONE (R118, R133). -/
def unfitHeadB (k : TargetId) (s : State) : State :=
  unfitServed (headBOf k) (makeAbsent (headBOf k) s)

/-- A setup applied (R141). -/
def applySetup (k : TargetId) (q : Setup) (s : State) : State :=
  let old := s.setups[k.1]
  let s := modPower k (fun r => { r with runLevel := none, runCount := 0 }) (modSetup k (fun _ => q) s)
  let s := if s.wakes[k.1].state = .idle then modWake k (fun w => { w with outHigh := inactiveHigh q }) s else s
  let s := viewReport k (fun v => { v with excluded := q.excluded }) s
  if old.headB = true ∧ q.headB = false then unfitHeadB k s else s

/-- The owner of TARGET_SETUP (R140, R141); its cell completes after an IDENT_SERVE cell that the replacement to NONE of an unfitted head B supersedes (R133; log 52). -/
def ownTargetSetup : Owner := fun c p s =>
  match asFin 8 (at8 p 0).toNat with
  | none => complete c .badParam [0xFF] s
  | some k =>
    if s.fittedTarget k = false then complete c .notFitted [0xFF] s
    else
      let b := s.xm.mem.block Config.setupBase 26
      match setupFailure b (s.anyPlanShows (headBOf k)) with
      | some i => complete c .badParam [byte i] s
      | none => complete c .ok (setupBytesTaken b) (applySetup k (setupOf b) s)

/-- TARGET_SETUP (R140, R141). -/
def execTargetSetup (t : Nat) (c : CellId) (s : State) : Host.Outcome State Fault Refusal :=
  takeCell t 0x07 ownTargetSetup c s

/-! ## WAKE and the deadlines of a wake operation -/

/-- The owner of WAKE (R151). -/
def ownWake : Owner := fun c p s =>
  match asFin 8 (at8 p 0).toNat with
  | none => complete c .badParam [] s
  | some k => if s.fittedTarget k then requestWake k (.cell c) s else complete c .notFitted [] s

/-- WAKE (R151). -/
def execWake (t : Nat) (c : CellId) (s : State) : Host.Outcome State Fault Refusal :=
  takeCell t 0x0B ownWake c s

/-- A wake operation is in a phase whose deadline has been reached (log 3). -/
def State.phaseEnded (s : State) (k : TargetId) (st : WakeState) : Bool :=
  decide (s.wakes[k.1].state = st) && reached s.wakes[k.1].due s

/-- The end of the pulse delay (R147). -/
def execPulseDelayEnd (t : Nat) (k : TargetId) (s : State) : Host.Outcome State Fault Refusal :=
  act t (fun s => if s.phaseEnded k .delaying then startPulse k s else s) s

/-- The end of the pulse width (R147): the output returns to the policy's inactive level, and the operation watches. -/
def execPulseEnd (t : Nat) (k : TargetId) (s : State) : Host.Outcome State Fault Refusal :=
  act t (fun s =>
    if s.phaseEnded k .pulsing then
      enterWatching k (modWake k (fun w => { w with outHigh := !(s.wakePolicy k).activeHigh }) s)
    else s) s

/-- The window's expiry (R148): the next attempt, or the end with WAKE_FAILED at the retry limit. -/
def windowExpired (k : TargetId) (s : State) : State :=
  if s.wakes[k.1].attempts < (s.wakePolicy k).retry then nextAttempt k s else endWake k .wakeFailed s

/-- The expiry of the wake window (R148). -/
def execWakeWindowExpiry (t : Nat) (k : TargetId) (s : State) : Host.Outcome State Fault Refusal :=
  act t (fun s => if s.phaseEnded k .watching then windowExpired k s else s) s

/-- The end of the 20 ms of a resume signal (R16, R146; log 3). -/
def execResumeSignalEnd (t : Nat) (k : TargetId) (s : State) : Host.Outcome State Fault Refusal :=
  act t (fun s =>
    if reached s.tlines[k.1].resumeUntil s then resumeAnswer k (stopResume k s) else s) s

end Sys2Proof.Machine
end

