-- ==== Sys2Proof/Machine/Restart.lean ====
section
/-! DEFINITION. The work of a RESTART in its order (11 section 11.2). -/

namespace Sys2Proof.Machine

open Sys2Proof

/-- Every LINE mirror rewritten with its notice. -/
def noticeLines (s : State) : State := (ids 4).foldl (fun s l => notice (.line l) s) s

/-- Step 4 (R10, R88): lines SILENT and empty, the reset condition driven with the LINE notices of R1, the matcher IDLE. -/
def restartDesk (s : State) : State :=
  let clear (r : DeskLine) : DeskLine :=
    { r with cls := .silent, lastKeys := Keys.empty, rollover := false, buttons := 0 }
  let s := { s with desk := { lines := s.desk.lines.map clear, keys := Keys.empty, merged := 0 } }
  setMatcher .idle (noticeLines (driveLineResets s))

/-- Step 6 (R22): the release flush of every fitted target's queue. -/
def restartQueues (s : State) : State :=
  { s with tlines := mapVec s.tlines fun k l => if s.fittedTarget k then l.releaseFlush else l }

/-- Step 7 (R28): residuals and dwell cleared, the buttons empty, the cursor at the centre of the lowest-numbered enabled screen. Where no screen is enabled the current tile keeps its number (log 50). The cursor mirror is not rewritten here: that of step 8 shows the new values (DESIGN CHOICE, log 57). -/
def centreCursor (s : State) : State :=
  let s := { s with cur := { s.cur with
    cursor := s.cur.cursor.still, deskButtons := 0, lastButtons := Vector.replicate 8 0 } }
  match s.lowestEnabled with
  | some sc => centreOn sc s
  | none => modCursor (fun c => { c with screen := none }) s

/-- Step 7 of the restart (R28, R51): the cursor is centred; where a request taken after step 5 has made focus FOCUSED on a target that another tile shows, the cursor is placed for that target (R46; log 45). -/
def restartCursor (s : State) : State :=
  let s := centreCursor s
  match s.focus.st with
  | .focused t => (placeCursor t s).2
  | .nobody | .pending _ => s

/-- Step 8 (R181): every mirror rewritten from its owners' state as it stands, and every summary byte set to 1. The words after the mirrors (0x0914 to 0x0BFF), which the part does not write, stay as the host left them (log 54). -/
def restartNotices (s : State) : State :=
  writeMem Config.noticeBase (List.replicate 22 1) (allMirrors.foldl (fun s m => rewriteMirror m s) (giveAll s))

/-- The work of the blocks at a step of the restart (R185), steps 1 to 8 numbered from 0. The panel scanner's last event is kept like the records that R167 names (log 36). -/
def restartWork (step : Fin 9) (s : State) : State :=
  match step.1 with
  | 0 => restartWakes s
  | 1 => discardStaged s
  | 2 => restartIdentity s
  | 3 => restartDesk s
  | 4 => restartFocus s
  | 5 => restartQueues s
  | 6 => restartCursor s
  | 7 => restartNotices s
  | _ => s

end Sys2Proof.Machine
end

