-- ==== Sys2Proof/Machine/Exchange.lean ====
section
/-! DEFINITION. The exchange port and the command sweeper (10): sweeps and the steps of a restart, the command catalogue, the port registers, host writes and reads. -/

namespace Sys2Proof.Machine

open Sys2Proof

/-! ## Sweeps (R174 to R176) -/

/-- The command catalogue (10 section 10.7) without RESTART, which is the sweeper's own. -/
def ownerOf (kind : Byte) : Option Owner :=
  match kind.toNat with
  | 0x01 => some ownLayoutLoad
  | 0x02 => some ownDeskSet
  | 0x03 => some ownFocus
  | 0x04 => some ownPin
  | 0x05 => some ownHotkeysLoad
  | 0x06 => some ownLeaderSet
  | 0x07 => some ownTargetSetup
  | 0x08 => some ownPlanSet
  | 0x09 => some ownShare
  | 0x0A => some ownRestore
  | 0x0B => some ownWake
  | 0x0C => some ownIdentReread
  | 0x0D => some ownIdentServe
  | 0x0E => some ownPanelMapLoad
  | 0x0F => some ownIndicatorSet
  | _ => none

/-- The kind code of RESTART. -/
def restartKind : Byte := 0x10

/-- A command of a kind not in the catalogue (R176). -/
def ownUnknown : Owner := fun c _ s => complete c .unknownKind [] s

/-- A visit that takes no RESTART (R175): a READY cell is taken and its command handed to its owner. -/
def visit (c : CellId) (s : State) : State :=
  if s.cellReady c then handOver ((ownerOf (s.cellKind c)).getD ownUnknown) c s else s

/-- A sweep starts (R174): the sweep count increments, and cell 0 is visited next. -/
def startSweep (s : State) : State :=
  { s with xm := { s.xm with sweepState := .sweeping 0, sweepCount := s.xm.sweepCount + 1 } }

/-- The pending flag tested at the end of a sweep and as the run state becomes RUNNING (R174): set, it is cleared and a sweep starts; clear, the sweep state is IDLE. -/
def startPending (s : State) : State :=
  if s.xm.pendingSweep then startSweep { s with xm := { s.xm with pendingSweep := false } }
  else { s with xm := { s.xm with sweepState := .idle } }

/-- A sweep request (R174): a sweep starts when the sweep state is IDLE and the run state RUNNING, and the pending flag is set otherwise. -/
def requestSweep (s : State) : State :=
  if s.runState = .running ∧ s.xm.sweepState = .idle then startSweep s
  else { s with xm := { s.xm with pendingSweep := true } }

/-- The sweep goes on after the visit of a cell: to the next cell, or to its end after cell 15 (R174, R175). -/
def sweepOn (c : CellId) (s : State) : State :=
  if c.1 = 15 then startPending s else { s with xm := { s.xm with sweepState := .sweeping (c + 1) } }

/-- The take of a RESTART (R175, R185): the sweep ends, the pending flag is set, and the run state is RESTARTING with step 1 next. -/
def beginRestart (c : CellId) (s : State) : State :=
  let s := take c s
  { s with runState := .restarting c 0, xm := { s.xm with sweepState := .idle, pendingSweep := true } }

/-- A visit of a sweep and what follows it (R175). -/
def visitCell (c : CellId) (s : State) : State :=
  if s.cellReady c && s.cellKind c == restartKind then beginRestart c s else sweepOn c (visit c s)

/-- A step of the restart taken (R185): the run state holds the next one; step 9 completes the RESTART cell, and the run state is RUNNING with the pending flag tested (R174). -/
def restartStep (c : CellId) (k : Fin 9) (s : State) : State :=
  if k.1 = 8 then startPending { complete c .ok [] s with runState := .running }
  else { restartWork k s with runState := .restarting c (k + 1) }

/-- The part has an action of its own to make: a visit of a sweep, or a step of a restart. -/
def State.busy (s : State) : Bool :=
  match s.runState, s.xm.sweepState with
  | .restarting _ _, _ => true
  | _, .sweeping _ => true
  | _, .idle => false

/-- One action of the part's own with all that it makes the focus controller hear: a step of the restart that runs, or else the visit of the sweep that runs; none while neither runs (log 4). -/
def tick (s : State) : State :=
  match s.runState, s.xm.sweepState with
  | .restarting c k, _ => settle (restartStep c k s)
  | _, .sweeping c => settle (visitCell c s)
  | _, .idle => s

/-- So many actions of the part's own, fewer when it has no more to make. -/
def work : Nat → State → State
  | 0, s => s
  | n + 1, s => if s.busy then work n (tick s) else s

/-- A restart whose step 4 is done brought to RUNNING by its remaining steps: it has reached RUNNING before the 10 ms of the line reset condition that step 4 drove end (R186; log 48). -/
def finishRestart (s : State) : State :=
  match s.runState with
  | .restarting _ k => if 4 ≤ k.1 then work (9 - k.1) s else s
  | .starting | .running => s

/-- The end of a line reset condition (R1, R186; log 3). -/
def execLineResetEnd (t : Nat) (l : LineId) (s : State) : Host.Outcome State Fault Refusal :=
  act t (fun s => if reached s.desk.lines[l.1].resetUntil s then endLineReset l (finishRestart s) else s) s

/-- The pace of the command in hand; whole when none is listed (log 4). -/
def State.pace (s : State) : Nat := s.paces.headD Config.wholePace

/-- An effect with as many of the part's own actions after it as the pace says, which is used up. -/
def paced (f : State → State) (s : State) : State := work s.pace (f { s with paces := s.paces.tail })

/-- RESTART (R185): the visit of a sweep at this cell (log 5), with the actions that follow. -/
def execRestart (t : Nat) (c : CellId) (s : State) : Host.Outcome State Fault Refusal :=
  act t (fun s => if s.cellReady c && s.cellKind c == restartKind then paced (beginRestart c) s else s) s

/-- A taken command of a kind not in the catalogue (R176). -/
def execUnknownKind (t : Nat) (c : CellId) (s : State) : Host.Outcome State Fault Refusal :=
  act t (fun s =>
    if s.cellReady c && !(s.cellKind c == restartKind) && (ownerOf (s.cellKind c)).isNone then handOver ownUnknown c s
    else s) s

/-- A write to ATTENTION (R170, R174), with the actions that follow. -/
def execAttention (t : Nat) (_value : Word16) (s : State) : Host.Outcome State Fault Refusal :=
  act t (paced requestSweep) s

/-- The sweep timer's request (R171): one every period from the moment it was started. -/
def sweepTick (s : State) : State :=
  requestSweep { s with xm := { s.xm with
    sweepDue := match s.xm.sweepDue, s.xm.sweepPeriod.length with
      | some d, some p => some (d + p)
      | _, _ => none } }

/-- The expiry of the sweep timer (R171, R174; log 3), with the actions that follow. -/
def execSweepTimerExpiry (t : Nat) (s : State) : Host.Outcome State Fault Refusal :=
  act t (fun s => if reached s.xm.sweepDue s then paced sweepTick s else s) s

/-! ## LINE_CONTROL (R171) -/

/-- The sweep timer started now with the present period; not while the run state is STARTING (log 24). -/
def startSweepTimer (s : State) : State :=
  let due := if s.runState = .starting then none else s.xm.sweepPeriod.length.map fun p => s.now + p
  { s with xm := { s.xm with sweepDue := due } }

/-- A write to LINE_CONTROL (R171): a code that names no period leaves the period, and a change of period restarts the timer. -/
def writeLineControl (v : Word16) (s : State) : State :=
  let s := { s with xm := { s.xm with noteEnable := v.getLsbD 0 } }
  match SweepPeriod.ofCode (v.extractLsb' 8 4) with
  | none => s
  | some p =>
    if p = s.xm.sweepPeriod then s else startSweepTimer { s with xm := { s.xm with sweepPeriod := p } }

/-- A write to LINE_CONTROL (R171). -/
def execLineControl (t : Nat) (v : Word16) (s : State) : Host.Outcome State Fault Refusal :=
  act t (writeLineControl v) s

/-- A write to STATUS or IDENT is ignored (R170). -/
def execRegisterWriteIgnored (t : Nat) (_reg : IgnoredReg) (_value : Word16) (s : State) :
    Host.Outcome State Fault Refusal :=
  act t id s

/-! ## Memory accesses of the host (R168, R169, R180) -/

/-- A host write of a word of the window: a memory word, or a port register (10 section 10.2). -/
def windowWrite (a : BitVec 14) (v : Word16) (s : State) : State :=
  if byteAddress a < Config.portBase then hostWrite a v s
  else
    match byteAddress a with
    | 0x7FFA => requestSweep s
    | 0x7FFC => writeLineControl v s
    | _ => s

/-- A host write to a memory word (R168). -/
def execHostMemoryWrite (t : Nat) (a : BitVec 14) (v : Word16) (s : State) : Host.Outcome State Fault Refusal :=
  act t (windowWrite a v) s

/-- The word address of a word of the notice summary. -/
def summaryAddress (w : Fin 16) : BitVec 14 := BitVec.ofNat 14 (Config.noticeBase / 2 + w.1)

/-- A host write to a word of the notice summary (R180). -/
def execSummaryClear (t : Nat) (w : Fin 16) (v : Word16) (s : State) : Host.Outcome State Fault Refusal :=
  act t (hostWrite (summaryAddress w) v) s

/-- A stretched access is made when the hold ends (R169). -/
def execHeldAccessRelease (t : Nat) (s : State) : Host.Outcome State Fault Refusal :=
  act t releaseAccess s

/-- The answer to a host read. -/
inductive ReadAnswer where
  | unanswered
  | waits
  | word (w : Word16)
  deriving DecidableEq, Repr

/-- What a host read is answered with; it changes nothing (R168, R170, R171; log 13). -/
def State.hostRead (s : State) (a : BitVec 14) : ReadAnswer :=
  if s.resetAsserted then .unanswered
  else
    match byteAddress a with
    | 0x7FF8 => .word s.statusWord
    | 0x7FFA => .word 0
    | 0x7FFC => .word s.lineControlWord
    | 0x7FFE => .word Config.identWord
    | b => if s.mustWait b then .waits else .word (s.xm.mem.word b)

end Sys2Proof.Machine
end

