-- ==== Sys2Proof/Machine/Startup.lean ====
section
/-! DEFINITION. Power-on reset, the release of RESET_N, and the end of the memory clear (11 section 11.1). -/

namespace Sys2Proof.Machine

open Sys2Proof

/-- What a reset leaves: the waiting commands and their paces, the count, the memory until its clear, and the levels of the screen presence inputs, over the power-on values of every block. -/
def overPowerOn (s : State) (st : Straps) (present : BitVec 8) : State :=
  let p := State.powerOn st present
  { p with
    pending := s.pending, paces := s.paces, now := s.now,
    xm := { p.xm with mem := s.xm.mem },
    idents := mapVec p.idents fun sc r => { r with input := s.idents[sc.1].input } }

/-- RESET_N asserted (R183): all work is abandoned with no cell completed; the state while it is asserted is log 7. -/
def execPowerOnReset (t : Nat) (s : State) : Host.Outcome State Fault Refusal :=
  let s := s.advance t
  .next { overPowerOn s s.straps 0 with resetAsserted := true }

/-- The straps as taken at the release (R183). -/
def strapsOf (screens targets : BitVec 3) (glide : Bool) : Straps :=
  { screens := min (screens.toNat + 1) 6, targets := targets.toNat + 1, glide := glide }

/-- The release of RESET_N (R183): the straps are sampled, every block takes its power-on values and the run state becomes STARTING. The screen presence inputs stand at their levels, which their changes while RESET_N was asserted have set (R121; log 23). -/
def execResetRelease (t : Nat) (screens targets : BitVec 3) (glide : Bool) (present : BitVec 8) (s : State) :
    Host.Outcome State Fault Refusal :=
  .next (overPowerOn (s.advance t) (strapsOf screens targets glide) present)

/-- The memory cleared, with every revision count 0 (R168, R181). -/
def clearMemory (s : State) : State :=
  { s with xm := { s.xm with mem := [], revision := Vector.replicate 22 0 } }

/-- The debounce of the presence inputs of the fitted screens begins (R121, R184). -/
def beginDebounce (s : State) : State :=
  { s with idents := mapVec s.idents fun sc r => if s.fittedScreen sc then r.debounce s.now else r }

/-- The frame boundary timing of each RUNNING screen begins (R90, R184). -/
def beginTiming (s : State) : State :=
  { s with comp := { s.comp with
    screens := s.comp.screens.map fun r => if r.state = .running then r.startTiming s.now r.refresh else r } }

/-- The sense rotation, the panel scan and the pattern phase begin (R135, R154, R163). -/
def beginScan (s : State) : State :=
  { s with senseSlot := 0, panel := { s.panel with nextDrive := 0, phaseStart := s.now } }

/-- The mirrors first written at step 3 of R184; the LINE mirrors were written at step 2. -/
def firstMirrors : List Mirror := [.focus, .cursor] ++ (ids 8).map .target ++ (ids 6).map .screen ++ [.hotkey, .panel]

/-- All thirty crosspoint fields written once, in address order (R93). -/
def presentAll (s : State) : State := { s with comp := s.comp.presentAll }

/-- The clear is done and the first mirrors are written (R184 steps 1 to 3, R93). -/
def setUpDesk (s : State) : State :=
  let s := noticeLines (driveLineResets (clearMemory s))
  let s := beginScan (beginTiming (beginDebounce s))
  firstMirrors.foldl (fun s m => rewriteMirror m s) (giveAll (presentAll s))

/-- The run state becomes RUNNING (R184): waiting accesses are made, the sweep timer starts, and a sweep follows a set pending flag. -/
def enterRunning (s : State) : State :=
  startPending (startSweepTimer (releaseAll { s with runState := .running }))

/-- The end of the memory clear (R184), while the run state is STARTING, with the actions of a sweep that follows. -/
def execClearDone (t : Nat) (s : State) : Host.Outcome State Fault Refusal :=
  act t (fun s => if s.runState = .starting then paced (fun s => enterRunning (setUpDesk s)) s else s) s

end Sys2Proof.Machine
end

