-- ==== Sys2Proof/Machine/Dispatch.lean ====
section
/-! DEFINITION. The effect of each command on everything but the queue: one arm per constructor. -/

namespace Sys2Proof.Machine

open Sys2Proof

/-- The effect of a command: one direct call of its meaning. -/
def exec (i : Instr) (s : State) : Host.Outcome State Fault Refusal :=
  match i with
  | .announce t line len payload check => Sys2Proof.Machine.execAnnounce t line len payload check s
  | .keys t line len payload check => Sys2Proof.Machine.execKeys t line len payload check s
  | .motion t line len payload check => Sys2Proof.Machine.execMotion t line len payload check s
  | .gone t line len payload check => Sys2Proof.Machine.execGone t line len payload check s
  | .lineResetEnd t line => Sys2Proof.Machine.execLineResetEnd t line s
  | .presentRises t k => Sys2Proof.Machine.execPresentRises t k s
  | .presentFalls t k => Sys2Proof.Machine.execPresentFalls t k s
  | .suspendIndication t k => Sys2Proof.Machine.execSuspendIndication t k s
  | .slotStart t k take => Sys2Proof.Machine.execSlotStart t k take s
  | .transmissionComplete t k => Sys2Proof.Machine.execTransmissionComplete t k s
  | .resumeSignalEnd t k => Sys2Proof.Machine.execResumeSignalEnd t k s
  | .layoutLoad t cell => Sys2Proof.Machine.execLayoutLoad t cell s
  | .deskSet t cell => Sys2Proof.Machine.execDeskSet t cell s
  | .dwellDeadlineExpiry t => Sys2Proof.Machine.execDwellDeadlineExpiry t s
  | .focus t cell => Sys2Proof.Machine.execFocus t cell s
  | .pin t cell => Sys2Proof.Machine.execPin t cell s
  | .leaderDeadlineExpiry t => Sys2Proof.Machine.execLeaderDeadlineExpiry t s
  | .hotkeysLoad t cell => Sys2Proof.Machine.execHotkeysLoad t cell s
  | .leaderSet t cell => Sys2Proof.Machine.execLeaderSet t cell s
  | .frameBoundary t sc => Sys2Proof.Machine.execFrameBoundary t sc s
  | .planSet t cell => Sys2Proof.Machine.execPlanSet t cell s
  | .share t cell => Sys2Proof.Machine.execShare t cell s
  | .restore t cell => Sys2Proof.Machine.execRestore t cell s
  | .syncEdge t h => Sys2Proof.Machine.execSyncEdge t h s
  | .absenceDeadlineExpiry t h => Sys2Proof.Machine.execAbsenceDeadlineExpiry t h s
  | .screenPresenceInputChange t sc level => Sys2Proof.Machine.execScreenPresenceInputChange t sc level s
  | .presenceDebounceExpiry t sc => Sys2Proof.Machine.execPresenceDebounceExpiry t sc s
  | .readAttemptEnd t sc result => Sys2Proof.Machine.execReadAttemptEnd t sc result s
  | .readRetryExpiry t sc => Sys2Proof.Machine.execReadRetryExpiry t sc s
  | .identReread t cell => Sys2Proof.Machine.execIdentReread t cell s
  | .identServe t cell => Sys2Proof.Machine.execIdentServe t cell s
  | .copyEnd t h => Sys2Proof.Machine.execCopyEnd t h s
  | .announceExpiry t h => Sys2Proof.Machine.execAnnounceExpiry t h s
  | .headTransactionStart t h addr => Sys2Proof.Machine.execHeadTransactionStart t h addr s
  | .headOffsetWrite t h value => Sys2Proof.Machine.execHeadOffsetWrite t h value s
  | .headByteRead t h => Sys2Proof.Machine.execHeadByteRead t h s
  | .headTransactionStop t h => Sys2Proof.Machine.execHeadTransactionStop t h s
  | .headBusIdleExpiry t h => Sys2Proof.Machine.execHeadBusIdleExpiry t h s
  | .powerSample t result => Sys2Proof.Machine.execPowerSample t result s
  | .targetSetup t cell => Sys2Proof.Machine.execTargetSetup t cell s
  | .wake t cell => Sys2Proof.Machine.execWake t cell s
  | .pulseDelayEnd t k => Sys2Proof.Machine.execPulseDelayEnd t k s
  | .pulseEnd t k => Sys2Proof.Machine.execPulseEnd t k s
  | .wakeWindowExpiry t k => Sys2Proof.Machine.execWakeWindowExpiry t k s
  | .panelSlot t levels => Sys2Proof.Machine.execPanelSlot t levels s
  | .longPressExpiry t p => Sys2Proof.Machine.execLongPressExpiry t p s
  | .tallyPeriodEnd t sc => Sys2Proof.Machine.execTallyPeriodEnd t sc s
  | .panelMapLoad t cell => Sys2Proof.Machine.execPanelMapLoad t cell s
  | .indicatorSet t cell => Sys2Proof.Machine.execIndicatorSet t cell s
  | .hostMemoryWrite t addr value => Sys2Proof.Machine.execHostMemoryWrite t addr value s
  | .heldAccessRelease t => Sys2Proof.Machine.execHeldAccessRelease t s
  | .summaryClear t word value => Sys2Proof.Machine.execSummaryClear t word value s
  | .attention t value => Sys2Proof.Machine.execAttention t value s
  | .lineControl t value => Sys2Proof.Machine.execLineControl t value s
  | .registerWriteIgnored t reg value => Sys2Proof.Machine.execRegisterWriteIgnored t reg value s
  | .sweepTimerExpiry t => Sys2Proof.Machine.execSweepTimerExpiry t s
  | .unknownKind t cell => Sys2Proof.Machine.execUnknownKind t cell s
  | .restart t cell => Sys2Proof.Machine.execRestart t cell s
  | .powerOnReset t => Sys2Proof.Machine.execPowerOnReset t s
  | .clearDone t => Sys2Proof.Machine.execClearDone t s
  | .resetRelease t screens targets glide present => Sys2Proof.Machine.execResetRelease t screens targets glide present s
  | .deskFrameBadKind t line kind len payload check => Sys2Proof.Machine.execDeskFrameBadKind t line kind len payload check s

end Sys2Proof.Machine
end

