-- ==== Sys2Proof/Safety.lean ====
section
/-! DEFINITION. What the statements speak of: the time, line and cell of a command, the laws of the part that hold between steps, what a command's parameters read as, and the frames, which say what a command leaves as it was. -/

namespace Sys2Proof

/-- The time of a command on the 1 µs count: its first operand (log 1). -/
def Instr.time : Instr → Nat
  | .announce t _ _ _ _ => t
  | .keys t _ _ _ _ => t
  | .motion t _ _ _ _ => t
  | .gone t _ _ _ _ => t
  | .lineResetEnd t _ => t
  | .presentRises t _ => t
  | .presentFalls t _ => t
  | .suspendIndication t _ => t
  | .slotStart t _ _ => t
  | .transmissionComplete t _ => t
  | .resumeSignalEnd t _ => t
  | .layoutLoad t _ => t
  | .deskSet t _ => t
  | .dwellDeadlineExpiry t => t
  | .focus t _ => t
  | .pin t _ => t
  | .leaderDeadlineExpiry t => t
  | .hotkeysLoad t _ => t
  | .leaderSet t _ => t
  | .frameBoundary t _ => t
  | .planSet t _ => t
  | .share t _ => t
  | .restore t _ => t
  | .syncEdge t _ => t
  | .absenceDeadlineExpiry t _ => t
  | .screenPresenceInputChange t _ _ => t
  | .presenceDebounceExpiry t _ => t
  | .readAttemptEnd t _ _ => t
  | .readRetryExpiry t _ => t
  | .identReread t _ => t
  | .identServe t _ => t
  | .copyEnd t _ => t
  | .announceExpiry t _ => t
  | .headTransactionStart t _ _ => t
  | .headOffsetWrite t _ _ => t
  | .headByteRead t _ => t
  | .headTransactionStop t _ => t
  | .headBusIdleExpiry t _ => t
  | .powerSample t _ => t
  | .targetSetup t _ => t
  | .wake t _ => t
  | .pulseDelayEnd t _ => t
  | .pulseEnd t _ => t
  | .wakeWindowExpiry t _ => t
  | .panelSlot t _ => t
  | .longPressExpiry t _ => t
  | .tallyPeriodEnd t _ => t
  | .panelMapLoad t _ => t
  | .indicatorSet t _ => t
  | .hostMemoryWrite t _ _ => t
  | .heldAccessRelease t => t
  | .summaryClear t _ _ => t
  | .attention t _ => t
  | .lineControl t _ => t
  | .registerWriteIgnored t _ _ => t
  | .sweepTimerExpiry t => t
  | .unknownKind t _ => t
  | .restart t _ => t
  | .powerOnReset t => t
  | .clearDone t => t
  | .resetRelease t _ _ _ _ => t
  | .deskFrameBadKind t _ _ _ _ _ => t

end Sys2Proof

namespace Sys2Proof.Machine

open Sys2Proof

/-- The exchange memory is in its canonical form. -/
def State.memoryCanonical (s : State) : Prop := s.xm.mem.wf = true

/-- 1 to 6 screens and 1 to 8 targets are fitted (R183). -/
def State.strapsLegal (s : State) : Prop :=
  1 ≤ s.straps.screens ∧ s.straps.screens ≤ 6 ∧ 1 ≤ s.straps.targets ∧ s.straps.targets ≤ 8

/-- No output queue holds more than 4 reports, and no count of collapsed reports is above 255 (R17, R19). -/
def State.queuesBounded (s : State) : Prop :=
  ∀ k : TargetId, s.tlines[k.1].queue.length ≤ 4 ∧ s.tlines[k.1].collapsed ≤ 255

/-- Each gain residual lies in −7 to 7 (R30). -/
def State.residualsBounded (s : State) : Prop :=
  -7 ≤ s.cur.cursor.rx ∧ s.cur.cursor.rx ≤ 7 ∧ -7 ≤ s.cur.cursor.ry ∧ s.cur.cursor.ry ≤ 7

/-- The in-work set holds one entry per cell (R172). -/
def State.inWorkDistinct (s : State) : Prop := (s.xm.inWork.map InWork.cell).Nodup

/-- A head's good count is at most 8, and it is 8 exactly while the head is PRESENT (06 section 6.1, R112 to R115). -/
def State.goodCounts (s : State) : Prop :=
  ∀ h : HeadId, s.heads[h.1].good ≤ 8 ∧ (s.heads[h.1].presence = .present ↔ s.heads[h.1].good = 8)

/-- Nothing the focus controller has been told is left to take, as it is between two commands (log 14). -/
def State.inboxEmpty (s : State) : Prop := s.focus.inbox = []

/-- While RESTARTING with step 4 done every desk line is in its reset condition, so that no desk frame reaches the desk input unit (R186). -/
def State.restartQuiet (s : State) : Prop :=
  ∀ c k, s.runState = .restarting c k → 4 ≤ k.1 → ∀ l : LineId, s.desk.lines[l.1].resetUntil ≠ none

/-- The part answers commands: RESET_N is not asserted, and nothing is left to take. -/
def State.live (s : State) : Prop := s.resetAsserted = false ∧ s.inboxEmpty

/-- A sweep that visits a cell takes a command of this kind from it: the run state is RUNNING, the cell is not in the in-work set, and its state field reads READY (R172, R175). -/
def State.commandReady (s : State) (c : CellId) (kind : Byte) : Prop :=
  s.live ∧ s.runState = .running ∧ s.xm.entry c = none ∧ s.xm.mem.read (64 * c.1 + 2) = 1 ∧
    s.xm.mem.read (64 * c.1 + 3) = kind

/-- A parameter byte of a cell, at its offset from byte 12 (10 section 10.8). -/
def State.param (s : State) (c : CellId) (i : Nat) : Byte := s.xm.mem.read (64 * c.1 + 12 + i)

/-- A two-byte parameter of a cell. -/
def State.param16 (s : State) (c : CellId) (i : Nat) : Nat := (s.param c i).toNat + 256 * (s.param c (i + 1)).toNat

/-- The line and the frame of a desk frame command. -/
def deskFrame : Instr → Option (LineId × Frame)
  | .announce _ l len p check => some (l, { kind := 1, len := len, payload := p, check := check })
  | .keys _ l len p check => some (l, { kind := 2, len := len, payload := p, check := check })
  | .motion _ l len p check => some (l, { kind := 3, len := len, payload := p, check := check })
  | .gone _ l len p check => some (l, { kind := 4, len := len, payload := p, check := check })
  | .deskFrameBadKind _ l kind len p check => some (l, { kind := kind, len := len, payload := p, check := check })
  | _ => none

/-- The cell and the kind of a command that a sweep takes from a cell, RESTART apart. -/
def cellRow : Instr → Option (CellId × Byte)
  | .layoutLoad _ c => some (c, 0x01)
  | .deskSet _ c => some (c, 0x02)
  | .focus _ c => some (c, 0x03)
  | .pin _ c => some (c, 0x04)
  | .hotkeysLoad _ c => some (c, 0x05)
  | .leaderSet _ c => some (c, 0x06)
  | .targetSetup _ c => some (c, 0x07)
  | .planSet _ c => some (c, 0x08)
  | .share _ c => some (c, 0x09)
  | .restore _ c => some (c, 0x0A)
  | .wake _ c => some (c, 0x0B)
  | .identReread _ c => some (c, 0x0C)
  | .identServe _ c => some (c, 0x0D)
  | .panelMapLoad _ c => some (c, 0x0E)
  | .indicatorSet _ c => some (c, 0x0F)
  | _ => none

/-- A cell reads DONE with this result and this data. -/
def State.cellDone (s : State) (c : CellId) (r : Result) (data : List Byte) : Prop :=
  s.xm.mem.read (64 * c.1 + 2) = 3 ∧ s.xm.mem.read (64 * c.1 + 4) = r.code ∧
    ∀ i < 52, s.xm.mem.read (64 * c.1 + 12 + i) = data.getD i 0

/-! ## Frames: what a command leaves as it was -/

/-- What the focus controller, and the blocks it asks (the output queues, the placing of the cursor, the composer, the wake operations, the panel's view, the notice writer), never write. -/
def State.outer (s : State) :=
  ((s.pending, s.paces), s.now, s.resetAsserted, s.straps, s.runState, s.desk, s.hot, s.heads, s.idents, s.served, s.setups, s.power,
    s.senseSlot,
    (s.cur.geo, s.cur.settings, s.cur.deskButtons),
    (s.panel.keys, s.panel.inds, s.panel.lit, s.panel.focusDuty, s.panel.idleDuty, s.panel.nextDrive,
      s.panel.phaseStart, s.panel.lastEvent),
    (s.xm.noteEnable, s.xm.sweepPeriod, s.xm.sweepDue, s.xm.sweepState, s.xm.pendingSweep, s.xm.sweepCount,
      s.xm.waiting))

/-- The same without what the desk input unit, the hotkey matcher and a motion write themselves. -/
def State.beyondDesk (s : State) :=
  ((s.pending, s.paces), s.now, s.resetAsserted, s.straps, s.runState, s.heads, s.idents, s.served, s.setups, s.power, s.senseSlot,
    (s.cur.geo, s.cur.settings),
    (s.panel.keys, s.panel.inds, s.panel.lit, s.panel.focusDuty, s.panel.idleDuty, s.panel.nextDrive,
      s.panel.phaseStart, s.panel.lastEvent),
    (s.xm.noteEnable, s.xm.sweepPeriod, s.xm.sweepDue, s.xm.sweepState, s.xm.pendingSweep, s.xm.sweepCount,
      s.xm.waiting))

/-- A queue and its count within their bounds (R17, R19). -/
def TargetLine.bounded (l : TargetLine) : Prop := l.queue.length ≤ 4 ∧ l.collapsed ≤ 255

/-- The fields of a target line that only its own events write. -/
def TargetLine.wire (l : TargetLine) := (l.link, l.onLine, l.inTx)

/-- What work of the focus controller may do to a target line: an output queue takes reports only on an UP line, and a resume signal starts only on a SUSPENDED one. -/
structure LineKept (l l' : TargetLine) : Prop where
  wire : l'.wire = l.wire
  queue : l.link ≠ .up → l'.queue = l.queue ∧ l'.lastSent = l.lastSent
  resume : l.link ≠ .suspended → l.resumeUntil = none → l'.resumeUntil = none
  bounded : l.bounded → l'.bounded

/-- The fields of a screen record that only its placement, its boundary and start-up write. -/
def ScreenRec.timing (r : ScreenRec) := (r.state, r.refresh, r.timingStart, r.boundary)

/-- The plans and loans that only an application writes. -/
def ScreenRec.plans (r : ScreenRec) := (r.active, r.ret, r.loans, r.home)

/-- What work of the focus controller may do to a screen: a plan is applied only on a DISABLED screen. -/
structure ScreenKept (r r' : ScreenRec) : Prop where
  timing : r'.timing = r.timing
  plans : r.state ≠ .disabled → r'.plans = r.plans

/-- `t` is `s` after work of the focus controller and of the blocks it asks: no byte of the staging area or of the images changes, no byte of a cell that is not IN_WORK, and a cell that leaves the in-work set reads DONE. -/
structure Kept (s t : State) : Prop where
  outer : t.outer = s.outer
  screens : ∀ c : ScreenId, ScreenKept s.comp.screens[c.1] t.comp.screens[c.1]
  lines : ∀ k : TargetId, LineKept s.tlines[k.1] t.tlines[k.1]
  canonical : s.memoryCanonical → t.memoryCanonical
  above : ∀ a, 0x0C00 ≤ a → t.xm.mem.read a = s.xm.mem.read a
  cells : ∀ c : CellId, s.xm.entry c = none → ∀ a, 64 * c.1 ≤ a → a < 64 * c.1 + 64 → t.xm.mem.read a = s.xm.mem.read a
  inWork : t.xm.inWork.Sublist s.xm.inWork
  residuals : s.residualsBounded → t.residualsBounded
  done : ∀ c : CellId, s.xm.entry c ≠ none → t.xm.entry c = none → t.xm.mem.read (64 * c.1 + 2) = 3

/-- `t` is `s` after work of the desk input unit, the matcher, a motion, the focus controller and of the blocks it asks: no byte of the staging area or of the images changes, no byte of a cell that is not IN_WORK, and a cell that leaves the in-work set reads DONE. -/
structure DeskKept (s t : State) : Prop where
  beyond : t.beyondDesk = s.beyondDesk
  screens : ∀ c : ScreenId, ScreenKept s.comp.screens[c.1] t.comp.screens[c.1]
  lines : ∀ k : TargetId, LineKept s.tlines[k.1] t.tlines[k.1]
  canonical : s.memoryCanonical → t.memoryCanonical
  above : ∀ a, 0x0C00 ≤ a → t.xm.mem.read a = s.xm.mem.read a
  cells : ∀ c : CellId, s.xm.entry c = none → ∀ a, 64 * c.1 ≤ a → a < 64 * c.1 + 64 → t.xm.mem.read a = s.xm.mem.read a
  inWork : t.xm.inWork.Sublist s.xm.inWork
  residuals : s.residualsBounded → t.residualsBounded
  done : ∀ c : CellId, s.xm.entry c ≠ none → t.xm.entry c = none → t.xm.mem.read (64 * c.1 + 2) = 3

end Sys2Proof.Machine
end

