-- ==== Sys2Proof/Certificates/Slice0/Obligations.lean ====
section
/-! DEFINITION. The statements for the provers. -/

open Sys2Proof Sys2Proof.Machine

/-! ### Steps -/

/-- A step runs the command at the front of the queue on the state with the queue's rest. With no command waiting the part makes one action of its own, the visit of a running sweep or a step of a running restart, and idles when neither runs and while RESET_N is asserted (the model's choice, log 2). -/
def Obligations.StepRunsFrontCommand : Prop :=
  (∀ (c : Instr) (cs : List Instr) (s : State), s.pending = c :: cs → step s = exec c { s with pending := cs }) ∧
  ∀ s : State, s.pending = [] →
    step s = .next (if s.resetAsserted then s else tick s) ∧
    ((∀ c k, s.runState ≠ .restarting c k) → s.xm.sweepState = .idle → step s = .next s)

/-- Every command answers a next state, leaves the queue, and moves the count to its time and never back (log 1). -/
def Obligations.EveryCommandAnswersNext : Prop :=
  ∀ (c : Instr) (s : State), ∃ t, exec c s = .next t ∧ t.pending = s.pending ∧ t.now = max s.now c.time

/-! ### Laws that every step keeps -/

/-- Every step keeps the exchange memory in its canonical form. -/
def Obligations.StepKeepsMemoryCanonical : Prop :=
  ∀ s t : State, s.memoryCanonical → step s = .next t → t.memoryCanonical

/-- Every step keeps each output queue at 4 reports at most and each collapsed count at 255 at most. -/
def Obligations.StepKeepsQueuesBounded : Prop :=
  ∀ s t : State, s.queuesBounded → step s = .next t → t.queuesBounded

/-- Every step keeps both gain residuals in −7 to 7. -/
def Obligations.StepKeepsResidualsBounded : Prop :=
  ∀ s t : State, s.residualsBounded → step s = .next t → t.residualsBounded

/-- Every step keeps each head's good count at 8 at most, and at 8 exactly while the head is PRESENT. -/
def Obligations.StepKeepsGoodCounts : Prop :=
  ∀ s t : State, s.goodCounts → step s = .next t → t.goodCounts

/-- Every step keeps the straps legal, the in-work set at one entry per cell, and nothing left for the focus controller to take; and while a restart whose step 4 is done runs, every step keeps each desk line in its reset condition (a condition that ends finds the restart at its end, log 48, the model's choice). -/
def Obligations.StepKeepsBookkeeping : Prop :=
  (∀ s t : State, s.strapsLegal → s.inWorkDistinct → s.inboxEmpty → step s = .next t →
    t.strapsLegal ∧ t.inWorkDistinct ∧ t.inboxEmpty) ∧
  ∀ s t : State, s.restartQuiet → step s = .next t → t.restartQuiet

/-- The state right after reset obeys every law above. -/
def Obligations.ResetStateIsLawful : Prop :=
  State.reset.memoryCanonical ∧ State.reset.queuesBounded ∧ State.reset.residualsBounded ∧ State.reset.goodCounts ∧
    State.reset.strapsLegal ∧ State.reset.inWorkDistinct ∧ State.reset.inboxEmpty ∧ State.reset.restartQuiet

/-! ### The exchange memory: takes, completions and mirrors -/

/-- A take writes IN_WORK and the sweep number into its cell, adds the cell with its tag and kind to the in-work set, and changes nothing else. -/
def Obligations.TakeMarksCell : Prop :=
  ∀ (c : CellId) (s : State),
    let t := take c s
    let b := 64 * c.1
    t.xm.mem.read (b + 2) = 2 ∧ t.xm.mem.word (b + 6) = s.xm.sweepCount ∧
    (∀ a, a ≠ b + 2 → a ≠ b + 6 → a ≠ b + 7 → t.xm.mem.read a = s.xm.mem.read a) ∧
    t.xm.inWork = s.xm.inWork ++ [{ cell := c, tag := s.xm.mem.word b, kind := s.xm.mem.read (b + 3) }] ∧
    t = { s with xm := { s.xm with mem := t.xm.mem, inWork := t.xm.inWork } }

/-- A completion writes its whole cell but for the sweep number's bytes 6 and 7, which it leaves as they stand (log 44, the model's choice), removes the cell from the in-work set, counts, sets the CELLS byte, and changes nothing else; a cell that is not in the in-work set is not written (R173). -/
def Obligations.CompletionWritesCell : Prop :=
  (∀ (c : CellId) (r : Result) (data : List Byte) (s : State) (e : InWork),
    s.xm.entry c = some e → data.length ≤ 52 →
    let t := complete c r data s
    let b := 64 * c.1
    t.xm.completionNo = s.xm.completionNo + 1 ∧
    t.xm.mem.word b = e.tag ∧ t.xm.mem.read (b + 2) = 3 ∧ t.xm.mem.read (b + 3) = e.kind ∧
    t.xm.mem.read (b + 4) = r.code ∧ (t.xm.mem.read (b + 5)).toNat = data.length ∧
    (∀ i < 4, t.xm.mem.read (b + 8 + i) = t.xm.completionNo.extractLsb' (8 * i) 8) ∧
    (∀ i < 52, t.xm.mem.read (b + 12 + i) = data.getD i 0) ∧
    t.xm.mem.read 0x0415 = 1 ∧
    (∀ a, a < b ∨ a = b + 6 ∨ a = b + 7 ∨ b + 64 ≤ a → a ≠ 0x0415 → t.xm.mem.read a = s.xm.mem.read a) ∧
    t.xm.entry c = none ∧ (∀ d, d ≠ c → t.xm.entry d = s.xm.entry d) ∧
    t = { s with xm := { s.xm with mem := t.xm.mem, completionNo := t.xm.completionNo, inWork := t.xm.inWork } }) ∧
  ∀ (c : CellId) (r : Result) (data : List Byte) (s : State), s.xm.entry c = none → complete c r data s = s

/-- A rewrite of a mirror writes its revision count, one higher, and every byte of it, and changes nothing else; a notice sets the group's summary byte as well. A rewrite that one owner of a TARGET or SCREEN mirror calls for takes that owner's fields as they stand, and those of the other owners as they last gave them. The count written is the one the model keeps beside the memory (log 30, the model's choice). The fields of each mirror stand in their layout from byte 2 on, with zeros for an absent plan (log 19) and states coded in the order of their records (log 20). -/
def Obligations.MirrorRewrittenWhole : Prop :=
  (∀ (m : Mirror) (s : State),
    (let t := rewriteMirror m s
     t.xm.mem.word m.base = s.xm.revision[m.index.1] + 1 ∧ t.xm.revision[m.index.1] = s.xm.revision[m.index.1] + 1 ∧
     (∀ i, 2 ≤ i → i < m.size → t.xm.mem.read (m.base + i) = (mirrorFields s m).getD (i - 2) 0) ∧
     (∀ a, a < m.base ∨ m.base + m.size ≤ a → t.xm.mem.read a = s.xm.mem.read a) ∧
     (∀ j : Fin 22, j ≠ m.index → t.xm.revision[j.1] = s.xm.revision[j.1]) ∧
     t = { s with xm := { s.xm with mem := t.xm.mem, revision := t.xm.revision } }) ∧
    (let t := rewriteMirror m s
     let u := notice m s
     u.xm.mem.read (0x0400 + m.index.1) = 1 ∧
     (∀ a, a ≠ 0x0400 + m.index.1 → u.xm.mem.read a = t.xm.mem.read a) ∧
     u = { t with xm := { t.xm with mem := u.xm.mem } })) ∧
  (∀ (p : Share) (s : State),
    rewriteOf p s = rewriteMirror p.mirror (give p s) ∧ noticeOf p s = notice p.mirror (give p s) ∧
    (let live := s.gives
     give p s = { s with xm := { s.xm with given :=
       match p with
       | .line k => { s.xm.given with lines := s.xm.given.lines.set k.1 live.lines[k.1] }
       | .power k => { s.xm.given with powers := s.xm.given.powers.set k.1 live.powers[k.1] }
       | .signal h => { s.xm.given with signals := s.xm.given.signals.set h.1 live.signals[h.1] }
       | .served h => { s.xm.given with served := s.xm.given.served.set h.1 live.served[h.1] }
       | .plans sc => { s.xm.given with plans := s.xm.given.plans.set sc.1 live.plans[sc.1] }
       | .ident sc => { s.xm.given with idents := s.xm.given.idents.set sc.1 live.idents[sc.1] } } }) ∧
    p.mirror =
      match p with
      | .line k | .power k => .target k
      | .signal h | .served h => .target (headTarget h)
      | .plans sc | .ident sc => .screen sc) ∧
  (∀ s : State,
    let live := s.gives
    (∀ k : TargetId,
      let l := s.tlines[k.1]
      let w := s.wakes[k.1]
      live.lines[k.1] = { link := l.link, collapsed := l.collapsed, driving := l.resumeUntil.isSome } ∧
      live.powers[k.1] =
        { power := s.power[k.1].state, sample := s.power[k.1].sample, wake := w.state, attempts := w.attempts,
          method := w.method, joined := w.joined.length }) ∧
    (∀ h : HeadId,
      let r := s.heads[h.1]
      let v := s.served[h.1]
      live.signals[h.1] = { presence := r.presence, good := r.good, rate := r.rate, lastPeriod := r.lastPeriod } ∧
      live.served[h.1] =
        { state := v.state, source := v.source, follow := v.follow, hotplug := v.hotplug, pending := v.pending.isSome }) ∧
    ∀ sc : ScreenId,
      let r := s.comp.screens[sc.1]
      let i := s.idents[sc.1]
      live.plans[sc.1] =
        { state := r.state, active := r.active, conditions := Vector.ofFn (s.tileCond sc),
          staged := r.staged.map fun g => { plan := g.plan, purpose := g.purpose, home := g.home },
          ret := r.ret, loans := r.loans, home := r.home } ∧
      live.idents[sc.1] = { state := i.state, held := i.held, attempts := i.attempts, presence := i.presence }) ∧
  ∀ s : State,
    let g := s.xm.given
    (let f := s.focus
     mirrorFields s .focus =
       [match f.st with
          | .nobody => 0
          | .focused _ => 1
          | .pending _ => 2,
        optByte f.st.target, optByte f.previous, causeCode f.cause, boolByte f.pin, focusSourceCode f.source] ++
         le16 f.count) ∧
    (let c := s.cur.cursor
     mirrorFields s .cursor =
       le16n c.x ++ le16n c.y ++
         [optByte c.screen, byte c.tile.1,
          match c.dwell with
            | .clear => 0
            | .holding _ => 1
            | .ready _ => 2,
          match c.dwell with
            | .clear => 0xFF
            | .holding h | .ready h => byte h.dest.1]) ∧
    (∀ k : TargetId,
      let l := g.lines[k.1]
      let p := g.powers[k.1]
      let head (h : HeadId) : List Byte :=
        let r := g.signals[h.1]
        let v := g.served[h.1]
        [r.presence.code, byte r.good] ++ le16n r.rate ++ le32 (BitVec.ofNat 32 r.lastPeriod) ++
          [v.state.code, v.source.kind, v.source.screenByte, boolByte v.follow, boolByte v.hotplug,
            boolByte v.pending, 0, 0]
      mirrorFields s (.target k) =
        [l.link.code, byte l.collapsed, boolByte l.driving, p.power.code] ++ le16n p.sample ++
          [p.wake.code, byte p.attempts, methodCode p.method, byte p.joined] ++ head (headAOf k) ++ head (headBOf k)) ∧
    (∀ sc : ScreenId,
      let r := g.plans[sc.1]
      let i := g.idents[sc.1]
      let absent : List Byte := [0, 0, 0, 0, 0]
      mirrorFields s (.screen sc) =
        [r.state.code] ++ r.active.bytes ++ (ids 4).map (fun j => r.conditions[j.1].code) ++
          (match r.staged with
            | some q => [1, q.purpose.code, boolByte q.home] ++ q.plan.bytes
            | none => [0, 0, 0] ++ absent) ++
          (match r.ret with
            | some p => [1] ++ p.bytes
            | none => [0] ++ absent) ++
          [byte r.loans.length] ++
          padTo 12 (r.loans.flatMap fun l => [byte l.tile.1, l.kind.code, byte l.lender.1]) ++ r.home.bytes ++
          [i.state.code, boolByte i.held, byte i.attempts, boolByte i.presence]) ∧
    (∀ l : LineId, mirrorFields s (.line l) = [s.desk.lines[l.1].cls.code, byte s.desk.lines[l.1].bad]) ∧
    mirrorFields s .hotkey = [optByte s.hot.lastFired, 0] ++ s.hot.table.toList.flatMap (fun e => le16 e.fires) ∧
    mirrorFields s .panel =
      (match s.panel.lastEvent with
        | none => [0xFF, 0]
        | some (p, release) => [byte p.1, boolByte release]) ++
      (ids 24).flatMap (fun p =>
        let k := s.panel.keys[p.1]
        let d := s.panel.inds[p.1]
        [k.state.code, k.events, d.source.code, d.operand, byte d.intensity, d.pattern.code, boolByte d.hostLevel,
          boolByte (d.condition s.panel.view)]) ∧
    [Link.down, .up, .suspended].map Link.code = [0, 1, 2] ∧
    [LineClass.silent, .keyboard, .pointer].map LineClass.code = [0, 1, 2] ∧
    [Presence.absent, .acquiring, .present, .unstable].map Presence.code = [0, 1, 2, 3] ∧
    [WakeState.idle, .signalling, .delaying, .pulsing, .watching].map WakeState.code = [0, 1, 2, 3, 4] ∧
    [Power.unknown, .off, .asleep, .on].map Power.code = [0, 1, 2, 3] ∧
    [TileCond.dark, .inert, .excluded, .live].map TileCond.code = [0, 1, 2, 3] ∧
    [ScreenState.unfitted, .disabled, .running].map ScreenState.code = [0, 1, 2] ∧
    [IdentState.noScreen, .reading, .valid, .invalid].map IdentState.code = [0, 1, 2, 3] ∧
    [ServedState.silent, .serving, .replacing, .announcing].map ServedState.code = [0, 1, 2, 3] ∧
    [KeyState.up, .down, .held].map KeyState.code = [0, 1, 2] ∧
    [none, some Cause.waking, some .bringing, some .lost].map causeCode = [0, 1, 2, 3]

/-! ### Desk input lines -/

/-- A frame is refused exactly when its bytes do not sum to 0 modulo 256, its kind is none of the four, its length does not fit its kind or its payload, its payload does not fit its kind, or its line's class does not take its kind (01 section 1.1.1). -/
def Obligations.FrameRefusedExactly : Prop :=
  ∀ (f : Frame) (cls : LineClass),
    f.accepted cls = none ↔
      (f.kind.toNat + f.len.toNat + (f.payload.map BitVec.toNat).sum + f.check.toNat) % 256 ≠ 0 ∨
      (f.kind ≠ 1 ∧ f.kind ≠ 2 ∧ f.kind ≠ 3 ∧ f.kind ≠ 4) ∨
      (f.kind = 1 ∧ f.len ≠ 1) ∨ (f.kind = 2 ∧ (f.len = 0 ∨ 7 < f.len.toNat)) ∨ (f.kind = 3 ∧ f.len ≠ 6) ∨
      (f.kind = 4 ∧ f.len ≠ 0) ∨
      f.len.toNat ≠ f.payload.length ∨
      (f.kind = 1 ∧ at8 f.payload 0 ≠ 1 ∧ at8 f.payload 0 ≠ 2) ∨
      (f.kind = 2 ∧ ((0 ∈ f.payload.tail ∧ f.payload.tail ≠ [0]) ∨ ¬ f.payload.tail.Nodup)) ∨
      (f.kind = 3 ∧
        (signed16 f.payload 1 < -2048 ∨ 2047 < signed16 f.payload 1 ∨ signed16 f.payload 3 < -2048 ∨
          2047 < signed16 f.payload 3 ∨ (at8 f.payload 5).toInt < -8 ∨ 7 < (at8 f.payload 5).toInt ∨
          32 ≤ (at8 f.payload 0).toNat)) ∨
      (cls = .silent ∧ f.kind ≠ 1) ∨ (cls = .keyboard ∧ f.kind = 3) ∨ (cls = .pointer ∧ f.kind = 2)

/-- A refused frame of any kind counts on its line, up to 255, rewrites the LINE mirror with its notice when the count changes, and changes nothing else; while the line's reset condition is driven, and before the memory clear is done (log 8), a frame is lost and not counted. -/
def Obligations.RefusedFrameIsCounted : Prop :=
  ∀ (i : Instr) (l : LineId) (f : Frame) (s : State),
    deskFrame i = some (l, f) → s.live →
    let u := s.advance i.time
    let n := s.desk.lines[l.1].bad
    (s.runState ≠ .starting → s.desk.lines[l.1].resetUntil = none → f.accepted s.desk.lines[l.1].cls = none →
      exec i s = .next (if n < 255 then notice (.line l) (modDeskLine l (fun r => { r with bad := n + 1 }) u) else u)) ∧
    (s.runState = .starting ∨ s.desk.lines[l.1].resetUntil ≠ none → exec i s = .next u)

/-- An accepted ANNOUNCE gives the line the class it names with nothing held, and an accepted GONE returns it to SILENT; the line's keys or buttons are released first: a change of the desk key state goes through the masked key set, the hotkey matcher and the focus controller, and a change of the merged buttons goes to the cursor engine as a motion that moves nothing. On a SILENT line an ANNOUNCE does this and its notice alone. -/
def Obligations.AnnounceAndGoneSetClass : Prop :=
  ∀ (t : Nat) (l : LineId) (len check : Byte) (p : List Byte) (s : State),
    s.live → s.runState ≠ .starting → s.desk.lines[l.1].resetUntil = none →
    let r := s.desk.lines[l.1]
    let becomes (cls : LineClass) : DeskLine :=
      { r with cls := cls, lastKeys := Keys.empty, rollover := false, buttons := 0 }
    let released : DeskInput := { s.desk with lines := upd s.desk.lines l fun _ => becomes r.cls }
    let on (d : DeskInput) : State := { s.advance t with desk := d }
    let keyless : DeskInput := { s.desk with
      lines := upd s.desk.lines l fun r => { r with lastKeys := Keys.empty, rollover := false } }
    let keysOff : State :=
      let new := keyless.union
      if keyless.holding = true ∨ new = s.desk.keys then on keyless
      else
        let v := on { keyless with keys := new }
        let masked : Keys :=
          { mods := s.focus.masked.mods &&& new.mods
            codes := s.focus.masked.codes.filter fun c => new.codes.contains c }
        settle (takeKeyChange s.desk.keys new (takePair s.desk.keys new { v with focus := { s.focus with masked := masked } }))
    let buttonless : DeskInput := { s.desk with lines := upd s.desk.lines l fun r => { r with buttons := 0 } }
    let buttonsOff : State :=
      let v := on { buttonless with merged := buttonless.buttonUnion }
      if buttonless.buttonUnion = s.desk.merged then v
      else motion { dx := 0, dy := 0, wheel := 0, merged := buttonless.buttonUnion } v
    let off : State :=
      match r.cls with
      | .silent => s.advance t
      | .keyboard => keysOff
      | .pointer => buttonsOff
    let sets (c : Instr) (cls : LineClass) : Prop :=
      ∃ u, exec c s = .next u ∧ DeskKept (s.advance t) u ∧
        u = settle (notice (.line l) (modDeskLine l (fun q => { q with
          cls := cls, lastKeys := Keys.empty, rollover := false, buttons := 0 }) off)) ∧
        u.desk.lines[l.1] = becomes cls ∧ (∀ j : LineId, j ≠ l → u.desk.lines[j.1] = s.desk.lines[j.1]) ∧
        u.desk.keys = (if r.cls = .keyboard ∧ released.holding = false then released.union else s.desk.keys) ∧
        u.desk.merged = (if r.cls = .pointer then released.buttonUnion else s.desk.merged)
    (({ kind := 1, len := len, payload := p, check := check } : Frame).accepted r.cls = some .announce →
      let cls : LineClass := if at8 p 0 = 1 then .keyboard else .pointer
      sets (.announce t l len p check) cls ∧
      (r.cls = .silent →
        exec (.announce t l len p check) s =
          .next (notice (.line l) (modDeskLine l (fun _ => becomes cls) (s.advance t))))) ∧
    (({ kind := 4, len := len, payload := p, check := check } : Frame).accepted r.cls = some .gone →
      sets (.gone t l len p check) .silent)

/-- An accepted KEYS frame replaces the line's last key state whole, and the desk key state becomes the union unless the unit is holding. A change of the desk key state drops from the masked key set what is no longer held, goes to the hotkey matcher and then to the focus controller. The matcher takes a leader tap, or fires at most one entry: chords in IDLE and, once IDLE, in LEADER_ONE; leader entries first in ARMED. An entry that fires masks its key, counts with the HOTKEY notice, and hands its action on. The focused target is handed the desk keys less the masked ones; while focus is lost on a sleeping target, a key pressed asks for its wake. -/
def Obligations.KeysFrameReplacesKeyState : Prop :=
  (∀ (t : Nat) (l : LineId) (len check : Byte) (p : List Byte) (s : State),
    s.live → s.runState ≠ .starting → s.desk.lines[l.1].resetUntil = none →
    ({ kind := 2, len := len, payload := p, check := check } : Frame).accepted s.desk.lines[l.1].cls = some .keys →
    let rolled : Bool := decide (p.tail = [0])
    let r' : DeskLine := { s.desk.lines[l.1] with
      lastKeys := { mods := at8 p 0, codes := if rolled then [] else p.tail }, rollover := rolled }
    let taken : DeskInput := { s.desk with lines := upd s.desk.lines l fun _ => r' }
    let desk : DeskInput := { taken with keys := if taken.holding then s.desk.keys else taken.union }
    ∃ u, exec (.keys t l len p check) s = .next u ∧ DeskKept (s.advance t) u ∧ u.desk = desk ∧
      (desk.keys = s.desk.keys → u = { s.advance t with desk := desk }) ∧
      (desk.keys ≠ s.desk.keys →
        let masked : Keys :=
          { mods := s.focus.masked.mods &&& desk.keys.mods
            codes := s.focus.masked.codes.filter fun c => desk.keys.codes.contains c }
        let v : State := { s.advance t with desk := desk, focus := { s.focus with masked := masked } }
        u = settle (takeKeyChange s.desk.keys desk.keys (takePair s.desk.keys desk.keys v)))) ∧
  (∀ (prev new : Keys) (s : State),
    let r := takePair prev new s
    let joined : List Byte := new.codes.filter fun c => !prev.codes.contains c
    let idle (m : Matcher) : State := { s with hot := { s.hot with state := m } }
    let tap : Prop := s.hot.leaderKey ≠ 0 ∧ joined = [s.hot.leaderKey] ∧ new.codes = [s.hot.leaderKey] ∧ new.mods = 0
    let due : Nat := s.now + 1000 * s.hot.leaderWindow
    let chord (i : Fin 32) (c : Byte) : Prop :=
      let e := s.hot.table[i.1]
      e.enabled = true ∧ e.kind = 0 ∧ e.key = c ∧ e.mods = new.mods
    let leader (i : Fin 32) (c : Byte) : Prop :=
      let e := s.hot.table[i.1]
      e.enabled = true ∧ e.kind = 1 ∧ e.key = c
    let first (m : Fin 32 → Byte → Prop) (i : Fin 32) : Prop :=
      ∃ before c after, joined = before ++ c :: after ∧ m i c ∧ (∀ d ∈ before, ∀ j, ¬m j d) ∧ ∀ j < i, ¬m j c
    let tested (v : State) : Prop :=
      (∀ i, first chord i → r = fire i v) ∧ ((∀ i, ∀ c ∈ joined, ¬chord i c) → r = v)
    (joined = [] → r = s) ∧
    (joined ≠ [] →
      (s.hot.state = .idle → (tap → r = idle (.leaderOne due)) ∧ (¬tap → tested s)) ∧
      (∀ d, s.hot.state = .leaderOne d →
        (tap → r = { maskKey s.hot.leaderKey s with hot := { s.hot with state := .armed due } }) ∧
        (¬tap → tested (idle .idle))) ∧
      ∀ d, s.hot.state = .armed d →
        (∀ i, first leader i → r = fire i s) ∧ ((∀ i, ∀ c ∈ joined, ¬leader i c) → tested (idle .idle)))) ∧
  (∀ (k : Byte) (s : State),
    maskKey k s = { s with focus := { s.focus with masked := { s.focus.masked with
      codes := if k ∈ s.focus.masked.codes then s.focus.masked.codes else s.focus.masked.codes ++ [k] } } }) ∧
  (∀ (i : Fin 32) (s : State),
    let e := s.hot.table[i.1]
    let v := notice .hotkey { maskKey e.key s with hot := { s.hot with
      state := .idle, table := upd s.hot.table i (fun e => { e with fires := e.fires + 1 }), lastFired := some i } }
    let asks (r : FocusReq) : State := settle (post (.request .hotkey r) v)
    (∀ k : TargetId, e.action = 1 → e.ops.target.toNat = k.1 → fire i s = asks (.target k)) ∧
    (e.action = 2 → fire i s = asks .next) ∧ (e.action = 3 → fire i s = asks .prev) ∧
    (e.action = 4 → fire i s = asks .toggle) ∧
    (e.action = 5 → fire i s = settle (shareRequest e.ops v)) ∧
    (e.action = 6 → fire i s = settle (restoreRequest e.ops v)) ∧
    (e.action = 7 → fire i s = settle (wakeRequest e.ops v)) ∧
    (e.action = 8 → fire i s = focusToPanel (notice .focus { v with focus := { v.focus with pin := !s.focus.pin } })) ∧
    (e.action = 9 → fire i s = v)) ∧
  ∀ (prev new : Keys) (s : State),
    (s.focus.st = .nobody → takeKeyChange prev new s = s) ∧
    (∀ k, s.focus.st = .focused k →
      takeKeyChange prev new s =
        handIn k (.keys
          { mods := s.desk.keys.mods &&& ~~~s.focus.masked.mods
            codes := s.desk.keys.codes.filter fun c => !s.focus.masked.codes.contains c }) .focus s) ∧
    ∀ k, s.focus.st = .pending k →
      let pressed : Prop := (∃ c ∈ new.codes, c ∉ prev.codes) ∨ new.mods &&& ~~~prev.mods ≠ 0
      let asks : Prop := s.focus.wakeOut = false ∧ s.focus.bringOut = none ∧ s.focus.view[k.1].power = .asleep ∧
        s.wakes[k.1].state = .idle
      (pressed → asks →
        takeKeyChange prev new s =
          settle (requestWake k .focus
            (focusToPanel (notice .focus { s with focus := { s.focus with wakeOut := true } })))) ∧
      (s.inboxEmpty → ¬pressed ∨ ¬asks → takeKeyChange prev new s = s)

/-- The union of the key states of the KEYBOARD lines: every modifier and every code of a KEYBOARD line and no other; the codes stand in the order of the lines, DIN0 first, each line's in its own order, and each once, where it comes first; the unit is holding when a KEYBOARD line holds the ROLLOVER marker or the union has more than 6 codes. -/
def Obligations.DeskKeyUnionIsExact : Prop :=
  ∀ d : DeskInput,
    let keyboards : List LineId := (ids 4).filter fun l => decide (d.lines[l.1].cls = .keyboard)
    d.union.codes = (keyboards.flatMap fun l => d.lines[l.1].lastKeys.codes).eraseDups ∧
    (∀ c : Byte, c ∈ d.union.codes ↔ ∃ l : LineId, d.lines[l.1].cls = .keyboard ∧ c ∈ d.lines[l.1].lastKeys.codes) ∧
    d.union.codes.Nodup ∧
    (∀ i : Fin 8, d.union.mods.getLsbD i.1 = true ↔
      ∃ l : LineId, d.lines[l.1].cls = .keyboard ∧ d.lines[l.1].lastKeys.mods.getLsbD i.1 = true) ∧
    (d.holding = true ↔
      (∃ l : LineId, d.lines[l.1].cls = .keyboard ∧ d.lines[l.1].rollover = true) ∨ 6 < d.union.codes.length)

/-- An accepted MOTION frame sets its line's buttons, the merged buttons become the union over the POINTER lines, and the cursor engine takes them as the desk's buttons. The motion is taken in its stages: the gain of both axes, the dwell test, the X step, the Y step from where the X step left, the POINT to the focused target when the point or its buttons changed or the wheel turned, and the cursor mirror when a field of it changed; with no current screen the gain alone. A motion that is input asks at its end for the wake of a sleeping target that focus is lost on (log 17). A POINT carries the cursor's point mapped through the current tile and the head that it shows. -/
def Obligations.MotionFrameMergesButtons : Prop :=
  (∀ (t : Nat) (l : LineId) (len check : Byte) (p : List Byte) (s : State),
    s.live → s.runState ≠ .starting → s.desk.lines[l.1].resetUntil = none →
    ({ kind := 3, len := len, payload := p, check := check } : Frame).accepted s.desk.lines[l.1].cls = some .motion →
    ∃ u, exec (.motion t l len p check) s = .next u ∧ DeskKept (s.advance t) u ∧
      u.desk.lines = upd s.desk.lines l (fun r => { r with buttons := (at8 p 0).setWidth 5 }) ∧
      (∀ b : Fin 5, u.desk.merged.getLsbD b.1 = true ↔
        ∃ j : LineId, u.desk.lines[j.1].cls = .pointer ∧ u.desk.lines[j.1].buttons.getLsbD b.1 = true) ∧
      u.desk.keys = s.desk.keys ∧ u.hot = s.hot ∧ u.cur.deskButtons = u.desk.merged ∧
      u = settle (motion
        { dx := signed16 p 1, dy := signed16 p 3, wheel := (at8 p 5).toInt, merged := u.desk.merged }
        { s.advance t with desk := u.desk })) ∧
  (∀ (m : MotionIn) (s : State),
    let c := s.cur.cursor
    let gx := gain m.dx s.cur.settings.gain c.rx
    let gy := gain m.dy s.cur.settings.gain c.ry
    let pushed (h : Hold) : Prop :=
      let move := if h.axis = .x then gx.1 else gy.1
      if h.positive then 0 < move else move < 0
    ∀ d : Dwell,
      (c.screen = none → d = c.dwell) →
      (c.screen ≠ none →
        (c.dwell = .clear → d = .clear) ∧
        ∀ h, c.dwell = .holding h ∨ c.dwell = .ready h → (pushed h → d = c.dwell) ∧ (¬pushed h → d = .clear)) →
      let gained : State := { s with cur := { s.cur with
        deskButtons := m.merged, cursor := { c with rx := gx.2, ry := gy.2, dwell := d } } }
      let stepped := stepAxis .y gy.1 (stepAxis .x gx.1 gained)
      let point (v : State) : State := if cursorFields c = cursorFields v.cur.cursor then v else rewriteMirror .cursor v
      let input : Prop := m.dx ≠ 0 ∨ m.dy ≠ 0 ∨ m.wheel ≠ 0 ∨ m.merged &&& ~~~s.cur.deskButtons ≠ 0
      let done (v : State) : Prop :=
        (input → motion m s = settle (wakeOnInput v)) ∧ (¬input → motion m s = v)
      (c.screen = none → done gained) ∧
      (c.screen ≠ none →
        ((∀ k, stepped.focus.st ≠ .focused k) → done (point stepped)) ∧
        ∀ k, stepped.focus.st = .focused k →
          let changed : Prop := c.x ≠ stepped.cur.cursor.x ∨ c.y ≠ stepped.cur.cursor.y ∨
            m.merged ≠ stepped.cur.lastButtons[k.1] ∨ m.wheel ≠ 0
          (changed → done (point (buildPoint k m.wheel stepped))) ∧ (¬changed → done (point stepped)))) ∧
  (∀ (a : Axis) (s : State), stepAxis a 0 s = s) ∧
  (∀ s : State,
    let asks (k : TargetId) : Prop := s.focus.st = .pending k ∧ s.focus.wakeOut = false ∧ s.focus.bringOut = none ∧
      s.focus.view[k.1].power = .asleep ∧ s.wakes[k.1].state = .idle
    (∀ k, asks k →
      wakeOnInput s = requestWake k .focus (focusToPanel (notice .focus { s with focus := { s.focus with wakeOut := true } }))) ∧
    ((∀ k, ¬asks k) → wakeOnInput s = s)) ∧
  (∀ s : State,
    let c := s.cur.cursor
    (∀ sc a h, c.screen = some sc → s.tileRect sc c.tile = some a → s.tileSource sc c.tile = some h →
      s.mapCursor = some (mapPoint a s.setups[(headTarget h).1] (decide (h.1 % 2 = 1)) c.x c.y)) ∧
    ((∀ sc, c.screen = some sc → s.tileRect sc c.tile = none ∨ s.tileSource sc c.tile = none) → s.mapCursor = none)) ∧
  ∀ (k : TargetId) (w : Int) (s : State),
    (s.mapCursor = none → buildPoint k w s = s) ∧
    ∀ x y, s.mapCursor = some (x, y) →
      let v := handIn k (.point s.cur.deskButtons x y w) .focus s
      buildPoint k w s = { v with cur := { v.cur with
        lastAbs := s.cur.lastAbs.set k.1 (x, y), lastButtons := s.cur.lastButtons.set k.1 s.cur.deskButtons } }

/-! ### Target lines -/

/-- PRESENT rising on the line of a fitted target takes it from DOWN to UP; on the line of a target that is not fitted, and on an UP or SUSPENDED one, where it cannot occur, it changes nothing (log 32, the model's choice). -/
def Obligations.PresentRiseBringsLineUp : Prop :=
  ∀ (t : Nat) (k : TargetId) (s : State), s.live →
    (s.fittedTarget k = true → s.tlines[k.1].link = .down →
      ∃ u, exec (.presentRises t k) s = .next u ∧ u = settle (setLink k .up (s.advance t)) ∧ u.tlines[k.1].link = .up ∧
        Kept (modTLine k (fun l => { l with link := .up }) (s.advance t)) u) ∧
    (s.fittedTarget k = false ∨ s.tlines[k.1].link ≠ .down → exec (.presentRises t k) s = .next (s.advance t))

/-- A line that leaves UP, by a fall of PRESENT or a SUSPEND indication, has its queue emptied without being counted and both key records set empty; a fall of PRESENT abandons a transmission, and from SUSPENDED it ends the resume signal. Every change of a line state rewrites the TARGET mirror with its notice and goes to the composer and the focus controller, in that order (log 56, the model's choice); leaving SUSPENDED cuts a resume signal short, and a wake operation that is SIGNALLING then watches. On a DOWN line, where PRESENT cannot fall, and for a SUSPEND indication on a line that is not UP, nothing changes (log 32, the model's choice). -/
def Obligations.LeavingUpFlushesQueue : Prop :=
  (∀ (k : TargetId) (new : Link) (s : State),
    let l := s.tlines[k.1]
    let v := modTLine k (fun l => if l.link = .up
      then { l with
        link := new, queue := [], lastSent := Keys.empty, onLine := Keys.empty, inTx := if new = .down then none else l.inTx }
      else { l with link := new, inTx := if new = .down then none else l.inTx }) s
    let stopped := noticeOf (.line k) (modTLine k (fun l => { l with resumeUntil := none }) v)
    let watching := noticeOf (.power k) (modWake k (fun w => { w with
      state := .watching, due := some (s.now + 1000000 * (s.wakePolicy k).window) }) stopped)
    let cut : State :=
      if l.link = .suspended ∧ l.resumeUntil ≠ none then
        if s.wakes[k.1].state = .signalling then watching else stopped
      else v
    (l.link = new → setLink k new s = s) ∧
    (l.link ≠ new →
      setLink k new s = viewReport k (fun w => { w with link := new }) (post (.link k new) (noticeOf (.line k) cut)))) ∧
  ∀ (t : Nat) (k : TargetId) (s : State), s.live → s.fittedTarget k = true →
    exec (.presentFalls t k) s = .next (settle (setLink k .down (s.advance t))) ∧
    (s.tlines[k.1].link = .up →
      exec (.suspendIndication t k) s = .next (settle (setLink k .suspended (s.advance t)))) ∧
    (s.tlines[k.1].link = .up →
      (∃ u, exec (.presentFalls t k) s = .next u ∧ u.tlines[k.1].link = .down ∧ u.tlines[k.1].queue = [] ∧
        u.tlines[k.1].lastSent = Keys.empty ∧ u.tlines[k.1].onLine = Keys.empty ∧ u.tlines[k.1].inTx = none ∧
        Kept (modTLine k (fun l => { l with
          link := .down, queue := [], lastSent := Keys.empty, onLine := Keys.empty, inTx := none }) (s.advance t)) u) ∧
      ∃ u, exec (.suspendIndication t k) s = .next u ∧ u.tlines[k.1].link = .suspended ∧ u.tlines[k.1].queue = [] ∧
        u.tlines[k.1].lastSent = Keys.empty ∧ u.tlines[k.1].onLine = Keys.empty ∧
        u.tlines[k.1].inTx = s.tlines[k.1].inTx ∧
        Kept (modTLine k (fun l => { l with
          link := .suspended, queue := [], lastSent := Keys.empty, onLine := Keys.empty }) (s.advance t)) u) ∧
    (s.tlines[k.1].link = .suspended →
      exec (.suspendIndication t k) s = .next (s.advance t) ∧
      ∃ u, exec (.presentFalls t k) s = .next u ∧ u.tlines[k.1].link = .down ∧ u.tlines[k.1].resumeUntil = none ∧
        Kept (modTLine k (fun l => { l with link := .down, inTx := none }) (s.advance t)) u) ∧
    (s.tlines[k.1].link = .down →
      exec (.suspendIndication t k) s = .next (s.advance t) ∧ exec (.presentFalls t k) s = .next (s.advance t))

/-- A slot start, on a line with no transmission open: an UP line with TAKE sends its oldest entry, a SUSPENDED line with TAKE becomes UP and its resume signal ends, and any other slot changes nothing. The end of a transmission removes the report; a KEYS that completes while the line is UP becomes keys on line. -/
def Obligations.SlotSendsOldestReport : Prop :=
  ∀ (t : Nat) (k : TargetId) (s : State), s.live →
    (∀ take : Bool, s.tlines[k.1].inTx = none →
      (∀ e q, s.fittedTarget k = true → s.tlines[k.1].link = .up → take = true → s.tlines[k.1].queue = e :: q →
        exec (.slotStart t k take) s =
          .next (modTLine k (fun l => { l with queue := q, inTx := some e.report }) (s.advance t))) ∧
      (s.fittedTarget k = true → s.tlines[k.1].link = .suspended → take = true →
        ∃ u, exec (.slotStart t k take) s = .next u ∧ u = settle (setLink k .up (s.advance t)) ∧ u.tlines[k.1].link = .up ∧ u.tlines[k.1].resumeUntil = none ∧
          Kept (modTLine k (fun l => { l with link := .up }) (s.advance t)) u) ∧
      (s.fittedTarget k = false ∨ s.tlines[k.1].link = .down ∨ take = false ∨
          (s.tlines[k.1].link = .up ∧ s.tlines[k.1].queue = []) →
        exec (.slotStart t k take) s = .next (s.advance t))) ∧
    exec (.transmissionComplete t k) s = .next
      (if s.fittedTarget k then
        modTLine k (fun l => { l with
          inTx := none,
          onLine := if l.link = .up then
              match l.inTx with
              | some (.keys keys) => keys
              | _ => l.onLine
            else l.onLine }) (s.advance t)
      else s.advance t)

/-- The resume signal ends at its end time with the TARGET notice; a wake operation that is SIGNALLING then watches for its wake window. -/
def Obligations.ResumeSignalCompletes : Prop :=
  ∀ (t : Nat) (k : TargetId) (d : Nat) (s : State), s.live → s.tlines[k.1].resumeUntil = some d →
    let u := s.advance t
    let stopped := noticeOf (.line k) (modTLine k (fun l => { l with resumeUntil := none }) u)
    (d ≤ u.now → exec (.resumeSignalEnd t k) s = .next
      (if s.wakes[k.1].state = .signalling then
        noticeOf (.power k) (modWake k (fun w => { w with
          state := .watching, due := some (u.now + 1000000 * (s.wakePolicy k).window) }) stopped)
      else stopped)) ∧
    (u.now < d → exec (.resumeSignalEnd t k) s = .next u)

/-- A report handed in for a target: it is discarded unless the line is UP; a KEYS of origin FOCUS equal to last keys sent is discarded; a POINT merges with a last POINT of equal buttons while the wheels add up to −8 to 7; with fewer than 4 reports it joins; and at 4 it takes the place of the latest report of its own kind, a KEYS with none takes the oldest entry's room, a POINT with none is discarded, and the count of collapsed reports goes up to 255. A KEYS that goes through the joining rules becomes last keys sent. A change of the count of collapsed reports rewrites the TARGET mirror with its summary byte, and nothing else is written beside the line's record. -/
def Obligations.ReportJoinsQueue : Prop :=
  ∀ (k : TargetId) (r : Report) (o : Origin) (s : State),
    let l := s.tlines[k.1]
    let u := handIn k r o s
    let l' := u.tlines[k.1]
    let new : Entry := { report := r, origin := o }
    let merges : Prop := ∃ e b x y w x' y' w', l.queue.getLast? = some e ∧ e.report = .point b x y w ∧
      r = .point b x' y' w' ∧ -8 ≤ w + w' ∧ w + w' ≤ 7 ∧
      l'.queue = l.queue.dropLast ++ [{ report := .point b x' y' (w + w'), origin := o }] ∧ l'.collapsed = l.collapsed
    let mergeable : Prop := ∃ e b x y w x' y' w', l.queue.getLast? = some e ∧ e.report = .point b x y w ∧
      r = .point b x' y' w' ∧ -8 ≤ w + w' ∧ w + w' ≤ 7
    (l.link ≠ .up → u = s) ∧
    (∀ keys, r = .keys keys → o = .focus → keys.mods = l.lastSent.mods →
      (∀ c, c ∈ keys.codes ↔ c ∈ l.lastSent.codes) → u = s) ∧
    (l.link = .up →
      (o = .release ∨ ∀ keys, r = .keys keys →
        keys.mods ≠ l.lastSent.mods ∨ ∃ c, ¬(c ∈ keys.codes ↔ c ∈ l.lastSent.codes)) →
      (mergeable → merges) ∧
      (¬mergeable → l.queue.length < 4 → l'.queue = l.queue ++ [new] ∧ l'.collapsed = l.collapsed) ∧
      (¬mergeable → 4 ≤ l.queue.length →
        (∀ before e after, l.queue = before ++ e :: after → e.report.isKeys = r.isKeys →
          (∀ x ∈ after, x.report.isKeys ≠ r.isKeys) → l'.queue = before ++ new :: after) ∧
        ((∀ x ∈ l.queue, x.report.isKeys ≠ r.isKeys) →
          l'.queue = if r.isKeys then l.queue.tail ++ [new] else l.queue) ∧
        l'.collapsed = if l.collapsed < 255 then l.collapsed + 1 else l.collapsed) ∧
      (∀ keys, r = .keys keys → l'.lastSent = keys) ∧
      (∀ b x y w, r = .point b x y w → l'.lastSent = l.lastSent)) ∧
    (let v := modTLine k (fun _ => l') s
     (l'.collapsed = l.collapsed → u = v) ∧ (l'.collapsed ≠ l.collapsed → u = noticeOf (.line k) v)) ∧
    l'.wire = l.wire ∧ l'.resumeUntil = l.resumeUntil ∧ (∀ j : TargetId, j ≠ k → u.tlines[j.1] = s.tlines[j.1]) ∧
    Kept s u

/-! ### The cursor engine -/

/-- The gain: eight times the move and the new residual make d × g + r, the move is truncated toward zero, the residual lies in −7 to 7 with the total's sign or is 0, and the ranges of the total and the move are −65543 to 65511 and −8192 to 8188. -/
def Obligations.GainSplitsTotal : Prop :=
  ∀ (d r : Int) (g : Nat), -2048 ≤ d → d ≤ 2047 → 1 ≤ g → g ≤ 32 → -7 ≤ r → r ≤ 7 →
    let total := d * g + r
    let move := (gain d g r).1
    let residual := (gain d g r).2
    8 * move + residual = total ∧ move = total.tdiv 8 ∧ -7 ≤ residual ∧ residual ≤ 7 ∧
    (0 ≤ total → 0 ≤ residual) ∧ (total ≤ 0 → residual ≤ 0) ∧
    -65543 ≤ total ∧ total ≤ 65511 ∧ -8192 ≤ move ∧ move ≤ 8188

/-- The tiles of each layout kind are the rectangles listed for it, and each point of a screen lies in exactly one of them; no tile of a screen of at least 320 by 200 is smaller than 160 by 100; a tile of a state's screen lies at the screen's place plus its offsets. -/
def Obligations.TilesCoverScreenExactly : Prop :=
  ∀ W H : Nat, 320 ≤ W → 200 ≤ H →
    let wL := W / 2
    let wR := W - W / 2
    let hT := H / 2
    let hB := H - H / 2
    (ids 4).map (tileOf .full W H) = [some ⟨0, 0, W, H⟩, none, none, none] ∧
    (ids 4).map (tileOf .pair W H) = [some ⟨0, 0, wL, H⟩, some ⟨wL, 0, wR, H⟩, none, none] ∧
    (ids 4).map (tileOf .stack W H) = [some ⟨0, 0, W, hT⟩, some ⟨0, hT, W, hB⟩, none, none] ∧
    (ids 4).map (tileOf .quad W H) =
      [some ⟨0, 0, wL, hT⟩, some ⟨wL, 0, wR, hT⟩, some ⟨0, hT, wL, hB⟩, some ⟨wL, hT, wR, hB⟩] ∧
    (ids 4).map (tileOf .trio W H) = [some ⟨0, 0, wL, H⟩, some ⟨wL, 0, wR, hT⟩, some ⟨wL, hT, wR, hB⟩, none] ∧
    (∀ (l : Layout) (x y : Nat), x < W → y < H →
      ∃ i r, tileOf l W H i = some r ∧ r.contains x y = true ∧
        ∀ j q, tileOf l W H j = some q → q.contains x y = true → j = i) ∧
    (∀ (l : Layout) (i : Fin 4) (r : Rect), tileOf l W H i = some r → 160 ≤ r.w ∧ 100 ≤ r.h) ∧
    (∀ (r : Rect) (x y : Nat),
      r.contains x y = true ↔ r.x ≤ x ∧ (x : Int) ≤ r.x + r.w - 1 ∧ r.y ≤ y ∧ (y : Int) ≤ r.y + r.h - 1) ∧
    ∀ (s : State) (sc : ScreenId) (i : Fin 4),
      s.cur.geo[sc.1].w = W → s.cur.geo[sc.1].h = H →
      s.tileRect sc i = (tileOf s.comp.screens[sc.1].active.layout W H i).map fun q =>
        { q with x := s.cur.geo[sc.1].x + q.x, y := s.cur.geo[sc.1].y + q.y }

/-- The mapping of a point of a tile through a fitted head: the formulas of its three steps, with both coordinates in 0 to 32767. -/
def Obligations.MappedPointIsInRange : Prop :=
  ∀ (r : Rect) (q : Setup) (b : Bool) (cx cy : Nat),
    r.contains cx cy = true → (b = true → q.headB = true) →
    0 < q.wA → 0 < q.hA → 0 < q.wB → 0 < q.hB →
    let hw := if b then q.wB else q.wA
    let hh := if b then q.hB else q.hA
    let sw := if !q.headB then q.wA else if q.under then max q.wA q.wB else q.wA + q.wB
    let sh := if !q.headB then q.hA else if q.under then q.hA + q.hB else max q.hA q.hB
    let ox := if b = true ∧ q.under = false then q.wA else 0
    let oy := if b = true ∧ q.under = true then q.hA else 0
    let px := (cx - r.x) * hw / r.w
    let py := (cy - r.y) * hh / r.h
    mapPoint r q b cx cy = ((ox + px) * 32768 / sw, (oy + py) * 32768 / sh) ∧
    px < hw ∧ py < hh ∧ (mapPoint r q b cx cy).1 ≤ 32767 ∧ (mapPoint r q b cx cy).2 ≤ 32767

/-- A step on an axis by a move that is not 0 follows the first of the four tests that fits its candidate: no place, own tile, invited tile, any other tile. A point is located in a tile of an enabled screen that holds it, and in none only where no such tile does. -/
def Obligations.StepFollowsFirstTest : Prop :=
  (∀ (x y : Int) (s : State),
    (∀ sc i, s.locate x y = some (sc, i) →
      s.cur.geo[sc.1].enabled = true ∧ ∃ q, s.tileRect sc i = some q ∧ q.contains x y = true) ∧
    (s.locate x y = none →
      ∀ sc i q, s.cur.geo[sc.1].enabled = true → s.tileRect sc i = some q → q.contains x y = false)) ∧
  ∀ (a : Axis) (m : Int) (s : State), m ≠ 0 →
    let c := s.cur.cursor
    let p : Int × Int := match a with
      | .x => (c.x + m, c.y)
      | .y => (c.x, c.y + m)
    let clamped (d : Dwell) : State := modCursor (fun c =>
      match a, s.currentRect with
      | .x, some r => { c with x := (max (r.x : Int) (min p.1 (r.x + r.w - 1))).toNat, rx := 0, dwell := d }
      | .y, some r => { c with y := (max (r.y : Int) (min p.2 (r.y + r.h - 1))).toNat, ry := 0, dwell := d }
      | .x, none => { c with rx := 0, dwell := d }
      | .y, none => { c with ry := 0, dwell := d }) s
    (∀ r, s.currentRect = some r → 0 < r.w ∧ 0 < r.h) →
    (s.locate p.1 p.2 = none → stepAxis a m s = clamped .clear) ∧
    ∀ sc i, s.locate p.1 p.2 = some (sc, i) →
      let accepted : State :=
        modCursor (fun c => { c with x := p.1.toNat, y := p.2.toNat, screen := some sc, tile := i }) s
      let own : Prop := (c.screen = some sc ∧ c.tile = i) ∨ ∃ t, s.tileTarget sc i = some t ∧ s.focus.st.target = some t
      let invites (t : TargetId) : Prop :=
        s.tileCond sc i = .live ∧ s.tileTarget sc i = some t ∧ s.cur.settings.glide = true ∧ s.focus.pin = false
      (own → stepAxis a m s = accepted) ∧
      (¬own → (∀ t, ¬invites t) → stepAxis a m s = clamped .clear) ∧
      ∀ t, ¬own → invites t →
        let same (h : Hold) : Prop := h.axis = a ∧ (h.positive = true ↔ 0 < m) ∧ h.dest = t
        let hold : Hold :=
          { axis := a, positive := decide (0 < m), dest := t, due := s.now + 1000 * s.cur.settings.dwell }
        (s.cur.settings.dwell = 0 ∨ (∃ h, c.dwell = .ready h ∧ same h) →
          stepAxis a m s = askFocus (.request .glide (.target t)) accepted) ∧
        (0 < s.cur.settings.dwell →
          (∀ h, c.dwell = .holding h → same h → stepAxis a m s = clamped (.holding h)) ∧
          ((∀ h, c.dwell = .holding h ∨ c.dwell = .ready h → ¬same h) → stepAxis a m s = clamped (.holding hold)))

/-- LAYOUT_LOAD: the first failing entry of the range pass, then of the fitting pass, then the first overlapping pair refuses it with no other effect; otherwise the table is the block's, and each fitted screen is RUNNING or DISABLED as its entry says, screen by screen in number order (log 40, the model's choice): its boundary timing starts again where it is RUNNING, a RUNNING screen that becomes DISABLED has its staged plan applied at once, and every other screen keeps its plans, its loans and its staged plan; nothing of the focus record or of a target line changes by this, but that the focus controller is told of each plan so applied; then the residuals are 0 and the dwell CLEAR, the cursor stays where an enabled screen holds its point and is located there, goes to the centre of the lowest-numbered enabled screen where none does, and keeps its point with no current screen where none is enabled; then the focus controller takes the new geometry, the cursor mirror is rewritten, and the command completes OK with the cursor as it then stands. -/
def Obligations.LayoutLoadChecksThenApplies : Prop :=
  ∀ (t : Nat) (c : CellId) (s : State), s.commandReady c 0x01 →
    let u := take c (s.advance t)
    let at8' (i : Fin 6) (j : Nat) : Nat := (s.xm.mem.read (0x0C00 + 10 * i.1 + j)).toNat
    let at16' (i : Fin 6) (j : Nat) : Nat := at8' i j + 256 * at8' i (j + 1)
    let entry (i : Fin 6) : Placement :=
      { enabled := decide (at8' i 0 = 1), x := at16' i 2, y := at16' i 4, w := at16' i 6, h := at16' i 8, refresh := at8' i 1 }
    let outOfRange (i : Fin 6) : Prop :=
      (entry i).w < 320 ∨ 7680 < (entry i).w ∨ (entry i).h < 200 ∨ 4320 < (entry i).h ∨ (entry i).refresh < 24 ∨
        240 < (entry i).refresh ∨ 32768 < (entry i).x + (entry i).w ∨ 32768 < (entry i).y + (entry i).h ∨ 1 < at8' i 0
    let unfitted (i : Fin 6) : Prop := (entry i).enabled = true ∧ s.straps.screens ≤ i.1
    let overlap (i j : Fin 6) : Prop := i < j ∧ (entry i).enabled = true ∧ (entry j).enabled = true ∧
      ∃ x y : Nat, (entry i).rect.contains x y = true ∧ (entry j).rect.contains x y = true
    (∀ i, outOfRange i → (∀ j < i, ¬outOfRange j) →
      exec (.layoutLoad t c) s = .next (complete c .badParam [byte i.1, 0xFF] u)) ∧
    ((∀ i, ¬outOfRange i) →
      (∀ i, unfitted i → (∀ j < i, ¬unfitted j) →
        exec (.layoutLoad t c) s = .next (complete c .notFitted [byte i.1, 0xFF] u)) ∧
      ((∀ i, ¬unfitted i) →
        (∀ i j, overlap i j → (∀ k l, overlap k l → i < k ∨ (i = k ∧ j ≤ l)) →
          exec (.layoutLoad t c) s = .next (complete c .overlap [byte i.1, byte j.1] u)) ∧
        ((∀ i j, ¬overlap i j) →
          ∃ placed w, exec (.layoutLoad t c) s =
              .next (complete c .ok
                (le16n w.cur.cursor.x ++ le16n w.cur.cursor.y ++ [optByte w.cur.cursor.screen, byte w.cur.cursor.tile.1]) w) ∧
            w = rewriteMirror .cursor (settle (post .geometry placed)) ∧
            (let q := placed.cur.cursor
             let inside (sc : ScreenId) : Prop :=
               (entry sc).enabled = true ∧ (entry sc).rect.contains s.cur.cursor.x s.cur.cursor.y = true
             let located (sc : ScreenId) : Prop :=
               q.screen = some sc ∧ ∃ r, placed.tileRect sc q.tile = some r ∧ r.contains q.x q.y = true
             let timed (r : ScreenRec) (sc : ScreenId) : ScreenRec :=
               { r with state := .running, refresh := (entry sc).refresh, timingStart := some u.now, boundary := 1 }
             let stopped (r : ScreenRec) : ScreenRec := { r with state := .disabled, timingStart := none }
             let place (v : State) (sc : ScreenId) : State :=
               match v.comp.screens[sc.1].state, (entry sc).enabled with
               | .unfitted, _ | .disabled, false => v
               | .disabled, true => noticeOf (.plans sc) (modScreen sc (fun r => timed r sc) v)
               | .running, true => modScreen sc (fun r => timed r sc) v
               | .running, false => applyStaged sc true (noticeOf (.plans sc) (modScreen sc stopped v))
             let told := (ids 6).foldl place { u with cur := { u.cur with geo := Vector.ofFn entry } }
             placed = { told with cur := { told.cur with cursor := q } } ∧
             (∀ sc : ScreenId,
               let r := s.comp.screens[sc.1]
               let r' := placed.comp.screens[sc.1]
               (r.state = .unfitted ∨ (r.state = .disabled ∧ (entry sc).enabled = false) → r' = r) ∧
               (r.state ≠ .unfitted → (entry sc).enabled = true → r' = timed r sc) ∧
               (r.state = .running → (entry sc).enabled = false →
                 (r.staged = none → r' = stopped r) ∧
                 ∀ g, r.staged = some g →
                   (∀ d ∈ g.cells, placed.xm.entry d = none) ∧
                   r' = { stopped r with
                     loans := g.loansAfter, ret := if g.loansAfter = [] then none else some (r.ret.getD r.active),
                     active := g.plan, home := if g.home then g.plan else r.home, staged := none })) ∧
             placed.tlines = s.tlines ∧
             (let ends (sc : ScreenId) : Bool :=
                decide (s.comp.screens[sc.1].state = .running) && !(entry sc).enabled &&
                  s.comp.screens[sc.1].staged.isSome
              placed.focus = { s.focus with inbox := ((ids 6).filter ends).map FocusMsg.planInLoad }) ∧
             placed.cur.geo = Vector.ofFn entry ∧ q.rx = 0 ∧ q.ry = 0 ∧ q.dwell = .clear ∧
             (∀ sc, inside sc → q.x = s.cur.cursor.x ∧ q.y = s.cur.cursor.y ∧ located sc) ∧
             ((∀ sc, ¬inside sc) →
               (∀ sc, (entry sc).enabled = true → (∀ j < sc, (entry j).enabled = false) →
                 q.x = (entry sc).x + (entry sc).w / 2 ∧ q.y = (entry sc).y + (entry sc).h / 2 ∧ located sc) ∧
               ((∀ sc, (entry sc).enabled = false) →
                 q.x = s.cur.cursor.x ∧ q.y = s.cur.cursor.y ∧ q.screen = none))) ∧
            w.cur.geo = Vector.ofFn entry ∧
            w.outer = ({ u with cur := { u.cur with geo := Vector.ofFn entry } } : State).outer ∧
            (∀ sc : ScreenId,
              w.comp.screens[sc.1].state =
                if s.comp.screens[sc.1].state = .unfitted then .unfitted
                else if (entry sc).enabled then .running else .disabled) ∧
            (∀ sc : ScreenId, s.comp.screens[sc.1].state ≠ .unfitted → (entry sc).enabled = true →
              w.comp.screens[sc.1].refresh = (entry sc).refresh ∧ w.comp.screens[sc.1].timingStart = some u.now ∧
                w.comp.screens[sc.1].boundary = 1) ∧
            (∀ a, 0x0C00 ≤ a → w.xm.mem.read a = s.xm.mem.read a))))

/-- DESK_SET takes its five settings rounded and limited, hands the two duties to the panel scanner, and completes OK with them; a dwell above 999 or a glide that is neither 0 nor 1 refuses it. -/
def Obligations.DeskSetTakesSettings : Prop :=
  ∀ (t : Nat) (c : CellId) (s : State), s.commandReady c 0x02 →
    let u := take c (s.advance t)
    let g := (s.param c 0).toNat
    let q : Settings :=
      { gain := if g = 0 then 1 else if g ≤ 32 then g else 32,
        dwell := s.param16 c 1 - s.param16 c 1 % 10,
        glide := decide (s.param c 3 = 1),
        focusDuty := if s.param16 c 4 ≤ 255 then s.param16 c 4 else 255,
        idleDuty := if s.param16 c 6 ≤ 255 then s.param16 c 6 else 255 }
    (999 < s.param16 c 1 ∨ (s.param c 3 ≠ 0 ∧ s.param c 3 ≠ 1) →
      exec (.deskSet t c) s = .next (complete c .badParam [] u)) ∧
    (s.param16 c 1 ≤ 999 → (s.param c 3 = 0 ∨ s.param c 3 = 1) →
      exec (.deskSet t c) s =
        .next (complete c .ok ([byte q.gain] ++ le16n q.dwell ++ [s.param c 3, byte q.focusDuty, byte q.idleDuty])
          { u with
            cur := { u.cur with settings := q },
            panel := { u.panel with
              focusDuty := q.focusDuty, idleDuty := q.idleDuty,
              tallies := mapVec u.panel.tallies fun sc c => { c with
                buffered :=
                  if s.straps.screens ≤ sc.1 then 0
                  else
                    match u.panel.view.focus with
                    | .focused k => if u.panel.view.plans[sc.1].shows k then q.focusDuty else q.idleDuty
                    | _ => q.idleDuty } } }))

/-! ### The focus controller -/

/-- A FOCUS command that needs no focus change: a target out of range or not fitted refuses it; NONE while focus is NONE, and the target that is FOCUSED already, complete it OK; the target that is PENDING already makes its cell wait; and with no screen enabled another target is NOT_REACHABLE. -/
def Obligations.FocusCommandWithoutChange : Prop :=
  ∀ (t : Nat) (c : CellId) (s : State), s.commandReady c 0x03 →
    let u := take c (s.advance t)
    let b := s.param c 0
    let standing (target : Byte) (state : Byte) : List Byte := [target, state, 0] ++ le16 s.focus.count
    (8 ≤ b.toNat → b ≠ 0xFF → exec (.focus t c) s = .next (complete c .badParam [] u)) ∧
    (b = 0xFF → s.focus.st = .nobody → exec (.focus t c) s = .next (complete c .ok (standing 0xFF 0) u)) ∧
    ∀ k : TargetId, b.toNat = k.1 →
      (s.straps.targets ≤ k.1 → exec (.focus t c) s = .next (complete c .notFitted [] u)) ∧
      (k.1 < s.straps.targets →
        (s.focus.st = .focused k → exec (.focus t c) s = .next (complete c .ok (standing b 1) u)) ∧
        (s.focus.st = .pending k →
          exec (.focus t c) s = .next { u with focus := { u.focus with waiting := u.focus.waiting ++ [c] } }) ∧
        (s.focus.st.target ≠ some k → (∀ sc : ScreenId, s.cur.geo[sc.1].enabled = false) →
          exec (.focus t c) s = .next (complete c .notReachable [] u)))

/-- A FOCUS command for another target, or for NONE while a target has focus, makes a COMMAND focus change, whose record is that of FocusChangeSetsRecord: the cell waits for the target, or completes OK, after all that the change itself completes and writes (log 51, the model's choice), with the record that the change to NONE leaves; then the focus controller takes what the change makes it hear. -/
def Obligations.FocusCommandChangesFocus : Prop :=
  ∀ (t : Nat) (c : CellId) (s : State), s.commandReady c 0x03 →
    let u := take c (s.advance t)
    let b := s.param c 0
    (∀ k : TargetId, b.toNat = k.1 → k.1 < s.straps.targets → s.focus.st.target ≠ some k →
      (∃ sc : ScreenId, s.cur.geo[sc.1].enabled = true) →
      let w := focusChange .command (some k) .superseded (some c) u
      exec (.focus t c) s = .next (settle w) ∧ w.focus.st.target = some k ∧ w.focus.count = s.focus.count + 1 ∧
        w.focus.source = some .command ∧ w.focus.previous = s.focus.st.target ∧ Kept u w ∧ Kept w (settle w)) ∧
    (b = 0xFF → s.focus.st ≠ .nobody →
      let w := focusChange .command none .superseded none u
      let v := complete c .ok ([0xFF, 0, 0] ++ le16 (s.focus.count + 1)) w
      exec (.focus t c) s = .next (settle v) ∧ w.focus.st = .nobody ∧ w.focus.count = s.focus.count + 1 ∧
        w.focus.source = some .command ∧ w.focus.previous = s.focus.st.target ∧ Kept u w ∧ Kept v (settle v))

/-- Focus. A focus request is dropped when its target is not fitted or has focus already, or no screen is enabled, and otherwise makes a focus change (pin drops none: R66); NEXT and PREV name the fitted target after or before, wrapping, and TOGGLE the previous one. A focus change gives the target left a release pair, masks the desk keys, stills and places the cursor (its mirror follows by log 27), counts, completes the old waiting cells (with the data of log 15), returns the BRING-LOANs of the target left, brings a target that is not shown (by the lowest screen whose staged plan shows it, log 18, or a bring staged on the current screen; logs 15, 18 and 27 are the model's choices), and asks a wake of one that is off, asleep or suspended; it is FOCUSED exactly when it is eligible and shown with no bring outstanding. Becoming FOCUSED places the cursor, masks the desk keys, sends KEYS and POINT and completes the waiting cells OK. A release pair is KEYS with nothing held and then POINT with no buttons at the last absolute point; a placing leaves a cursor that is on a tile of the target, and puts it at the centre of the first tile of head A, else of head B. A target that loses eligibility while FOCUSED is left PENDING with a release pair; one that gains it while PENDING becomes FOCUSED when it can. The answer of a wake makes it FOCUSED, reverts focus to previous, or completes the waiting cells with the wake's result. A report of a plan, a withdrawal or a geometry clears its bring, and makes focus go on with a POINT, become FOCUSED, or REPLAN to the live tile under the cursor; the report of a plan applied in a LAYOUT_LOAD clears its bring alone. -/
def Obligations.FocusChangeSetsRecord : Prop :=
  let focusOut (v : State) : State := focusToPanel (notice .focus v)
  let focusIs (f : Focus) (v : State) : State := { v with focus := f }
  let cause (old : Option Cause) (v : State) : State := if v.focus.cause = old then v else focusOut v
  let can (k : TargetId) (v : State) : Prop := v.focus.eligible k = true ∧ v.focus.bringOut = none ∧ v.shown k = true
  (∀ (src : FocusSource) (b : Option TargetId) (old : Result) (cell : Option CellId) (s : State),
    let u := focusChange src b old cell s
    u.focus.st.target = b ∧ u.focus.count = s.focus.count + 1 ∧ u.focus.source = some src ∧
    u.focus.previous = s.focus.st.target ∧ u.focus.pin = s.focus.pin ∧ u.focus.view = s.focus.view ∧
    u.focus.masked = s.desk.keys ∧
    (b = none → u.focus.waiting = cell.toList ∧ u.focus.wakeOut = false ∧ u.focus.bringOut = none) ∧
    (∀ k, b = some k →
      (u.focus.st = .focused k → s.focus.eligible k = true ∧ u.focus.bringOut = none ∧ u.shown k = true ∧
        u.focus.waiting = [] ∧ u.focus.wakeOut = false) ∧
      (u.focus.st = .pending k →
        (s.focus.eligible k = false ∨ u.focus.bringOut ≠ none ∨ u.shown k = false) ∧ u.focus.waiting = cell.toList)) ∧
    Kept s u) ∧
  (∀ (src : FocusSource) (b : Option TargetId) (old : Result) (cell : Option CellId) (s : State),
    let a := s.focus.st.target
    let released : State := match a with
      | some k => releasePair k s
      | none => s
    let masked := focusIs { released.focus with masked := s.desk.keys, previous := a } released
    let still := modCursor (fun c => { c with rx := 0, ry := 0, dwell := .clear }) masked
    let shown : State :=
      if src = .glide ∨ cursorFields s.cur.cursor = cursorFields still.cur.cursor then still else rewriteMirror .cursor still
    let placed : State := match b with
      | some k => if src = .glide then shown else (placeCursor k shown).2
      | none => shown
    let counted := focusIs { placed.focus with count := s.focus.count + 1, source := some src } placed
    let ended := completeAll s.focus.waiting old focusData counted
    let becomes (st : FocusState) : State :=
      focusIs { ended.focus with waiting := cell.toList, wakeOut := false, bringOut := none, st := st } ended
    let returned (v : State) : State := match a with
      | some k => (ids 6).foldl (returnOn fun l => decide (l.kind = .bring) && decide (headTarget l.lender = k)) v
      | none => v
    (b = none → focusChange src b old cell s = focusOut (returned (becomes .nobody))) ∧
    ∀ k, b = some k →
      let w := wakeForFocus k (bring k (returned (becomes (.pending k))))
      (can k w → focusChange src b old cell s = becomeFocused k (decide (src = .glide)) w) ∧
      (¬can k w → focusChange src b old cell s = focusOut w)) ∧
  (∀ (k : TargetId) (s : State),
    let offers (sc : ScreenId) : Prop := s.cur.geo[sc.1].enabled = true ∧
      ∃ g i, s.comp.screens[sc.1].staged = some g ∧ (g.plan.src[i]'(Fin.isLt (n := 4) i)).map headTarget = some k
    let waitsOn (sc : ScreenId) (v : State) : State := focusIs { v.focus with bringOut := some sc } v
    let plan : Plan := { layout := .full, src := #v[some (headAOf k), none, none, none] }
    (s.shown k = true ↔
      ∃ (sc : ScreenId) (i : Fin 4), s.cur.geo[sc.1].enabled = true ∧ s.tileTarget sc i = some k) ∧
    (s.shown k = true → bring k s = s) ∧
    (s.shown k = false →
      (∀ sc, offers sc → (∀ j < sc, ¬offers j) → bring k s = waitsOn sc s) ∧
      ((∀ sc, ¬offers sc) →
        (∀ sc, s.cur.cursor.screen = some sc →
          bring k s = waitsOn sc (stage sc
            { plan := plan, purpose := .loan, home := false,
              loansAfter := [{ tile := 0, kind := .bring, lender := headAOf k }], cells := [] } s)) ∧
        (s.cur.cursor.screen = none → bring k s = s))) ∧
    let e := s.focus.view[k.1]
    let asks : Prop := s.focus.eligible k = false ∧ (e.power = .off ∨ e.power = .asleep ∨ e.link = .suspended)
    (asks → wakeForFocus k s = requestWake k .focus (focusIs { s.focus with wakeOut := true } s)) ∧
    (¬asks → wakeForFocus k s = s)) ∧
  (∀ (k : TargetId) (s : State),
    let p := s.cur.lastAbs[k.1]
    let tile (h : HeadId) (sc : ScreenId) (i : Fin 4) : Prop :=
      s.cur.geo[sc.1].enabled = true ∧ s.tileSource sc i = some h ∧ s.tileRect sc i ≠ none
    let first (h : HeadId) (sc : ScreenId) (i : Fin 4) : Prop :=
      tile h sc i ∧ ∀ c j, tile h c j → sc < c ∨ (sc = c ∧ i ≤ j)
    let moved (sc : ScreenId) (i : Fin 4) (q : Rect) : State :=
      rewriteMirror .cursor (modCursor (fun c => { c with
        x := q.x + q.w / 2, y := q.y + q.h / 2, rx := 0, ry := 0, screen := some sc, tile := i, dwell := .clear }) s)
    releasePair k s =
      handIn k (.point 0 p.1 p.2 0) .release (handIn k (.keys { mods := 0, codes := [] }) .release s) ∧
    sendKeys k s = handIn k (.keys
      { mods := s.desk.keys.mods &&& ~~~s.focus.masked.mods
        codes := s.desk.keys.codes.filter fun c => !s.focus.masked.codes.contains c }) .focus s ∧
    (s.focus.st = .focused k → requestPoint s = buildPoint k 0 s) ∧
    ((∀ j, s.focus.st ≠ .focused j) → requestPoint s = s) ∧
    focusData s =
      [optByte s.focus.st.target,
        match s.focus.st with
          | .nobody => 0
          | .focused _ => 1
          | .pending _ => 2,
        causeCode s.focus.cause] ++ le16 s.focus.count ∧
    (s.cursorOn k = true ↔ ∃ sc i, s.locate s.cur.cursor.x s.cur.cursor.y = some (sc, i) ∧ s.tileTarget sc i = some k) ∧
    (s.cursorOn k = true → placeCursor k s = (true, s)) ∧
    (s.cursorOn k = false →
      (∀ sc i q, first (headAOf k) sc i → s.tileRect sc i = some q → placeCursor k s = (true, moved sc i q)) ∧
      ((∀ sc i, ¬tile (headAOf k) sc i) →
        (∀ sc i q, first (headBOf k) sc i → s.tileRect sc i = some q → placeCursor k s = (true, moved sc i q)) ∧
        ((∀ sc i, ¬tile (headBOf k) sc i) → placeCursor k s = (false, s))))) ∧
  (∀ (src : FocusSource) (s : State),
    let named (n : Nat) : State → State := fun v =>
      match asFin 8 n with
      | some k => takeFocusMsg (.request src (.target k)) v
      | none => v
    let at' := s.focus.st.target
    (∀ k : TargetId,
      let taken : Prop := k.1 < s.straps.targets ∧ at' ≠ some k ∧ ∃ sc : ScreenId, s.cur.geo[sc.1].enabled = true
      (taken → takeFocusMsg (.request src (.target k)) s = focusChange src (some k) .superseded none s) ∧
      (¬taken → takeFocusMsg (.request src (.target k)) s = s)) ∧
    takeFocusMsg (.request src .next) s =
      named (match at' with
        | none => 0
        | some k => if k.1 + 1 < s.straps.targets then k.1 + 1 else 0) s ∧
    takeFocusMsg (.request src .prev) s =
      named (match at' with
        | none => s.straps.targets - 1
        | some k => if k.1 = 0 then s.straps.targets - 1 else k.1 - 1) s ∧
    (∀ k, s.focus.previous = some k →
      takeFocusMsg (.request src .toggle) s = takeFocusMsg (.request src (.target k)) s) ∧
    (s.focus.previous = none → takeFocusMsg (.request src .toggle) s = s)) ∧
  (∀ (sc : ScreenId) (s : State),
    (s.focus.bringOut = some sc →
      takeFocusMsg (.planInLoad sc) s = cause s.focus.cause (focusIs { s.focus with bringOut := none } s)) ∧
    (s.focus.bringOut ≠ some sc → takeFocusMsg (.planInLoad sc) s = s)) ∧
  (∀ (k : TargetId) (glide : Bool) (s : State),
    let placed := (placeCursor k (focusIs { s.focus with st := .focused k, wakeOut := false } s)).2
    let sent := sendKeys k (focusIs { placed.focus with masked := s.desk.keys } placed)
    let pointed := if glide then sent else requestPoint sent
    let completed := completeAll s.focus.waiting .ok focusData pointed
    becomeFocused k glide s = focusOut (focusIs { completed.focus with waiting := [] } completed)) ∧
  (∀ (k : TargetId) (f : Eligibility → Eligibility) (s : State),
    let r := takeEligibility k f s
    let v := focusIs { s.focus with view := upd s.focus.view k f } s
    let was := s.focus.eligible k
    let is := v.focus.eligible k
    (is = true ↔ (f s.focus.view[k.1]).link = .up ∧ (f s.focus.view[k.1]).power = .on ∧
      (f s.focus.view[k.1]).headA = .present) ∧
    (s.focus.st = .focused k → was = true → is = false →
      let w := releasePair k (focusIs { v.focus with st := .pending k } v)
      r = focusOut (focusIs { w.focus with masked := s.desk.keys } w)) ∧
    (s.focus.st = .pending k → was = false → is = true →
      let w := focusIs { v.focus with wakeOut := false } v
      (can k w → r = becomeFocused k false w) ∧ (¬can k w → r = cause s.focus.cause w)) ∧
    (¬(s.focus.st = .focused k ∧ was = true ∧ is = false) → ¬(s.focus.st = .pending k ∧ was = false ∧ is = true) →
      r = v)) ∧
  (∀ (k : TargetId) (outcome : Result) (s : State),
    let r := takeWakeAnswer k outcome s
    let w := focusIs { s.focus with wakeOut := false } s
    (s.focus.st.target ≠ some k ∨ s.focus.wakeOut = false → r = s) ∧
    (s.focus.st.target = some k → s.focus.wakeOut = true →
      (outcome = .ok → (can k w → r = becomeFocused k false w) ∧ (¬can k w → r = cause s.focus.cause w)) ∧
      (outcome ≠ .ok →
        (∀ p, s.focus.previous = some p → s.focus.eligible p = true → s.shown p = true →
          r = focusChange .revert (some p) .notReachable none s) ∧
        ((∀ p, s.focus.previous = some p → s.focus.eligible p = false ∨ s.shown p = false) →
          let v := completeAll s.focus.waiting outcome focusData w
          r = cause s.focus.cause (focusIs { v.focus with waiting := [] } v))))) ∧
  (∀ (covers : ScreenId → Bool) (s : State),
    let r := takePlanReport covers s
    let w := focusIs { s.focus with bringOut := match s.focus.bringOut with
      | some sc => if covers sc then none else some sc
      | none => none } s
    let replan : Option TargetId := match s.underCursor with
      | some (sc, i) => if s.tileCond sc i = .live then s.tileTarget sc i else none
      | none => none
    (s.focus.st = .nobody → r = w) ∧
    ∀ k, s.focus.st.target = some k →
      (s.shown k = false → w.focus.bringOut = none → r = focusChange .replan replan .superseded none w) ∧
      (s.shown k = false → w.focus.bringOut ≠ none → r = w) ∧
      (s.shown k = true →
        (s.focus.st = .focused k →
          (s.cursorOn k = true → r = w) ∧ (s.cursorOn k = false → r = requestPoint (placeCursor k w).2)) ∧
        (s.focus.st = .pending k → (can k w → r = becomeFocused k false w) ∧ (¬can k w → r = cause s.focus.cause w)))) ∧
  ∀ (k : TargetId) (sc : ScreenId) (l : Link) (p : Power) (h : Presence) (o : Result) (s : State),
    takeFocusMsg (.link k l) s = takeEligibility k (fun e => { e with link := l }) s ∧
    takeFocusMsg (.power k p) s = takeEligibility k (fun e => { e with power := p }) s ∧
    takeFocusMsg (.headA k h) s = takeEligibility k (fun e => { e with headA := h }) s ∧
    takeFocusMsg (.wakeAnswer k o) s = takeWakeAnswer k o s ∧
    takeFocusMsg (.plan sc) s = takePlanReport (fun x => decide (x = sc)) s ∧
    takeFocusMsg (.withdrawn sc) s = takePlanReport (fun x => decide (x = sc)) s ∧
    takeFocusMsg .geometry s = takePlanReport (fun _ => true) s

/-- PIN sets, clears or toggles pin and completes OK with it; a change goes out with the FOCUS notice and to the panel scanner; any other operand refuses it. -/
def Obligations.PinCommandSetsPin : Prop :=
  ∀ (t : Nat) (c : CellId) (s : State), s.commandReady c 0x04 →
    let u := take c (s.advance t)
    let b := s.param c 0
    let v : Bool := if b = 2 then !s.focus.pin else decide (b = 1)
    (2 < b.toNat → exec (.pin t c) s = .next (complete c .badParam [] u)) ∧
    (b.toNat ≤ 2 →
      exec (.pin t c) s = .next (complete c .ok [if v then 1 else 0]
        (if v = s.focus.pin then u
         else focusToPanel (notice .focus { u with focus := { u.focus with pin := v } }))))

/-! ### The hotkey matcher -/

/-- HOTKEYS_LOAD: the first entry that fails the range pass (its enabled byte; and, enabled, its kind, its key, its action, an operand its action uses), then the fitting pass (a target, screen or head that is not fitted), refuses it with no other effect; otherwise the whole table is the block's with every fire count 0, the matcher is IDLE with no last fired entry, the HOTKEY notice is raised, and it completes OK with its counts. -/
def Obligations.HotkeysLoadReplacesTable : Prop :=
  ∀ (t : Nat) (c : CellId) (s : State), s.commandReady c 0x05 →
    let u := take c (s.advance t)
    let taken (i : Fin 32) : HotEntry :=
      let b (j : Nat) : Byte := s.xm.mem.read (0x0E00 + 16 * i.1 + j)
      { enabled := decide (b 0 = 1), kind := b 1, mods := b 2, key := b 3, action := b 4,
        ops := { target := b 5, screen := b 6, tile := b 7, layout := b 8, head := b 9 }, fires := 0 }
    let count (kind : Byte) : Nat := ((ids 32).filter fun i => (taken i).enabled && (taken i).kind == kind).length
    let n (i : Fin 32) (j : Nat) : Nat := (s.xm.mem.read (0x0E00 + 16 * i.1 + j)).toNat
    let names (i : Fin 32) : Prop := n i 4 = 1 ∨ n i 4 = 7
    let tiles (i : Fin 32) : Nat := [1, 2, 2, 4, 3].getD (n i 8) 0
    let outOfRange (i : Fin 32) : Prop :=
      2 ≤ n i 0 ∨ (n i 0 = 1 ∧
        (2 ≤ n i 1 ∨ n i 3 = 0 ∨ n i 4 = 0 ∨ 10 ≤ n i 4 ∨ (names i ∧ 8 ≤ n i 5) ∨ (n i 4 = 6 ∧ 6 ≤ n i 6) ∨
          (n i 4 = 5 ∧ (8 ≤ n i 5 ∨ 6 ≤ n i 6 ∨ 5 ≤ n i 8 ∨ tiles i ≤ n i 7 ∨ 2 ≤ n i 9))))
    let unfitted (i : Fin 32) : Prop :=
      n i 0 = 1 ∧
        ((names i ∧ s.straps.targets ≤ n i 5) ∨ (n i 4 = 6 ∧ s.straps.screens ≤ n i 6) ∨
          (n i 4 = 5 ∧ (s.straps.targets ≤ n i 5 ∨ s.straps.screens ≤ n i 6 ∨
            (n i 9 = 1 ∧ ∃ k : TargetId, n i 5 = k.1 ∧ s.setups[k.1].headB = false))))
    (∀ i, outOfRange i → (∀ j < i, ¬outOfRange j) →
      exec (.hotkeysLoad t c) s = .next (complete c .badParam [byte i.1] u)) ∧
    ((∀ i, ¬outOfRange i) →
      (∀ i, unfitted i → (∀ j < i, ¬unfitted j) →
        exec (.hotkeysLoad t c) s = .next (complete c .notFitted [byte i.1] u)) ∧
      ((∀ i, ¬unfitted i) →
        exec (.hotkeysLoad t c) s = .next (complete c .ok [byte (count 0), byte (count 1)]
          (notice .hotkey { u with hot :=
            { u.hot with table := Vector.ofFn taken, state := .idle, lastFired := none } }))))

/-- LEADER_SET takes its window rounded down to 10 ms and its key, and completes OK with them; a window outside 200 to 2000 refuses it; a key that differs from the old one returns the matcher to IDLE. -/
def Obligations.LeaderSetTakesSettings : Prop :=
  ∀ (t : Nat) (c : CellId) (s : State), s.commandReady c 0x06 →
    let u := take c (s.advance t)
    let key := s.param c 0
    let window := s.param16 c 2 - s.param16 c 2 % 10
    (window < 200 ∨ 2000 < window → exec (.leaderSet t c) s = .next (complete c .badParam [] u)) ∧
    (200 ≤ window → window ≤ 2000 →
      exec (.leaderSet t c) s = .next (complete c .ok ([key] ++ le16n window)
        { u with hot := { u.hot with
          leaderKey := key, leaderWindow := window,
          state := if key = u.hot.leaderKey then u.hot.state else .idle } }))

/-- Three deadlines, which act when they are held and reached and in no other case (log 3): the leader deadline returns the matcher to IDLE; the end of a line reset condition lets the line deliver frames again, and finds a restart whose step 4 is done brought to RUNNING by its remaining steps (log 48, the model's choice); a HOLDING dwell becomes READY with its axis, direction and destination, and the cursor mirror is rewritten. -/
def Obligations.DeskDeadlinesAct : Prop :=
  ∀ (t : Nat) (s : State), s.live →
    let u := s.advance t
    exec (.leaderDeadlineExpiry t) s = .next
      (match s.hot.state with
      | .idle => u
      | .leaderOne d | .armed d => if d ≤ u.now then { u with hot := { s.hot with state := .idle } } else u) ∧
    (∀ l : LineId,
      ((∀ c k, s.runState = .restarting c k → k.1 < 4) →
        exec (.lineResetEnd t l) s = .next
          (match s.desk.lines[l.1].resetUntil with
          | some d => if d ≤ u.now then modDeskLine l (fun r => { r with resetUntil := none }) u else u
          | none => u)) ∧
      ((∀ d, s.desk.lines[l.1].resetUntil = some d → u.now < d) → exec (.lineResetEnd t l) s = .next u) ∧
      ∀ c k d, s.runState = .restarting c k → 4 ≤ k.1 → s.desk.lines[l.1].resetUntil = some d → d ≤ u.now →
        let r := Nat.repeat tick (9 - k.1) u
        exec (.lineResetEnd t l) s = .next (modDeskLine l (fun r => { r with resetUntil := none }) r) ∧
          r.runState = .running ∧ r.desk = s.desk) ∧
    (∀ h, s.cur.cursor.dwell = .holding h → h.due ≤ u.now →
      exec (.dwellDeadlineExpiry t) s =
        .next (rewriteMirror .cursor (modCursor (fun c => { c with dwell := .ready h }) u))) ∧
    ((∀ h, s.cur.cursor.dwell = .holding h → u.now < h.due) → exec (.dwellDeadlineExpiry t) s = .next u)

/-! ### The screen composer -/

/-- A frame boundary. Before it is due, and on a screen that is not RUNNING, nothing changes (log 3). At it the next boundary is counted floor(n × 1,000,000 / refresh) µs after the timing started; with nothing staged the presentation is made and nothing else; a staged plan becomes the active plan with its loans after, the return plan and the home plan follow, the presentation is made for it, its cells complete OK, the SCREEN notice is raised, and the panel scanner, the focus controller and the cursor engine are told, of which the cursor engine takes the report before the focus controller (log 56, the model's choice). A presentation writes each crosspoint field of the screen whose value changed, with its
address, its code and one strobe (log 37), in address order (log 47, the model's choice); a field holds the layout kind, or a tile's source while it is LIVE or EXCLUDED, and 0xFF otherwise. -/
def Obligations.FrameBoundaryAppliesStagedPlan : Prop :=
  let appliedOf (r : ScreenRec) (g : Staged) : ScreenRec := { r with
    loans := g.loansAfter, ret := if g.loansAfter = [] then none else some (r.ret.getD r.active), active := g.plan,
    home := if g.home then g.plan else r.home, staged := none }
  (∀ (t : Nat) (sc : ScreenId) (s : State), s.live →
    let r := s.comp.screens[sc.1]
    let u := s.advance t
    let w := modScreen sc (fun r => { r with boundary := r.boundary + 1 }) u
    let due : Prop := ∃ b, r.state = .running ∧ r.timingStart = some b ∧ b + r.boundary * 1000000 / r.refresh ≤ u.now
    (¬due → exec (.frameBoundary t sc) s = .next u) ∧
    (due →
      (r.staged = none → exec (.frameBoundary t sc) s = .next (presentScreen sc w)) ∧
      ∀ g, r.staged = some g →
        exec (.frameBoundary t sc) s = .next (settle (applyStaged sc false w)) ∧
        Kept (modScreen sc (fun _ => { appliedOf r g with boundary := r.boundary + 1 }) u) (settle (applyStaged sc false w)) ∧
          ∀ c ∈ g.cells, (settle (applyStaged sc false w)).xm.entry c = none)) ∧
  (∀ (sc : ScreenId) (inLoad : Bool) (g : Staged) (s : State), s.comp.screens[sc.1].staged = some g →
    let presented := presentScreen sc (modScreen sc (fun r => appliedOf r g) s)
    let completed := completeAll g.cells .ok (planData sc) presented
    let told := post (if inLoad then .planInLoad sc else .plan sc) (planToPanel sc (noticeOf (.plans sc) completed))
    applyStaged sc inLoad s =
      (if s.cur.cursor.screen = some sc then
        match told.underCursor with
        | some (j, i) =>
          let located := modCursor (fun c => { c with screen := some j, tile := i }) told
          if cursorFields s.cur.cursor = cursorFields located.cur.cursor then located else rewriteMirror .cursor located
        | none => told
      else told) ∧
    (applyStaged sc inLoad s).comp = presented.comp ∧
    presented.comp.screens = upd s.comp.screens sc (fun r => appliedOf r g) ∧
    ∀ c ∈ g.cells, s.xm.entry c ≠ none →
      completed.cellDone c .ok ([byte sc.1] ++ g.plan.bytes ++ [boolByte (!g.loansAfter.isEmpty)])) ∧
  (∀ (sc : ScreenId) (s : State),
    let changed := (ids 30).filter fun a => decide (a.1 / 5 = sc.1) && !decide (s.comp.xpoint[a.1] = s.comp.presented a)
    presentScreen sc s = { s with comp := { s.comp with
      xpoint := (presentScreen sc s).comp.xpoint
      strobes := s.comp.strobes ++ changed.map fun a => { addr := a, data := s.comp.presented a } } } ∧
    ∀ a : Fin 30, (presentScreen sc s).comp.xpoint[a.1] =
      if a.1 / 5 = sc.1 then s.comp.presented a else s.comp.xpoint[a.1]) ∧
  ∀ (c : Composer) (sc : ScreenId),
    let r := c.screens[sc.1]
    let field (i : Nat) (h : i < 5) : Byte := c.presented ⟨5 * sc.1 + i, by omega⟩
    (r.state = .unfitted → field 0 (by omega) = 0 ∧ ∀ i (h : i < 4), field (i + 1) (by omega) = 0xFF) ∧
    (r.state ≠ .unfitted → field 0 (by omega) = r.active.layout.code ∧
      ∀ i : Fin 4,
        (r.active.src[i.1] = none → field (i.1 + 1) (by omega) = 0xFF) ∧
        ∀ h, r.active.src[i.1] = some h →
          let v := c.view[(headTarget h).1]
          let presence := if h.1 % 2 = 1 then v.headB else v.headA
          field (i.1 + 1) (by omega) =
            if presence = .present ∧ v.power = .on ∧ v.link = .up then byte h.1 else 0xFF)

/-- PLAN_SET: the range check, the fitting checks, and then the plan staged for the host: on a RUNNING screen it waits, and the cells of a plan it replaces complete SUPERSEDED; on a DISABLED one it is applied at once (as at a frame boundary) with no loan, becomes the active plan, and its cell completes OK. A failure at a source names the lowest tile that fails: for BAD_PARAM the lowest used source out of range, for NOT_FITTED the lowest of either failure (log 41, the model's choice). -/
def Obligations.PlanSetStagesPlan : Prop :=
  ∀ (t : Nat) (c : CellId) (s : State), s.commandReady c 0x08 →
    let u := take c (s.advance t)
    let p (i : Nat) : Byte := s.param c i
    let src (i : Fin 4) : Byte := s.param c (3 + i.1)
    let tiles : Nat := match (p 1).toNat with
      | 0 => 1
      | 3 => 4
      | 4 => 3
      | _ => 2
    let badHeader : Prop := 6 ≤ (p 0).toNat ∨ 5 ≤ (p 1).toNat ∨ 2 ≤ (p 2).toNat
    let badSource (i : Fin 4) : Prop := i.1 < tiles ∧ 16 ≤ (src i).toNat ∧ src i ≠ 0xFF
    let unfitted (i : Fin 4) : Prop := i.1 < tiles ∧ ∃ h : HeadId, (src i).toNat = h.1 ∧ s.watched h = false
    (badHeader → exec (.planSet t c) s = .next (complete c .badParam [p 0, 0xFF] u)) ∧
    (¬badHeader →
      (∀ i, badSource i → (∀ j < i, ¬badSource j) →
        exec (.planSet t c) s = .next (complete c .badParam [p 0, byte i.1] u)) ∧
      ((∀ i, ¬badSource i) → ∀ sc : ScreenId, (p 0).toNat = sc.1 →
        (s.straps.screens ≤ sc.1 → exec (.planSet t c) s = .next (complete c .notFitted [p 0, 0xFF] u)) ∧
        (sc.1 < s.straps.screens →
          (∀ i, unfitted i → (∀ j < i, ¬unfitted j) →
            exec (.planSet t c) s = .next (complete c .notFitted [p 0, byte i.1] u)) ∧
          ((∀ i, ¬unfitted i) → ∀ l : Layout, l.code = p 1 →
            let plan : Plan := { layout := l, src := Vector.ofFn fun i => if i.1 < tiles then asFin 16 (src i).toNat else none }
            let g : Staged := { plan := plan, purpose := .host, home := decide (p 2 = 1), loansAfter := [], cells := [c] }
            let r := s.comp.screens[sc.1]
            let old : List CellId := match r.staged with
              | some g => g.cells
              | none => []
            (r.state = .running →
              exec (.planSet t c) s = .next (noticeOf (.plans sc) (completeAll old .superseded (planData sc)
                (modScreen sc (fun r => { r with staged := some g }) u)))) ∧
            (r.state = .disabled →
              let w := completeAll old .superseded (planData sc) (modScreen sc (fun r => { r with staged := some g }) u)
              let applied := applyStaged sc false w
              exec (.planSet t c) s = .next (settle applied) ∧ Kept u (settle applied) ∧
                applied.comp.screens[sc.1].active = plan ∧
                applied.comp.screens[sc.1].home = (if p 2 = 1 then plan else r.home) ∧
                applied.comp.screens[sc.1].loans = [] ∧ applied.comp.screens[sc.1].ret = none ∧
                applied.comp.screens[sc.1].staged = none ∧ (settle applied).xm.entry c = none ∧
                (r.staged = none → (settle applied).cellDone c .ok ([p 0] ++ plan.bytes ++ [0])))))))

/-- SHARE: its checks, and then a plan built from the active plan and staged: the tile shows the head, the other tiles keep their sources, and the loans after are the loans carried with the new one when it lends; a DISABLED screen refuses it. The SHARE request of a hotkey or a panel key is taken so with lend yes and no cell, and changes nothing where the command would be refused. -/
def Obligations.ShareStagesPlan : Prop :=
  (∀ (t : Nat) (c : CellId) (s : State), s.commandReady c 0x09 →
    let u := take c (s.advance t)
    let p (i : Nat) : Nat := (s.param c i).toNat
    let refused (r : Result) : Prop := exec (.share t c) s = .next (complete c r [s.param c 0] u)
    (6 ≤ p 0 ∨ 5 ≤ p 1 ∨ 8 ≤ p 3 ∨ 2 ≤ p 4 ∨ 2 ≤ p 5 → refused .badParam) ∧
    ∀ (sc : ScreenId) (l : Layout) (k : TargetId), p 0 = sc.1 → s.param c 1 = l.code → p 3 = k.1 → p 4 < 2 → p 5 < 2 →
      (l.tiles ≤ p 2 → refused .badParam) ∧
      ∀ (tile : Fin 4) (h : HeadId), p 2 = tile.1 → tile.1 < l.tiles → h.1 = 2 * k.1 + p 4 →
        let r := s.comp.screens[sc.1]
        (s.straps.screens ≤ sc.1 ∨ s.watched h = false → refused .notFitted) ∧
        (sc.1 < s.straps.screens → s.watched h = true →
          (r.state = .disabled → refused .notReachable) ∧
          (r.state = .running →
            let plan : Plan := { layout := l, src := Vector.ofFn fun i =>
              if i = tile then some h else if i.1 < l.tiles ∧ i.1 < r.active.layout.tiles then r.active.src[i.1] else none }
            let old : List CellId := match r.staged with
              | some g => g.cells
              | none => []
            ∃ loans : List Loan,
              (∀ x, x ∈ loans ↔
                (x ∈ r.loans ∧ x.tile ≠ tile ∧ x.tile.1 < l.tiles) ∨
                  (p 5 = 1 ∧ x = { tile := tile, kind := .share, lender := h })) ∧
              let g : Staged :=
                { plan := plan, purpose := if loans = [] then .host else .loan, home := false, loansAfter := loans, cells := [c] }
              exec (.share t c) s = .next (noticeOf (.plans sc) (completeAll old .superseded (planData sc)
                (modScreen sc (fun r => { r with staged := some g }) u)))))) ∧
  ∀ (o : Operands) (s : State),
    (6 ≤ o.screen.toNat ∨ 5 ≤ o.layout.toNat ∨ 8 ≤ o.target.toNat ∨ 2 ≤ o.head.toNat → shareRequest o s = s) ∧
    ∀ (sc : ScreenId) (l : Layout) (k : TargetId),
      o.screen.toNat = sc.1 → o.layout = l.code → o.target.toNat = k.1 → o.head.toNat < 2 →
      (l.tiles ≤ o.tile.toNat → shareRequest o s = s) ∧
      ∀ (tile : Fin 4) (h : HeadId), o.tile.toNat = tile.1 → tile.1 < l.tiles → h.1 = 2 * k.1 + o.head.toNat →
        let r := s.comp.screens[sc.1]
        (s.straps.screens ≤ sc.1 ∨ s.watched h = false ∨ r.state = .disabled → shareRequest o s = s) ∧
        (sc.1 < s.straps.screens → s.watched h = true → r.state ≠ .disabled →
          let plan : Plan := { layout := l, src := Vector.ofFn fun i =>
            if i = tile then some h else if i.1 < l.tiles ∧ i.1 < r.active.layout.tiles then r.active.src[i.1] else none }
          ∃ loans : List Loan,
            (∀ x, x ∈ loans ↔
              (x ∈ r.loans ∧ x.tile ≠ tile ∧ x.tile.1 < l.tiles) ∨ x = { tile := tile, kind := .share, lender := h }) ∧
            shareRequest o s = stage sc { plan := plan, purpose := .loan, home := false, loansAfter := loans, cells := [] } s)

/-- RESTORE: its checks; a staged RETURN plan is joined, and otherwise the return plan, or the home plan where none is held, is staged as a RETURN plan; on a DISABLED screen it is applied at once with no loan, becomes the active plan, and its cell completes OK. The RESTORE request of a hotkey or a panel key is taken so with no cell, and changes nothing for a screen that is not fitted. -/
def Obligations.RestoreStagesReturn : Prop :=
  (∀ (t : Nat) (c : CellId) (s : State), s.commandReady c 0x0A →
    let u := take c (s.advance t)
    let p := (s.param c 0).toNat
    (6 ≤ p → exec (.restore t c) s = .next (complete c .badParam [s.param c 0] u)) ∧
    ∀ sc : ScreenId, p = sc.1 →
      let r := s.comp.screens[sc.1]
      (s.straps.screens ≤ sc.1 → exec (.restore t c) s = .next (complete c .notFitted [s.param c 0] u)) ∧
      (sc.1 < s.straps.screens →
        (∀ g, r.staged = some g → g.purpose = .giveBack →
          exec (.restore t c) s =
            .next (modScreen sc (fun r => { r with staged := some { g with cells := g.cells ++ [c] } }) u)) ∧
        ((∀ g, r.staged = some g → g.purpose ≠ .giveBack) →
          let plan := r.ret.getD r.home
          let g : Staged := { plan := plan, purpose := .giveBack, home := false, loansAfter := [], cells := [c] }
          let old : List CellId := match r.staged with
            | some g => g.cells
            | none => []
          (r.state = .running →
            exec (.restore t c) s = .next (noticeOf (.plans sc) (completeAll old .superseded (planData sc)
              (modScreen sc (fun r => { r with staged := some g }) u)))) ∧
          (r.state = .disabled →
            let w := completeAll old .superseded (planData sc) (modScreen sc (fun r => { r with staged := some g }) u)
            let applied := applyStaged sc false w
            exec (.restore t c) s = .next (settle applied) ∧ Kept u (settle applied) ∧
              applied.comp.screens[sc.1].active = plan ∧ applied.comp.screens[sc.1].home = r.home ∧
              applied.comp.screens[sc.1].loans = [] ∧ applied.comp.screens[sc.1].ret = none ∧
              applied.comp.screens[sc.1].staged = none ∧ (settle applied).xm.entry c = none ∧
              (r.staged = none → (settle applied).cellDone c .ok ([byte sc.1] ++ plan.bytes ++ [0])))))) ∧
  ∀ (o : Operands) (s : State),
    ((∀ sc : ScreenId, o.screen.toNat = sc.1 → s.straps.screens ≤ sc.1) → restoreRequest o s = s) ∧
    ∀ sc : ScreenId, o.screen.toNat = sc.1 → sc.1 < s.straps.screens →
      let r := s.comp.screens[sc.1]
      (∀ g, r.staged = some g → g.purpose = .giveBack → restoreRequest o s = s) ∧
      ((∀ g, r.staged = some g → g.purpose ≠ .giveBack) →
        restoreRequest o s =
          stage sc { plan := r.ret.getD r.home, purpose := .giveBack, home := false, loansAfter := [], cells := [] } s)

/-! ### The head signal monitor -/

/-- A sync edge and the absence deadline: the first edge, or one later than 100 ms after the last (log 26), makes the head ACQUIRING; a period acts by the rule of the head's presence; the deadline's expiry makes the head ABSENT. A change of presence rewrites the TARGET mirror with its notice and goes to the composer, and for a head A to the focus controller, which takes it after the composer (log 56, the model's choice); a change of the other mirrored fields rewrites the mirror in place. An edge on a head that is not watched, and one before the clear is done, changes nothing. -/
def Obligations.EdgesAndAbsenceSetPresence : Prop :=
  (∀ (h : HeadId) (r' : HeadRec) (s : State),
    let r := s.heads[h.1]
    let v := modHead h (fun _ => r') s
    let noted := noticeOf (.signal h) v
    (r.presence ≠ r'.presence →
      setHead h r' s = presenceToComposer h r'.presence
        (if h.1 % 2 = 1 then noted else post (.headA (headTarget h) r'.presence) noted)) ∧
    (r.presence = r'.presence →
      (r.lastPeriod ≠ r'.lastPeriod ∨ r.good ≠ r'.good ∨ r.rate ≠ r'.rate → setHead h r' s = rewriteOf (.signal h) v) ∧
      (r.lastPeriod = r'.lastPeriod → r.good = r'.good → r.rate = r'.rate → setHead h r' s = v))) ∧
  ∀ (t : Nat) (h : HeadId) (s : State), s.live →
    let u := s.advance t
    let r := s.heads[h.1]
    let absent : HeadRec :=
      { presence := .absent, lastPeriod := 0, good := 0, rate := 0, lastEdge := none, absenceDue := none }
    let lapsed : State := match r.lastEdge with
      | some e => if e + 100000 < u.now then setHead h absent u else u
      | none => u
    let after (c : Instr) (from' : State) (r' : HeadRec) : Prop :=
      ∃ v, exec c s = .next v ∧ v = settle (setHead h r' from') ∧ Kept (modHead h (fun _ => r') u) v
    let becomes (presence : Presence) (period good rate : Nat) : Prop :=
      after (.syncEdge t h) lapsed
        { presence := presence, lastPeriod := period, good := good, rate := rate, lastEdge := some u.now,
          absenceDue := some (u.now + 100000) }
    (s.watched h = false ∨ s.runState = .starting → exec (.syncEdge t h) s = .next u) ∧
    (s.watched h = true → s.runState ≠ .starting →
      (r.presence = .absent ∨ r.lastEdge = none ∨ (∃ e, r.lastEdge = some e ∧ e + 100000 < u.now) →
        becomes .acquiring 0 0 0) ∧
      ∀ e, r.lastEdge = some e → u.now ≤ e + 100000 →
        let p := u.now - e
        let q := r.lastPeriod
        let d := (p - q) + (q - p)
        let good : Prop := 10000 ≤ p ∧ p ≤ 50000
        (r.presence = .acquiring ∨ r.presence = .unstable →
          (¬good → becomes r.presence p 0 r.rate) ∧
          (good → r.good = 0 ∨ q / 200 < d → becomes r.presence p 1 r.rate) ∧
          (good → 1 ≤ r.good → r.good < 7 → d ≤ q / 200 → becomes r.presence p (r.good + 1) r.rate) ∧
          (good → 7 ≤ r.good → d ≤ q / 200 → becomes .present p 8 (100000000 / p))) ∧
        (r.presence = .present →
          (¬good ∨ q / 50 < d → becomes .unstable p 0 r.rate) ∧
          (good → d ≤ q / 50 → becomes .present p r.good (100000000 / p)))) ∧
    (∀ d, r.absenceDue = some d → d ≤ u.now →
      after (.absenceDeadlineExpiry t h) u absent) ∧
    ((∀ d, r.absenceDue = some d → u.now < d) → exec (.absenceDeadlineExpiry t h) s = .next u)

/-! ### The display identity unit -/

/-- A change of a screen's presence input starts or cancels its 50 ms on a fitted screen once the clear is done; at their end a rise starts a read at its first attempt, and a fall ends the read with its cells NOT_REACHABLE; the read buffer keeps what it held (log 22, the model's choice). -/
def Obligations.PresenceInputIsDebounced : Prop :=
  ∀ (t : Nat) (sc : ScreenId) (s : State), s.live →
    let u := s.advance t
    let r := s.idents[sc.1]
    (∀ level,
      (r.input = level → exec (.screenPresenceInputChange t sc level) s = .next u) ∧
      (r.input ≠ level →
        (s.fittedScreen sc = true → s.runState ≠ .starting →
          exec (.screenPresenceInputChange t sc level) s =
            .next (modIdent sc (fun i => { i with
              input := level, debounceDue := if level = i.presence then none else some (u.now + 50000) }) u)) ∧
        (s.fittedScreen sc = false ∨ s.runState = .starting →
          exec (.screenPresenceInputChange t sc level) s = .next (modIdent sc (fun i => { i with input := level }) u)))) ∧
    ((∀ d, r.debounceDue = some d → u.now < d) → exec (.presenceDebounceExpiry t sc) s = .next u) ∧
    ∀ d, r.debounceDue = some d → d ≤ u.now → r.presence ≠ r.input →
      (r.input = true →
        exec (.presenceDebounceExpiry t sc) s =
          .next (noticeOf (.ident sc) (modIdent sc (fun i => { i with
            debounceDue := none, presence := true, state := .reading, attempts := 1, phase := .attempting }) u))) ∧
      (r.input = false →
        exec (.presenceDebounceExpiry t sc) s =
          .next (modIdent sc (fun i => { i with waiting := [] })
            (completeAll r.waiting .notReachable (rereadData sc false)
              (noticeOf (.ident sc) (modIdent sc (fun i => { i with
                debounceDue := none, presence := false, state := .noScreen, phase := .noRead }) u)))))

/-- The end of an attempt of a read. It fails at the first fault: an address or an offset byte not acknowledged, the clock held low for more than 10 ms, a block whose sum is not 0; block 1 is read only after an intact block 0, and the bytes that arrived before the fault stay in the read buffer (log 22). A failure before the third attempt waits 100 ms for the next; at the third the read ends INVALID with its cells IDENT_BAD; two intact blocks end it VALID: the image is the two blocks, a change of it is written to the screen's image area and asked of the heads that follow the screen, and the cells complete. The retry's expiry begins the next attempt. -/
def Obligations.ReadAttemptsEnd : Prop :=
  (∀ (sc : ScreenId) (changed : Bool) (s : State),
    rereadData sc changed s =
      [byte sc.1, s.idents[sc.1].state.code, byte s.idents[sc.1].attempts, if changed then 1 else 0]) ∧
  ∀ (t : Nat) (sc : ScreenId) (res : ReadResult) (s : State), s.live →
    let u := s.advance t
    let r := s.idents[sc.1]
    let good (a : BusAnswer) : Prop := a.ack = true ∧ a.low ≤ 10000
    let arrive (b : BlockAnswer) (n : Nat) : Prop :=
      (good b.address ∧ good b.offset → n ≤ 128 ∧ (∀ i : Fin 128, i.1 < n → b.bytes[i.1].2 ≤ 10000) ∧
        ∀ i : Fin 128, i.1 = n → 10000 < b.bytes[i.1].2) ∧
      (¬(good b.address ∧ good b.offset) → n = 0)
    let intact (b : BlockAnswer) : Prop := arrive b 128 ∧ byteSum (b.bytes.toList.map Prod.fst) = 0
    let bufferOf (n0 n1 : Nat) : Image := Vector.ofFn fun i =>
      if h : i.1 < 128 then if i.1 < n0 then res.block0.bytes[i.1].1 else r.buffer[i.1]
      else if i.1 - 128 < n1 then res.block1.bytes[i.1 - 128].1 else r.buffer[i.1]
    let fails (buffer : Image) : Prop :=
      (r.attempts < 3 →
        exec (.readAttemptEnd t sc res) s =
          .next (modIdent sc (fun i => { i with buffer := buffer, phase := .retryAt (u.now + 100000) }) u)) ∧
      (3 ≤ r.attempts → r.state = .reading →
        exec (.readAttemptEnd t sc res) s =
          .next (modIdent sc (fun i => { i with waiting := [] })
            (completeAll r.waiting .identBad (rereadData sc false)
              (noticeOf (.ident sc) (modIdent sc (fun i => { i with
                buffer := buffer, state := .invalid, phase := .noRead }) u)))))
    (r.phase ≠ .attempting → exec (.readAttemptEnd t sc res) s = .next u) ∧
    (r.phase = .attempting →
      ∀ n0 n1, arrive res.block0 n0 → arrive res.block1 n1 →
        (¬intact res.block0 → fails (bufferOf n0 0)) ∧
        (intact res.block0 → ¬intact res.block1 → fails (bufferOf 128 n1)) ∧
        (intact res.block0 → intact res.block1 →
          let img := bufferOf 128 128
          let changed : Prop := r.held = false ∨ r.image ≠ img
          let follows (v : Served) : Prop :=
            v.pending = none ∧
              ((∃ c, v.copy = some c ∧ c.rep.source = .screen sc) ∨ (v.copy = none ∧ v.source = .screen sc))
          ∃ v, exec (.readAttemptEnd t sc res) s = .next v ∧
            v.idents = upd s.idents sc (fun i => { i with
              image := img, held := true, state := .valid, phase := .noRead, buffer := img, waiting := [] }) ∧
            (∀ c ∈ r.waiting, v.xm.entry c = none ∧
              (s.xm.entry c ≠ none →
                v.cellDone c .ok [byte sc.1, 2, byte r.attempts, if r.held = true ∧ r.image = img then 0 else 1])) ∧
            (∀ a, 0x0C00 ≤ a → ¬(0x2000 + 256 * sc.1 ≤ a ∧ a < 0x2000 + 256 * sc.1 + 256) →
              v.xm.mem.read a = s.xm.mem.read a) ∧
            (∀ i : Fin 256, v.xm.mem.read (0x2000 + 256 * sc.1 + i.1) =
              if r.held = true ∧ r.image = img then s.xm.mem.read (0x2000 + 256 * sc.1 + i.1) else img[i.1]) ∧
            (∀ h : HeadId,
              let o := s.served[h.1]
              let rep : Replacement := { source := .screen sc, announce := o.follow, follow := o.follow, cell := none }
              (changed → follows o → o.inTransaction = false → o.state ≠ .replacing →
                v.served[h.1] = { o with
                  state := .replacing, pending := none, completing := none, announceUntil := none,
                  copy := some { rep := rep, image := img, due := u.now + 1000, before := o.state } }) ∧
              (changed → follows o → o.inTransaction = true ∨ o.state = .replacing →
                v.served[h.1] = { o with pending := some rep }) ∧
              (¬changed ∨ ¬follows o → v.served[h.1] = o)) ∧
            v = { u with
              idents := v.idents, served := v.served,
              xm := { u.xm with
                mem := v.xm.mem, revision := v.xm.revision, given := v.xm.given, completionNo := v.xm.completionNo, inWork := v.xm.inWork } })) ∧
    (∀ d, r.phase = .retryAt d →
      (d ≤ u.now →
        exec (.readRetryExpiry t sc) s =
          .next (noticeOf (.ident sc) (modIdent sc (fun i => { i with
            attempts := i.attempts + 1, phase := .attempting }) u))) ∧
      (u.now < d → exec (.readRetryExpiry t sc) s = .next u)) ∧
    ((∀ d, r.phase ≠ .retryAt d) → exec (.readRetryExpiry t sc) s = .next u)

/-- IDENT_REREAD: its checks; while the screen is read its cell waits for that read, and otherwise it starts a read at its first attempt with its cell waiting. -/
def Obligations.IdentRereadStartsRead : Prop :=
  ∀ (t : Nat) (c : CellId) (s : State), s.commandReady c 0x0C →
    let u := take c (s.advance t)
    let p := (s.param c 0).toNat
    (6 ≤ p → exec (.identReread t c) s = .next (complete c .badParam [] u)) ∧
    ∀ sc : ScreenId, p = sc.1 →
      let r := s.idents[sc.1]
      (s.straps.screens ≤ sc.1 → exec (.identReread t c) s = .next (complete c .notFitted [] u)) ∧
      (sc.1 < s.straps.screens →
        (r.state = .noScreen → exec (.identReread t c) s = .next (complete c .notReachable [] u)) ∧
        (r.state = .reading →
          exec (.identReread t c) s = .next (modIdent sc (fun i => { i with waiting := i.waiting ++ [c] }) u)) ∧
        (r.state = .valid ∨ r.state = .invalid →
          exec (.identReread t c) s =
            .next (noticeOf (.ident sc) (modIdent sc (fun i => { i with
              waiting := [c], state := .reading, attempts := 1, phase := .attempting }) u))))

/-- IDENT_SERVE: its checks; then its replacement joins as the pending one while a transaction is open, a copy runs or one is pending already, whose cell completes SUPERSEDED; otherwise it begins: NONE makes the head SILENT with the follow announce flag and completes, and a screen's image or the head's slot starts the copy of 1,000 µs. The check and the copy of a slot come after the stretched host writes that no bank holds any more (log 12). -/
def Obligations.IdentServeRequestsReplacement : Prop :=
  (∀ (h : HeadId) (c : CellId) (r : Result) (sums : List Byte) (s : State),
    let v := s.served[h.1]
    completeServe h none r sums s = s ∧
    completeServe h (some c) r sums s = complete c r
      ([byte (h.1 / 2), byte (h.1 % 2), v.state.code] ++
        (match v.source with
          | .nothing => [0, 0xFF]
          | .screen sc => [1, byte sc.1]
          | .slot => [2, 0xFF]) ++ sums) s) ∧
  (∀ (src : ServedSource) (img : Image),
    sumsFor src img =
      if src = .slot then [byteSum (img.toList.take 128), byteSum (img.toList.drop 128)] else [0, 0]) ∧
  ∀ (t : Nat) (c : CellId) (s : State), s.commandReady c 0x0D →
    let u := take c (s.advance t)
    let p (i : Nat) : Nat := (s.param c i).toNat
    let refused (r : Result) : Prop := exec (.identServe t c) s = .next (complete c r [] u)
    (8 ≤ p 0 ∨ 2 ≤ p 1 ∨ 3 ≤ p 2 ∨ (p 2 = 1 ∧ 6 ≤ p 3) ∨ 2 ≤ p 4 ∨ 2 ≤ p 5 → refused .badParam) ∧
    ∀ h : HeadId, h.1 = 2 * p 0 + p 1 → p 1 < 2 → p 4 < 2 → p 5 < 2 →
      let o := s.served[h.1]
      let w := releaseReady u
      let slot (i : Nat) : Byte := w.xm.mem.read (0x2600 + 256 * h.1 + i)
      let accepted (u : State) (src : ServedSource) (image : Image) : Prop :=
        let rep : Replacement := { source := src, announce := decide (p 4 = 1), follow := decide (p 5 = 1), cell := some c }
        let superseded (r : State) : State := completeServe h o.completing .superseded (sumsFor o.source o.store) r
        (∀ old, o.pending = some old →
          exec (.identServe t c) s =
            .next (completeServe h old.cell .superseded [0, 0] (modServed h (fun v => { v with pending := some rep }) u))) ∧
        (o.pending = none → o.inTransaction = true ∨ o.state = .replacing →
          exec (.identServe t c) s =
            .next (noticeOf (.served h) (modServed h (fun v => { v with pending := some rep }) u))) ∧
        (o.pending = none → o.inTransaction = false → o.state ≠ .replacing →
          (src ≠ .nothing →
            exec (.identServe t c) s =
              .next (superseded (noticeOf (.served h) (modServed h (fun v => { v with
                state := .replacing, completing := none, announceUntil := none,
                copy := some { rep := rep, image := image, due := u.now + 1000, before := o.state } }) u)))) ∧
          (src = .nothing →
            let silent := modServed h (fun v => { v with
              state := .silent, source := .nothing, follow := decide (p 5 = 1), answering := false, hotplug := false,
              completing := none, announceUntil := none }) u
            exec (.identServe t c) s =
              .next (superseded (completeServe h (some c) .ok [0, 0]
                (if o.state = .silent ∧ o.source = .nothing ∧ o.follow = decide (p 5 = 1) ∧ o.hotplug = false then silent
                 else noticeOf (.served h) silent)))))
      (s.watched h = false → p 2 < 3 → (p 2 = 1 → p 3 < 6) → refused .notFitted) ∧
      (s.watched h = true →
        (p 2 = 0 → accepted u .nothing o.store) ∧
        (p 2 = 1 → ∀ sc : ScreenId, p 3 = sc.1 →
          (s.straps.screens ≤ sc.1 → refused .notFitted) ∧
          (sc.1 < s.straps.screens →
            (s.idents[sc.1].held = false → refused .identBad) ∧
            (s.idents[sc.1].held = true → accepted u (.screen sc) s.idents[sc.1].image))) ∧
        (p 2 = 2 →
          let intact : Prop := byteSum ((List.range 128).map slot) = 0 ∧ byteSum ((List.range 128).map fun i => slot (128 + i)) = 0
          (¬intact → exec (.identServe t c) s = .next (complete c .identBad [] w)) ∧
          (intact → accepted w .slot (Vector.ofFn fun i => slot i.1))))

/-- The end of a copy and of an announce. At a copy's end the head takes the copy's source, flag and image; it announces for 200 ms when the copy asked for it from SERVING or found it ANNOUNCING, and is SERVING otherwise; the cell completes unless it waits for the announce; a pending replacement begins unless a transaction is open. At an announce's end the head is SERVING and its cell completes. A replacement that begins, at once or as the pending one at a stop, at the idle end or at a copy's end, is pending no more, cancels a running announce, and completes the completing cell SUPERSEDED: to NONE the head is SILENT with its hot-plug low, keeps its store and takes the follow announce flag, and the replacement's cell completes OK before that; from a screen or the slot the head is REPLACING, with hot-plug and answering as they were, and the copy of 1,000 µs runs, of the screen's image, or of the slot as it stands after the stretched host writes that no bank holds any more (log 12). -/
def Obligations.CopyAndAnnounceEnd : Prop :=
  (∀ (h : HeadId) (f : Served → Served) (s : State),
    let o := s.served[h.1]
    let n := f o
    let same : Prop := n.state = o.state ∧ n.source = o.source ∧ n.follow = o.follow ∧ n.hotplug = o.hotplug ∧
      n.pending.isSome = o.pending.isSome
    (same → changeServed h f s = modServed h f s) ∧
    (¬same → changeServed h f s = noticeOf (.served h) (modServed h f s))) ∧
  (∀ (t : Nat) (h : HeadId) (s : State), s.live →
    let u := s.advance t
    let o := s.served[h.1]
    ((∀ c, o.copy = some c → u.now < c.due) → exec (.copyEnd t h) s = .next u) ∧
    (∀ c, o.copy = some c → c.due ≤ u.now →
      let announcing : Bool := decide (c.before = .announcing) || (decide (c.before = .serving) && c.rep.announce)
      let o' : Served := { o with
        source := c.rep.source, follow := c.rep.follow, store := c.image, copy := none, lastActivity := u.now,
        answering := true, state := if announcing then .announcing else .serving, hotplug := !announcing,
        announceUntil := if announcing then some (u.now + 200000) else o.announceUntil,
        completing := if announcing then (if c.rep.announce then c.rep.cell else none) else o.completing }
      let copied := changeServed h (fun _ => o') u
      let ended :=
        if o'.completing.isSome then copied
        else completeServe h c.rep.cell .ok (sumsFor c.rep.source c.image) copied
      (o.pending = none ∨ o.inTransaction = true → exec (.copyEnd t h) s = .next ended) ∧
      ∀ rep, o.pending = some rep → o.inTransaction = false →
        exec (.copyEnd t h) s = .next (beginReplacement h rep ended)) ∧
    ((∀ d, o.announceUntil = some d → u.now < d) → exec (.announceExpiry t h) s = .next u) ∧
    ∀ d, o.announceUntil = some d → d ≤ u.now →
      exec (.announceExpiry t h) s =
        .next (completeServe h o.completing .ok (sumsFor o.source o.store)
          (changeServed h (fun v => { v with
            state := .serving, hotplug := true, completing := none, announceUntil := none }) u))) ∧
  ∀ (h : HeadId) (rep : Replacement) (s : State),
    let o := s.served[h.1]
    let superseded (v : State) : State := completeServe h o.completing .superseded (sumsFor o.source o.store) v
    let copies (image : Image) (v : State) : State :=
      superseded (changeServed h (fun r => { r with
        state := .replacing, pending := none, completing := none, announceUntil := none,
        copy := some { rep := rep, image := image, due := s.now + 1000, before := r.state } }) v)
    (rep.source = .nothing →
      beginReplacement h rep s = superseded (completeServe h rep.cell .ok [0, 0]
        (changeServed h (fun v => { v with
          state := .silent, source := .nothing, follow := rep.follow, answering := false, hotplug := false, pending := none,
          completing := none, announceUntil := none }) s))) ∧
    (∀ sc : ScreenId, rep.source = .screen sc → beginReplacement h rep s = copies s.idents[sc.1].image s) ∧
    (rep.source = .slot →
      let w := releaseReady s
      beginReplacement h rep s = copies (Vector.ofFn fun i => w.xm.mem.read (0x2600 + 256 * h.1 + i.1)) w)

/-- The responder on a head's bus: its address opens a transaction while it answers; the first byte written sets the offset; a byte read comes from the store at the offset, which advances and wraps; a stop, or 25 ms without activity, ends the transaction and lets a pending replacement begin; outside a transaction, and while the copy holds the bus (log 11), nothing changes. -/
def Obligations.HeadBusServesStore : Prop :=
  ∀ (t : Nat) (h : HeadId) (s : State), s.live →
    let u := s.advance t
    let o := s.served[h.1]
    let held : Prop := o.state = .replacing ∧ o.inTransaction = true
    let served (f : Served → Served) : Host.Outcome State Fault Refusal := .next (modServed h f u)
    let closed := modServed h (fun v => { v with inTransaction := false, addressed := false }) u
    (∀ a : BitVec 7,
      let own : Prop := a = 0x50 ∧ o.answering = true
      (¬held → own →
        exec (.headTransactionStart t h a) s =
          served fun v => { v with inTransaction := true, addressed := true, offsetTaken := false, lastActivity := u.now }) ∧
      (¬held → ¬own → o.inTransaction = true →
        exec (.headTransactionStart t h a) s = served fun v => { v with addressed := false, lastActivity := u.now }) ∧
      (held ∨ (¬own ∧ o.inTransaction = false) → exec (.headTransactionStart t h a) s = .next u)) ∧
    (o.inTransaction = false ∨ held →
      (∀ b, exec (.headOffsetWrite t h b) s = .next u) ∧ exec (.headByteRead t h) s = .next u ∧
      exec (.headTransactionStop t h) s = .next u ∧ exec (.headBusIdleExpiry t h) s = .next u) ∧
    (o.inTransaction = true → o.state ≠ .replacing →
      (∀ b,
        (o.addressed = true → o.offsetTaken = false →
          exec (.headOffsetWrite t h b) s =
            served fun v => { v with offset := b, offsetTaken := true, lastActivity := u.now }) ∧
        (o.addressed = false ∨ o.offsetTaken = true →
          exec (.headOffsetWrite t h b) s = served fun v => { v with lastActivity := u.now })) ∧
      (o.addressed = true →
        exec (.headByteRead t h) s = served fun v => { v with
          lastByte := some (o.store[o.offset.toNat]'(o.offset.isLt)), offset := o.offset + 1, lastActivity := u.now }) ∧
      (o.addressed = false → exec (.headByteRead t h) s = served fun v => { v with lastActivity := u.now }) ∧
      (o.pending = none → exec (.headTransactionStop t h) s = .next closed) ∧
      (∀ rep, o.pending = some rep → exec (.headTransactionStop t h) s = .next (beginReplacement h rep closed)) ∧
      (o.lastActivity + 25000 ≤ u.now → exec (.headBusIdleExpiry t h) s = exec (.headTransactionStop t h) s) ∧
      (u.now < o.lastActivity + 25000 → exec (.headBusIdleExpiry t h) s = .next u))

/-! ### The power supervisor -/

/-- A conversion result at the end of a slot of the sense rotation: the sample is the result limited to 0 to 1023 and turned round for FALLING polarity; it is classified by the bands of its target's power state; the third agreeing sample of a level that differs from the power state changes it, and until then the TARGET mirror alone is rewritten. A change goes to the focus controller, the composer, the panel scanner and the wake operation, which a change to ON ends OK (their order is log 43, and that of the ON report and the wake's OK at the focus controller log 55, the model's choices). A report to the composer is recorded in its view; each screen with a tile whose condition changes has its SCREEN mirror rewritten with its notice, and is presented at once while DISABLED. A target that leaves ON, and a head that becomes ABSENT, has its loans returned screen by screen: the return plan is staged
with home flag no (log 46, the model's choice), or a first loan that is only staged is withdrawn with its cells ABORTED. -/
def Obligations.SampleClassifiesAndCounts : Prop :=
  (∀ (t : Nat) (result : Int) (s : State), s.live →
    let u := s.advance t
    let k := s.senseSlot
    let w : State := { u with senseSlot := k + 1 }
    let q := s.setups[k.1]
    let r := s.power[k.1]
    let limited : Nat := if result < 0 then 0 else if 1023 < result then 1023 else result.toNat
    let v : Nat := if q.falling then 1023 - limited else limited
    let level : Power :=
      match r.state with
      | .unknown | .off => if q.high ≤ v then .on else if q.low ≤ v then .asleep else .off
      | .asleep => if q.high ≤ v then .on else if q.low - q.hysteresis ≤ v then .asleep else .off
      | .on => if q.high - q.hysteresis ≤ v then .on else if q.low - q.hysteresis ≤ v then .asleep else .off
    let run : Nat := if r.runLevel = some level then r.runCount + 1 else 1
    let sampled (r' : PowerRec) : State := modPower k (fun _ => r') w
    (s.runState = .starting → exec (.powerSample t result) s = .next u) ∧
    (s.runState ≠ .starting →
      (s.fittedTarget k = false → exec (.powerSample t result) s = .next w) ∧
      (s.fittedTarget k = true →
        (level = r.state →
          exec (.powerSample t result) s =
            .next (rewriteOf (.power k) (sampled { state := r.state, sample := v, runLevel := none, runCount := 0 }))) ∧
        (level ≠ r.state → run < 3 →
          exec (.powerSample t result) s =
            .next (rewriteOf (.power k)
              (sampled { state := r.state, sample := v, runLevel := some level, runCount := run }))) ∧
        (level ≠ r.state → 3 ≤ run →
          let changed := sampled { state := level, sample := v, runLevel := none, runCount := 0 }
          let told := powerToPanel k level
            (powerToComposer k r.state level (post (.power k level) (noticeOf (.power k) changed)))
          let done := settle (if level = .on ∧ told.wakes[k.1].state ≠ .idle then endWake k .ok told else told)
          exec (.powerSample t result) s = .next done ∧ Kept changed done)))) ∧
  (∀ (k : TargetId) (f : TargetView → TargetView) (s : State),
    let v : State := { s with comp := { s.comp with view := upd s.comp.view k f } }
    viewReport k f s = (ids 6).foldl (fun w sc =>
      if ∀ i : Fin 4, v.tileCond sc i = s.tileCond sc i then w
      else noticeOf (.plans sc)
        (if w.comp.screens[sc.1].state = .disabled then { w with comp := w.comp.present sc } else w)) v) ∧
  (∀ (sc : ScreenId) (i : Fin 4) (s : State),
    (s.tileSource sc i = none → s.tileCond sc i = .dark) ∧
    ∀ h, s.tileSource sc i = some h →
      let v := s.comp.view[(headTarget h).1]
      let shows : Prop := (if h.1 % 2 = 1 then v.headB else v.headA) = .present ∧ v.power = .on ∧ v.link = .up
      (¬shows → s.tileCond sc i = .inert) ∧
      (shows → s.tileCond sc i = if v.excluded then .excluded else .live)) ∧
  (∀ (sc : ScreenId) (s : State),
    planData sc s = [byte sc.1] ++ s.comp.screens[sc.1].active.bytes ++
      [if s.comp.screens[sc.1].loans = [] then 0 else 1]) ∧
  (∀ (k : TargetId) (old new : Power) (s : State),
    let seen := viewReport k (fun v => { v with power := new }) s
    powerToComposer k old new s =
      if old = .on ∧ new ≠ .on then (ids 6).foldl (returnOn fun l => decide (headTarget l.lender = k)) seen else seen) ∧
  (∀ (h : HeadId) (p : Presence) (s : State),
    let seen := viewReport (headTarget h) (fun v => if h.1 % 2 = 1 then { v with headB := p } else { v with headA := p }) s
    presenceToComposer h p s =
      if p = .absent then (ids 6).foldl (returnOn fun l => decide (l.lender = h)) seen else seen) ∧
  (∀ (lent : Loan → Bool) (sc : ScreenId) (s : State),
    let r := s.comp.screens[sc.1]
    let coming : List Loan := match r.staged with
      | some g => g.loansAfter
      | none => r.loans
    ((∀ l ∈ coming, lent l = false) → returnOn lent s sc = s) ∧
    ((∃ l ∈ coming, lent l = true) →
      (∀ p, r.ret = some p →
        returnOn lent s sc =
          stage sc { plan := p, purpose := .giveBack, home := false, loansAfter := [], cells := [] } s) ∧
      (r.ret = none →
        (r.staged = none → returnOn lent s sc = s) ∧
        ∀ g, r.staged = some g →
          returnOn lent s sc =
            post (.withdrawn sc) (noticeOf (.plans sc) (completeAll g.cells .aborted (planData sc)
              (modScreen sc (fun r => { r with staged := none }) s)))))) ∧
  ∀ (sc : ScreenId) (g : Staged) (s : State),
    let r := s.comp.screens[sc.1]
    let old : List CellId := match r.staged with
      | some o => o.cells
      | none => []
    let staged := completeAll old .superseded (planData sc) (modScreen sc (fun r => { r with staged := some g }) s)
    (r.state = .running → stage sc g s = noticeOf (.plans sc) staged) ∧
    (r.state = .disabled → stage sc g s = applyStaged sc false staged) ∧
    (r.state = .unfitted → stage sc g s = s)

/-- TARGET_SETUP: refused at the first check of the block that fails, with the offset of its field (for a relation between two fields, log 21); otherwise the setup is the block's with the times rounded and the width limited, the target's run is cleared, an idle wake output takes the inactive level, the composer takes glide excluded, and a head B that becomes unfitted is ABSENT and its served image is to end, with no follow announce (log 38, the model's choice). -/
def Obligations.TargetSetupChecksThenApplies : Prop :=
  ∀ (t : Nat) (c : CellId) (s : State), s.commandReady c 0x07 →
    let u := take c (s.advance t)
    let p := (s.param c 0).toNat
    (8 ≤ p → exec (.targetSetup t c) s = .next (complete c .badParam [0xFF] u)) ∧
    ∀ k : TargetId, p = k.1 →
      (s.straps.targets ≤ k.1 → exec (.targetSetup t c) s = .next (complete c .notFitted [0xFF] u)) ∧
      (k.1 < s.straps.targets →
        let block : List Byte := (List.range 26).map fun i => s.xm.mem.read (0x0D00 + i)
        let b (i : Nat) : Nat := (s.xm.mem.read (0x0D00 + i)).toNat
        let n (i : Nat) : Nat := b i + 256 * b (i + 1)
        let delay := n 16 - n 16 % 10
        let width := if n 18 - n 18 % 10 ≤ 2000 then n 18 - n 18 % 10 else 2000
        let width_ (i : Nat) : Prop := n i < 320 ∨ 7680 < n i
        let height_ (i : Nat) : Prop := n i < 200 ∨ 4320 < n i
        let failures : List (Prop × Nat) :=
          [(1 < b 11, 11), (1 < b 12, 12), (1 < b 15, 15), (b 13 < 1 ∨ 7 < b 13, 13), (b 14 < 1 ∨ 60 < b 14, 14),
            (2550 < delay, 16), (width < 50, 18), (1 < b 20, 20), (1023 < n 22, 22), (1023 < n 24, 24), (63 < b 21, 21),
            (n 22 < b 21, 21), (n 24 ≤ n 22 + b 21, 22), (1 < b 10, 10), (b 0 ≠ 1 ∧ b 0 ≠ 2, 0), (b 0 = 2 ∧ 1 < b 1, 1),
            (width_ 2, 2), (height_ 4, 4), (b 0 = 2 ∧ width_ 6, 6), (b 0 = 2 ∧ height_ 8, 8),
            (b 0 = 1 ∧ s.anyPlanShows (headBOf k) = true, 0)]
        (∀ (m : Nat) (p : Prop) (i : Nat), failures[m]? = some (p, i) → p →
          (∀ j < m, ∀ (q : Prop) (o : Nat), failures[j]? = some (q, o) → ¬q) →
          exec (.targetSetup t c) s = .next (complete c .badParam [byte i] u)) ∧
        ((∀ q ∈ failures, ¬q.1) →
          let q : Setup :=
            { headB := decide (b 0 = 2), under := decide (b 1 = 1), wA := n 2, hA := n 4, wB := n 6, hB := n 8,
              excluded := decide (b 10 = 1),
              policy :=
                { signal := decide (b 11 = 1), pulse := decide (b 12 = 1), retry := b 13, window := b 14,
                  activeHigh := decide (b 15 = 0), delay := delay, width := width },
              falling := decide (b 20 = 1), hysteresis := b 21, low := n 22, high := n 24 }
          let taken : List Byte := block.take 16 ++ le16n delay ++ le16n width ++ block.drop 20
          let written := modPower k (fun r => { r with runLevel := none, runCount := 0 }) (modSetup k (fun _ => q) u)
          let w := viewReport k (fun v => { v with excluded := q.excluded })
            (if s.wakes[k.1].state = .idle then modWake k (fun w => { w with outHigh := !q.policy.activeHigh }) written
             else written)
          (s.setups[k.1].headB = false ∨ b 0 = 2 → exec (.targetSetup t c) s = .next (complete c .ok taken w)) ∧
          (s.setups[k.1].headB = true → b 0 = 1 →
            let hB := headBOf k
            let o := s.served[hB.1]
            let ending : Replacement := { source := .nothing, announce := false, follow := false, cell := none }
            ∃ v sv, exec (.targetSetup t c) s = .next v ∧ v.xm.entry c = none ∧
              Kept { w with heads := upd w.heads hB (fun _ => HeadRec.initial), served := sv } v ∧
              (∀ j : HeadId, j ≠ hB → sv[j.1] = s.served[j.1]) ∧
              (o.pending = none → o.inTransaction = false → o.state ≠ .replacing →
                sv[hB.1] = { o with
                  state := .silent, source := .nothing, follow := false, answering := false, hotplug := false,
                  completing := none, announceUntil := none }) ∧
              (o.pending ≠ none ∨ o.inTransaction = true ∨ o.state = .replacing →
                sv[hB.1] = { o with pending := some ending }))))

/-- WAKE: its checks; with no operation running it ends at once on a target that is ON, and on one for which no method is usable; otherwise an operation starts under a copy of the wake policy, by the resume signal on a SUSPENDED line or by the pulse; a running operation is joined. The wake request of a hotkey or a panel key starts an operation so with no cell and no one to tell, and changes nothing where it joins one or ends at once; the focus controller's does so with the focus controller to tell, joins a running operation as one to tell, and is answered where it ends at once. -/
def Obligations.WakeStartsOperation : Prop :=
  (∀ (t : Nat) (c : CellId) (s : State), s.commandReady c 0x0B →
    let u := take c (s.advance t)
    let p := (s.param c 0).toNat
    (8 ≤ p → exec (.wake t c) s = .next (complete c .badParam [] u)) ∧
    ∀ k : TargetId, p = k.1 →
      (s.straps.targets ≤ k.1 → exec (.wake t c) s = .next (complete c .notFitted [] u)) ∧
      (k.1 < s.straps.targets →
        let op := s.wakes[k.1]
        let policy := s.setups[k.1].policy
        let power := s.power[k.1].state
        let signal : Prop := s.tlines[k.1].link = .suspended ∧ policy.signal = true
        let data (r : Result) : List Byte := [byte k.1, r.code, byte op.attempts, methodCode op.method, power.code]
        let starts (op' : WakeOp) (v : State) : Prop :=
          exec (.wake t c) s = .next v ∧ Kept u v ∧ v.wakes = upd s.wakes k (fun _ => op') ∧
            v.panel.view.waking = s.panel.view.waking.set k.1 true
        let first : WakeOp := { op with
          attempts := 1, method := some .pulse, policy := some policy, joined := [c], answerFocus := false }
        (op.state = .idle →
          (power = .on → exec (.wake t c) s = .next (complete c .ok (data .ok) u)) ∧
          (power ≠ .on →
            (¬signal → policy.pulse = false → exec (.wake t c) s = .next (complete c .noMethod (data .noMethod) u)) ∧
            (signal → ∃ v, starts { first with state := .signalling, method := some .signal, due := none } v ∧
              v.tlines[k.1].resumeUntil = some (s.tlines[k.1].resumeUntil.getD (u.now + 20000))) ∧
            (¬signal → policy.pulse = true →
              (0 < policy.delay →
                ∃ v, starts { first with state := .delaying, due := some (u.now + 1000 * policy.delay) } v) ∧
              (policy.delay = 0 → power = .off ∨ power = .asleep →
                ∃ v, starts { first with
                  state := .pulsing, due := some (u.now + 1000 * policy.width), outHigh := policy.activeHigh } v) ∧
              (policy.delay = 0 → power = .unknown →
                ∃ v, starts { first with state := .watching, due := some (u.now + 1000000 * policy.window) } v)))) ∧
        (op.state ≠ .idle →
          (c ∉ op.joined →
            exec (.wake t c) s =
              .next (rewriteOf (.power k) (modWake k (fun w => { w with joined := w.joined ++ [c] }) u))) ∧
          (c ∈ op.joined → exec (.wake t c) s = .next u)))) ∧
  (∀ (o : Operands) (s : State),
    ((∀ k : TargetId, o.target.toNat = k.1 → s.straps.targets ≤ k.1) → wakeRequest o s = s) ∧
    ∀ k : TargetId, o.target.toNat = k.1 → k.1 < s.straps.targets →
      let op := s.wakes[k.1]
      let policy := s.setups[k.1].policy
      let power := s.power[k.1].state
      let signal : Prop := s.tlines[k.1].link = .suspended ∧ policy.signal = true
      let v := wakeRequest o s
      let starts (op' : WakeOp) : Prop :=
        Kept s v ∧ v.wakes = upd s.wakes k (fun _ => op') ∧ v.panel.view.waking = s.panel.view.waking.set k.1 true ∧
          v.focus = s.focus
      let first : WakeOp := { op with
        attempts := 1, method := some .pulse, policy := some policy, joined := [], answerFocus := false }
      (op.state ≠ .idle ∨ power = .on ∨ (¬signal ∧ policy.pulse = false) → v = s) ∧
      (op.state = .idle → power ≠ .on →
        (signal → starts { first with state := .signalling, method := some .signal, due := none } ∧
          v.tlines[k.1].resumeUntil = some (s.tlines[k.1].resumeUntil.getD (s.now + 20000))) ∧
        (¬signal → policy.pulse = true →
          (0 < policy.delay → starts { first with state := .delaying, due := some (s.now + 1000 * policy.delay) }) ∧
          (policy.delay = 0 → power = .off ∨ power = .asleep →
            starts { first with
              state := .pulsing, due := some (s.now + 1000 * policy.width), outHigh := policy.activeHigh }) ∧
          (policy.delay = 0 → power = .unknown →
            starts { first with state := .watching, due := some (s.now + 1000000 * policy.window) })))) ∧
  ∀ (k : TargetId) (s : State),
    let op := s.wakes[k.1]
    let policy := s.setups[k.1].policy
    let power := s.power[k.1].state
    let signal : Prop := s.tlines[k.1].link = .suspended ∧ policy.signal = true
    let v := requestWake k .focus s
    let starts (op' : WakeOp) : Prop :=
      Kept s v ∧ v.wakes = upd s.wakes k (fun _ => op') ∧ v.panel.view.waking = s.panel.view.waking.set k.1 true ∧
        v.focus = s.focus
    let first : WakeOp := { op with
      attempts := 1, method := some .pulse, policy := some policy, joined := [], answerFocus := true }
    (op.state ≠ .idle → v = modWake k (fun w => { w with answerFocus := true }) s) ∧
    (op.state = .idle → power = .on → v = post (.wakeAnswer k .ok) s) ∧
    (op.state = .idle → power ≠ .on →
      (¬signal → policy.pulse = false → v = post (.wakeAnswer k .noMethod) s) ∧
      (signal → starts { first with state := .signalling, method := some .signal, due := none } ∧
        v.tlines[k.1].resumeUntil = some (s.tlines[k.1].resumeUntil.getD (s.now + 20000))) ∧
      (¬signal → policy.pulse = true →
        (0 < policy.delay → starts { first with state := .delaying, due := some (s.now + 1000 * policy.delay) }) ∧
        (policy.delay = 0 → power = .off ∨ power = .asleep →
          starts { first with
            state := .pulsing, due := some (s.now + 1000 * policy.width), outHigh := policy.activeHigh }) ∧
        (policy.delay = 0 → power = .unknown →
          starts { first with state := .watching, due := some (s.now + 1000000 * policy.window) })))

/-- The deadlines of a wake operation act in their own phase once they are reached, and in no other case (log 3): the delay's end starts the pulse on a target that is OFF or ASLEEP and watches otherwise; the pulse's end watches with the output inactive; the window's end begins the next attempt, with the pulse where it is allowed, or ends the operation WAKE_FAILED at the retry limit or with no usable method. The third agreeing sample that makes the target ON ends a running operation OK, after the composer and the panel scanner have taken the change and before the focus controller takes it, and that report is taken before the wake's OK (these orders are logs 43 and 55, the model's choices). An operation that ends completes its joined cells with its outcome, its attempt number, its method and the power state (its code is log 20, the model's choice), tells the focus controller when it asked, leaves the panel's WAKING view and is IDLE with its output inactive. -/
def Obligations.WakeDeadlinesAct : Prop :=
  ∀ (t : Nat) (k : TargetId) (s : State), s.live →
    let u := s.advance t
    let op := s.wakes[k.1]
    let policy := op.policy.getD s.setups[k.1].policy
    let phaseEnds (st : WakeState) : Prop := op.state = st ∧ ∃ d, op.due = some d ∧ d ≤ u.now
    let signal : Prop := s.tlines[k.1].link = .suspended ∧ policy.signal = true
    let enters (w : WakeOp) : Host.Outcome State Fault Refusal := .next (noticeOf (.power k) (modWake k (fun _ => w) u))
    let watching : WakeOp := { op with state := .watching, due := some (u.now + 1000000 * policy.window) }
    let pulsing : WakeOp := { op with
      state := .pulsing, due := some (u.now + 1000 * policy.width), outHigh := policy.activeHigh }
    let idle : WakeOp := { op with
      state := .idle, policy := none, due := none, joined := [], answerFocus := false,
      outHigh := !s.setups[k.1].policy.activeHigh }
    let asks : Prop := s.power[k.1].state = .off ∨ s.power[k.1].state = .asleep
    let data (r : Result) (power : Power) : List Byte :=
      [byte k.1, r.code, byte op.attempts, methodCode op.method, power.code]
    (phaseEnds .delaying →
      (asks → exec (.pulseDelayEnd t k) s = enters pulsing) ∧ (¬asks → exec (.pulseDelayEnd t k) s = enters watching)) ∧
    (¬phaseEnds .delaying → exec (.pulseDelayEnd t k) s = .next u) ∧
    (phaseEnds .pulsing → exec (.pulseEnd t k) s = enters { watching with outHigh := !policy.activeHigh }) ∧
    (¬phaseEnds .pulsing → exec (.pulseEnd t k) s = .next u) ∧
    (¬phaseEnds .watching → exec (.wakeWindowExpiry t k) s = .next u) ∧
    (phaseEnds .watching →
      let next (m : Method) (w : WakeOp) (v : State) : Prop :=
        exec (.wakeWindowExpiry t k) s = .next v ∧ Kept u v ∧
          v.wakes = upd s.wakes k (fun _ => { w with attempts := op.attempts + 1, method := some m })
      (op.attempts < policy.retry → policy.pulse = true →
        (0 < policy.delay →
          ∃ v, next .pulse { op with state := .delaying, due := some (u.now + 1000 * policy.delay) } v) ∧
        (policy.delay = 0 → asks → ∃ v, next .pulse pulsing v) ∧
        (policy.delay = 0 → ¬asks → ∃ v, next .pulse watching v)) ∧
      (op.attempts < policy.retry → policy.pulse = false → signal →
        ∃ v, next .signal { op with state := .signalling, due := none } v ∧ v.tlines[k.1].resumeUntil ≠ none) ∧
      (policy.retry ≤ op.attempts ∨ (policy.pulse = false ∧ ¬signal) →
        let v := settle (endWake k .wakeFailed u)
        exec (.wakeWindowExpiry t k) s = .next v ∧ Kept u v ∧
          (∀ c ∈ op.joined, s.xm.entry c ≠ none → v.cellDone c .wakeFailed (data .wakeFailed s.power[k.1].state)) ∧
          (∀ c ∈ op.joined, v.xm.entry c = none) ∧
          (op.answerFocus = false → v.wakes = upd s.wakes k (fun _ => idle)))) ∧
    (∀ result : Int, s.senseSlot = k → s.runState ≠ .starting → s.fittedTarget k = true →
      s.power[k.1].state ≠ .on → s.power[k.1].runLevel = some .on → 2 ≤ s.power[k.1].runCount →
      s.setups[k.1].high ≤ sampleOf s.setups[k.1].falling result → op.state ≠ .idle →
      let changed := modPower k (fun _ =>
        { state := .on, sample := sampleOf s.setups[k.1].falling result, runLevel := none, runCount := 0 })
        { u with senseSlot := k + 1 }
      let told := powerToPanel k .on
        (powerToComposer k s.power[k.1].state .on (post (.power k .on) (noticeOf (.power k) changed)))
      let v := settle (endWake k .ok told)
      exec (.powerSample t result) s = .next v ∧ Kept changed v ∧ told.wakes = s.wakes ∧
        (∀ c ∈ op.joined, s.xm.entry c ≠ none → v.cellDone c .ok (data .ok .on)) ∧ ∀ c ∈ op.joined, v.xm.entry c = none) ∧
    ∀ r : Result,
      let v := endWake k r s
      v.wakes = upd s.wakes k (fun _ => idle) ∧ Kept s v ∧ v.panel.view.waking = s.panel.view.waking.set k.1 false ∧
        v.focus = { s.focus with inbox := if op.answerFocus then [.wakeAnswer k r] else [] } ∧
        (∀ c ∈ op.joined, v.xm.entry c = none) ∧
        ∀ c ∈ op.joined, s.xm.entry c ≠ none → v.cellDone c r (data r s.power[k.1].state)

/-! ### The panel scanner -/

/-- A slot of the panel scan, once the clear is done: each key of the drive line takes its reading, a third reading that differs changes it and sets its long-press deadline or removes it, NOTIFY and HOST keys count their events, and the six indicators of the slot are lit by condition, gate and intensity as they stand at its start, before the readings. A key that becomes DOWN raises its action: a focus request from PANEL, a SHARE, RESTORE or wake request with no cell, the other value of pin, or the event of a NOTIFY or HOST key, whose release a HOST key reports too; each event is the mirror's last one, with its notice. The long-press deadline, once reached, makes a key HELD; a FOCUS key then asks for a wake of its target, by the resume signal or the pulse, and any other raises nothing. -/
def Obligations.PanelKeysFollowReadings : Prop :=
  (∀ (t : Nat) (levels : BitVec 6) (s : State), s.live →
    let u := s.advance t
    let d := s.panel.nextDrive
    let reports (k : PanelKey) (down : Bool) : Bool :=
      decide (k.action = .host) || (down && decide (k.action = .notify))
    let after (k : PanelKey) (pressed : Bool) : PanelKey :=
      if pressed = decide (k.state ≠ .up) then { k with debounce := 0 }
      else if k.debounce < 2 then { k with debounce := k.debounce + 1 }
      else { k with
        state := if pressed then .down else .up, debounce := 0,
        longDue := if pressed then some (u.now + 1000000) else none,
        events := if reports k pressed then k.events + 1 else k.events }
    (s.runState = .starting → exec (.panelSlot t levels) s = .next u) ∧
    (s.runState ≠ .starting →
      (let glows (p : PosId) : Bool :=
         s.panel.inds[p.1].condition s.panel.view &&
           s.panel.inds[p.1].pattern.gate ((u.now - s.panel.phaseStart) / 1000 % 1000)
       let shown := mapVec s.panel.lit fun p old =>
         if p.1 / 6 = d.1 then (if glows p then s.panel.inds[p.1].intensity else 0) else old
       let lit : State := { u with panel := { u.panel with lit := shown } }
       let all := (ids 6).foldl (fun w r => readKey (positionOf d r) (levels.getLsbD r.1) w) lit
       exec (.panelSlot t levels) s = .next (settle { all with panel := { all.panel with nextDrive := d + 1 } })) ∧
      ∃ v, exec (.panelSlot t levels) s = .next v ∧
        (∀ p : PosId, v.panel.keys[p.1] =
          if p.1 / 6 = d.1 then after s.panel.keys[p.1] (levels.getLsbD (p.1 % 6)) else s.panel.keys[p.1]) ∧
        (∀ p : PosId, v.panel.lit[p.1] =
          if p.1 / 6 = d.1 then
            let i := s.panel.inds[p.1]
            if i.condition s.panel.view = true ∧ i.pattern.gate ((u.now - s.panel.phaseStart) / 1000 % 1000) = true
            then i.intensity else 0
          else s.panel.lit[p.1]) ∧
        Kept { u with panel := { u.panel with
          keys := v.panel.keys, lit := v.panel.lit, lastEvent := v.panel.lastEvent, nextDrive := d + 1 } } v)) ∧
  (∀ (p : PosId) (s : State),
    let k := s.panel.keys[p.1]
    let pressed : Bool := decide (k.state ≠ .up)
    let event (release : Bool) (w : State) : State :=
      let e := modPanelKey p (fun k => { k with events := k.events + 1 }) w
      notice .panel { e with panel := { e.panel with lastEvent := some (p, release) } }
    readKey p pressed s = modPanelKey p (fun k => { k with debounce := 0 }) s ∧
    (k.debounce < 2 → readKey p (!pressed) s = modPanelKey p (fun k => { k with debounce := k.debounce + 1 }) s) ∧
    (2 ≤ k.debounce → k.state = .up →
      let w := modPanelKey p (fun k => { k with state := .down, debounce := 0, longDue := some (s.now + 1000000) }) s
      let v := rewriteMirror .panel w
      let asks (r : FocusReq) : State := settle (post (.request .panel r) v)
      (∀ c : TargetId, k.action = .focus → k.ops.target.toNat = c.1 → readKey p true s = asks (.target c)) ∧
      (k.action = .focusNext → readKey p true s = asks .next) ∧ (k.action = .focusPrev → readKey p true s = asks .prev) ∧
      (k.action = .focusToggle → readKey p true s = asks .toggle) ∧
      (k.action = .share → readKey p true s = settle (shareRequest k.ops v)) ∧
      (k.action = .restore → readKey p true s = settle (restoreRequest k.ops v)) ∧
      (k.action = .wake → readKey p true s = settle (wakeRequest k.ops v)) ∧
      (k.action = .pinToggle →
        readKey p true s = focusToPanel (notice .focus { v with focus := { v.focus with pin := !s.focus.pin } })) ∧
      (k.action = .notify ∨ k.action = .host → readKey p true s = event false w) ∧
      (k.action = .nothing → readKey p true s = v)) ∧
    (2 ≤ k.debounce → k.state ≠ .up →
      let w := modPanelKey p (fun k => { k with state := .up, debounce := 0, longDue := none }) s
      (k.action = .host → readKey p false s = event true w) ∧
      (k.action ≠ .host → readKey p false s = rewriteMirror .panel w))) ∧
  ∀ (t : Nat) (p : PosId) (s : State), s.live →
    let u := s.advance t
    let k := s.panel.keys[p.1]
    let held := rewriteMirror .panel (modPanelKey p (fun k => { k with state := .held, longDue := none }) u)
    ((∀ d, k.longDue = some d → u.now < d) → exec (.longPressExpiry t p) s = .next u) ∧
    ∀ d, k.longDue = some d → d ≤ u.now →
      (k.action ≠ .focus → exec (.longPressExpiry t p) s = .next held) ∧
      (k.action = .focus →
        ∃ v, exec (.longPressExpiry t p) s = .next v ∧ Kept held v ∧ v = settle (wakeRequest k.ops held) ∧
          ((∀ c : TargetId, k.ops.target.toNat = c.1 → s.straps.targets ≤ c.1) → v = held) ∧
          (∀ c : TargetId, k.ops.target.toNat = c.1 → c.1 < s.straps.targets →
            let signal : Prop := s.tlines[c.1].link = .suspended ∧ s.setups[c.1].policy.signal = true
            (s.wakes[c.1].state = .idle → s.power[c.1].state ≠ .on →
              (signal → v.wakes[c.1].state = .signalling ∧ v.wakes[c.1].attempts = 1 ∧ v.wakes[c.1].joined = [] ∧
                v.wakes[c.1].method = some .signal ∧ v.tlines[c.1].resumeUntil ≠ none) ∧
              (¬signal → s.setups[c.1].policy.pulse = false → v = held)) ∧
            (s.power[c.1].state = .on ∨ s.wakes[c.1].state ≠ .idle → v = held) ∧
            (s.wakes[c.1].state = .idle → s.power[c.1].state ≠ .on → s.setups[c.1].policy.pulse = true →
              v.wakes[c.1].state ≠ .idle ∧ v.wakes[c.1].attempts = 1 ∧ v.wakes[c.1].joined = [])))

/-- The end of a PWM period loads the buffered duty as the working duty and starts the next period; the output is lit for the first working duty steps of each period of 256 and dark for the rest. Each report to the panel scanner sets its view, works out the buffered duties, and rewrites the PANEL mirror in place when the condition of an indicator changes; a condition and a pattern's gate are as their sources and patterns say. -/
def Obligations.TallyPeriodLoadsDuty : Prop :=
  (∀ s : State,
    let old := s.panel.view
    let told (view : PanelView) : State :=
      let p : Panel := { s.panel with
        view := view
        tallies := mapVec s.panel.tallies fun sc c => { c with buffered :=
          if sc.1 < s.straps.screens then
            match view.focus with
            | .focused k => if view.plans[sc.1].shows k then s.panel.focusDuty else s.panel.idleDuty
            | _ => s.panel.idleDuty
          else 0 } }
      if ∀ i : PosId, s.panel.inds[i.1].condition view = s.panel.inds[i.1].condition old then { s with panel := p }
      else rewriteMirror .panel { s with panel := p }
    focusToPanel s = told { old with focus := s.focus.st, pin := s.focus.pin } ∧
    (∀ (k : TargetId) (v : Power), powerToPanel k v s = told { old with power := old.power.set k.1 v }) ∧
    (∀ (k : TargetId) (v : Bool), wakingToPanel k v s = told { old with waking := old.waking.set k.1 v }) ∧
    ∀ sc : ScreenId, planToPanel sc s = told { old with
      loaned := old.loaned.set sc.1 (!decide (s.comp.screens[sc.1].loans = []))
      plans := old.plans.set sc.1 s.comp.screens[sc.1].active }) ∧
  (∀ (i : Indicator) (v : PanelView),
    (i.source = .nothing → i.condition v = false) ∧
    (i.source = .focus → (i.condition v = true ↔ ∃ k, v.focus.target = some k ∧ i.operand.toNat = k.1)) ∧
    (i.source = .power → (i.condition v = true ↔ ∃ k : TargetId, i.operand.toNat = k.1 ∧ v.power[k.1] = .on)) ∧
    (i.source = .waking → (i.condition v = true ↔ ∃ k : TargetId, i.operand.toNat = k.1 ∧ v.waking[k.1] = true)) ∧
    (i.source = .screenLoaned → (i.condition v = true ↔ ∃ sc : ScreenId, i.operand.toNat = sc.1 ∧ v.loaned[sc.1] = true)) ∧
    (i.source = .pin → i.condition v = v.pin) ∧ (i.source = .host → i.condition v = i.hostLevel)) ∧
  (∀ n : Nat,
    Pattern.gate n .steady = true ∧ (Pattern.gate n .slow = true ↔ n ≤ 499) ∧ (Pattern.gate n .fast = true ↔ n % 250 ≤ 124)) ∧
  (∀ (t : Nat) (sc : ScreenId) (s : State), s.live →
    exec (.tallyPeriodEnd t sc) s =
      .next (let u := s.advance t
        { u with panel := { u.panel with
          tallies := upd u.panel.tallies sc fun c => { c with working := c.buffered, periodStart := u.now } } })) ∧
  ∀ (sc : ScreenId) (s : State), s.resetAsserted = false →
    (s.tallyLit sc = true ↔ (s.now - s.panel.tallies[sc.1].periodStart) % 256 < s.panel.tallies[sc.1].working)

/-- PANEL_MAP_LOAD: the first position that fails the range pass (its action, an operand its action uses, its indicator source, that source's operand, its intensity, its pattern), then the fitting pass (a target, screen or head that is not fitted), refuses it with no other effect; otherwise every position takes its action, operands and indicator with host level off, the key states stay, the PANEL notice is raised, and it completes OK with the number of positions that have an action. -/
def Obligations.PanelMapLoadReplacesMap : Prop :=
  ∀ (t : Nat) (c : CellId) (s : State), s.commandReady c 0x0E →
    let u := take c (s.advance t)
    let b (i : PosId) (j : Nat) : Byte := s.xm.mem.read (0x1000 + 12 * i.1 + j)
    let n (i : PosId) (j : Nat) : Nat := (b i j).toNat
    let names (i : PosId) : Prop := n i 0 = 1 ∨ n i 0 = 7
    let follows (i : PosId) : Prop := n i 6 = 1 ∨ n i 6 = 2 ∨ n i 6 = 3
    let tiles (i : PosId) : Nat := [1, 2, 2, 4, 3].getD (n i 4) 0
    let outOfRange (i : PosId) : Prop :=
      11 ≤ n i 0 ∨ (names i ∧ 8 ≤ n i 1) ∨ (n i 0 = 6 ∧ 6 ≤ n i 2) ∨
        (n i 0 = 5 ∧ (8 ≤ n i 1 ∨ 6 ≤ n i 2 ∨ 5 ≤ n i 4 ∨ tiles i ≤ n i 3 ∨ 2 ≤ n i 5)) ∨
        7 ≤ n i 6 ∨ (follows i ∧ 8 ≤ n i 7) ∨ (n i 6 = 4 ∧ 6 ≤ n i 7) ∨ 15 < n i 8 ∨ 3 ≤ n i 9
    let unfitted (i : PosId) : Prop :=
      (names i ∧ s.straps.targets ≤ n i 1) ∨ (n i 0 = 6 ∧ s.straps.screens ≤ n i 2) ∨
        (n i 0 = 5 ∧ (s.straps.targets ≤ n i 1 ∨ s.straps.screens ≤ n i 2 ∨
          (n i 5 = 1 ∧ ∃ k : TargetId, n i 1 = k.1 ∧ s.setups[k.1].headB = false))) ∨
        (follows i ∧ s.straps.targets ≤ n i 7) ∨ (n i 6 = 4 ∧ s.straps.screens ≤ n i 7)
    (∀ i, outOfRange i → (∀ j < i, ¬outOfRange j) →
      exec (.panelMapLoad t c) s = .next (complete c .badParam [byte i.1] u)) ∧
    ((∀ i, ¬outOfRange i) →
      (∀ i, unfitted i → (∀ j < i, ¬unfitted j) →
        exec (.panelMapLoad t c) s = .next (complete c .notFitted [byte i.1] u)) ∧
      ((∀ i, ¬unfitted i) →
        let action (i : PosId) : Action := (Action.ofByte (b i 0)).getD .nothing
        let keys := mapVec u.panel.keys fun i k => { k with
          action := action i,
          ops := { target := b i 1, screen := b i 2, tile := b i 3, layout := b i 4, head := b i 5 } }
        let inds : Vector Indicator 24 := Vector.ofFn fun i =>
          { source := (IndSource.ofByte (b i 6)).getD .nothing, operand := b i 7, intensity := (b i 8).toNat,
            pattern := (Pattern.ofByte (b i 9)).getD .steady, hostLevel := false }
        exec (.panelMapLoad t c) s =
          .next (complete c .ok [byte ((ids 24).filter fun i => decide (action i ≠ .nothing)).length]
            (notice .panel { u with panel := { u.panel with keys := keys, inds := inds } }))))

/-- INDICATOR_SET: BAD_PARAM for a position, a source, an operand, an intensity, a pattern or a host level out of range, NOT_FITTED for an operand that names what is not fitted; otherwise the position's indicator takes the five fields, the PANEL mirror is rewritten in place, and it completes OK with its parameters. -/
def Obligations.IndicatorSetWritesIndicator : Prop :=
  ∀ (t : Nat) (c : CellId) (s : State), s.commandReady c 0x0F →
    let u := take c (s.advance t)
    let p (i : Nat) : Byte := s.param c i
    let n (i : Nat) : Nat := (s.param c i).toNat
    let ofTarget : Prop := n 1 = 1 ∨ n 1 = 2 ∨ n 1 = 3
    let bad : Prop := 24 ≤ n 0 ∨ 7 ≤ n 1 ∨ (ofTarget ∧ 8 ≤ n 2) ∨ (n 1 = 4 ∧ 6 ≤ n 2) ∨ 15 < n 3 ∨ 3 ≤ n 4 ∨ 2 ≤ n 5
    let unfitted : Prop := (ofTarget ∧ s.straps.targets ≤ n 2) ∨ (n 1 = 4 ∧ s.straps.screens ≤ n 2)
    (bad → exec (.indicatorSet t c) s = .next (complete c .badParam [] u)) ∧
    (¬bad → unfitted → exec (.indicatorSet t c) s = .next (complete c .notFitted [] u)) ∧
    (¬bad → ¬unfitted → ∀ (i : PosId) (src : IndSource) (pat : Pattern), n 0 = i.1 → p 1 = src.code → p 4 = pat.code →
      exec (.indicatorSet t c) s =
        .next (complete c .ok [p 0, p 1, p 2, p 3, p 4, p 5]
          (rewriteMirror .panel { u with panel := { u.panel with
            inds := upd u.panel.inds i fun _ =>
              { source := src, operand := p 2, intensity := n 3, pattern := pat, hostLevel := decide (p 5 = 1) } } })))

/-! ### The exchange port and the sweeper -/

/-- A host write. A memory word takes the word written, its low byte at the even address; a byte of the notice summary becomes 0 where 0 is written and stays otherwise; while the run state is STARTING, while a copy holds the word's slot, and behind a write that waits already (log 12), the write waits, and it is made when the hold has ended: at HELD_ACCESS_RELEASE the oldest, and before a hold of a slot begins all those, from the oldest on, that no bank stretches any more (log 12). A word beside the mirrors, which the part never writes, is stored like any other (log 39, the model's choice). -/
def Obligations.HostWritesStoreOrWait : Prop :=
  ∀ (t : Nat) (a : BitVec 14) (v : Word16) (s : State), s.live →
    let u := s.advance t
    let b := 2 * a.toNat
    let slotHeld (b : Nat) : Prop := ∃ h : HeadId, 0x2600 + 256 * h.1 ≤ b ∧ b < 0x2600 + 256 * h.1 + 256 ∧
      ∃ c, s.served[h.1].copy = some c ∧ c.rep.source = .slot
    let waits : Prop := s.runState = .starting ∨ slotHeld b ∨ s.xm.waiting ≠ []
    let stored (b : Nat) (v : Word16) (x : State) : Prop :=
      x = { u with xm := { u.xm with mem := x.xm.mem, waiting := x.xm.waiting } } ∧
      (∀ i, i ≠ b → i ≠ b + 1 → x.xm.mem.read i = s.xm.mem.read i) ∧
      (¬(0x0400 ≤ b ∧ b < 0x0420) → x.xm.mem.word b = v) ∧
      (0x0400 ≤ b → b < 0x0420 →
        x.xm.mem.read b = (if v.extractLsb' 0 8 = 0 then 0 else s.xm.mem.read b) ∧
        x.xm.mem.read (b + 1) = (if v.extractLsb' 8 8 = 0 then 0 else s.xm.mem.read (b + 1)))
    let holds (c : Instr) : Prop :=
      (waits → exec c s =
        .next { u with xm := { u.xm with waiting := u.xm.waiting ++ [{ addr := a, value := v }] } }) ∧
      (¬waits → ∃ x, exec c s = .next x ∧ stored b v x ∧ x.xm.waiting = [])
    (b < 0x7FF8 → holds (.hostMemoryWrite t a v)) ∧
    (∀ w : Fin 16, b = 0x0400 + 2 * w.1 → holds (.summaryClear t w v)) ∧
    (s.xm.waiting = [] → exec (.heldAccessRelease t) s = .next u ∧ releaseReady u = u) ∧
    ∀ w ws, s.xm.waiting = w :: ws →
      (s.runState = .starting ∨ slotHeld (2 * w.addr.toNat) →
        exec (.heldAccessRelease t) s = .next u ∧ releaseReady u = u) ∧
      (s.runState ≠ .starting → ¬slotHeld (2 * w.addr.toNat) →
        ∃ x, exec (.heldAccessRelease t) s = .next x ∧ stored (2 * w.addr.toNat) w.value x ∧ x.xm.waiting = ws ∧
          releaseReady u = releaseReady x)

/-- A sweep request, by ATTENTION or the sweep timer once it is due, starts a sweep when the sweep state is IDLE and the run state RUNNING, and sets the pending flag otherwise; as many visits or restart steps follow within the command as its pace says, the first of `paces`, and 512 where none is listed (log 4, the model's choice). A SWEEP_TIMER_EXPIRY that comes before its deadline, or with none held, changes nothing, and one that comes late acts (log 3, the model's choice). A sweep visits cells 0 to 15 in index order, one a tick: a cell not READY is passed by; a READY one is taken and does what the row of its command does; a kind not in the catalogue completes UNKNOWN_KIND; a RESTART ends the sweep. After cell 15 a set pending flag starts one more sweep. The row of a cell that is not READY with its kind does nothing (log 5). -/
def Obligations.SweepsVisitReadyCells : Prop :=
  (∀ (t : Nat) (s : State), s.live →
    let u := s.advance t
    let noneReady : Prop := ∀ c : CellId, s.xm.entry c = none → s.xm.mem.read (64 * c.1 + 2) ≠ 1
    let timed : Option Nat := match s.xm.sweepDue, s.xm.sweepPeriod with
      | some d, .ms1 => some (d + 1000)
      | some d, .ms2 => some (d + 2000)
      | some d, .ms5 => some (d + 5000)
      | some d, .ms10 => some (d + 10000)
      | _, _ => none
    let n := s.paces.headD 512
    let asked (c : Instr) (due : Option Nat) : Prop :=
      let flagged : State := { u with paces := s.paces.tail, xm := { u.xm with pendingSweep := true, sweepDue := due } }
      let started : State := { u with paces := s.paces.tail, xm := { u.xm with
        sweepState := .sweeping 0, sweepCount := s.xm.sweepCount + 1, sweepDue := due } }
      (s.runState ≠ .running ∨ s.xm.sweepState ≠ .idle → exec c s = .next (Nat.repeat tick n flagged)) ∧
      (s.runState = .running → s.xm.sweepState = .idle →
        exec c s = .next (Nat.repeat tick n started) ∧
        (noneReady → 16 ≤ n → (s.xm.pendingSweep = true → 32 ≤ n) →
          exec c s = .next { u with paces := s.paces.tail, xm := { u.xm with
            sweepState := .idle, pendingSweep := false, sweepDue := due,
            sweepCount := if s.xm.pendingSweep then s.xm.sweepCount + 2 else s.xm.sweepCount + 1 } }))
    (∀ v, asked (.attention t v) s.xm.sweepDue) ∧
    (∀ d, s.xm.sweepDue = some d → d ≤ u.now → asked (.sweepTimerExpiry t) timed) ∧
    ((∀ d, s.xm.sweepDue = some d → u.now < d) → exec (.sweepTimerExpiry t) s = .next u) ∧
    (∀ (i : Instr) (c : CellId) (kind : Byte), i.time = t → cellRow i = some (c, kind) →
      (s.commandReady c kind → exec i s = .next (visit c u)) ∧ (¬s.commandReady c kind → exec i s = .next u)) ∧
    ∀ c : CellId,
      (∀ kind, s.commandReady c kind → kind = 0 ∨ 0x10 < kind.toNat →
        exec (.unknownKind t c) s = .next (complete c .unknownKind [] (take c u))) ∧
      ((∀ kind : Byte, kind = 0 ∨ 0x10 < kind.toNat → ¬s.commandReady c kind) → exec (.unknownKind t c) s = .next u)) ∧
  ∀ s : State, s.live →
    let idle : Prop := ∀ c k, s.runState ≠ .restarting c k
    (idle → s.xm.sweepState = .idle → tick s = s) ∧
    ∀ c : CellId, idle → s.xm.sweepState = .sweeping c →
      let goesOn (v : State) : State :=
        if c.1 < 15 then { v with xm := { v.xm with sweepState := .sweeping (c + 1) } }
        else if v.xm.pendingSweep then
          { v with xm := { v.xm with
            pendingSweep := false, sweepState := .sweeping 0, sweepCount := v.xm.sweepCount + 1 } }
        else { v with xm := { v.xm with sweepState := .idle } }
      ((∀ kind, ¬s.commandReady c kind) → tick s = goesOn s) ∧
      (∀ (i : Instr) (kind : Byte) (v : State), i.time = s.now → cellRow i = some (c, kind) → s.commandReady c kind →
        exec i s = .next v → tick s = goesOn v) ∧
      (∀ kind, s.commandReady c kind → kind = 0 ∨ 0x10 < kind.toNat →
        tick s = goesOn (complete c .unknownKind [] (take c s))) ∧
      (s.commandReady c 0x10 →
        let v := take c s
        tick s = { v with runState := .restarting c 0, xm := { v.xm with sweepState := .idle, pendingSweep := true } })

/-- A write to LINE_CONTROL takes the NOTE_N enable from bit 0 and the sweep period from bits 8 to 11; a code that names no period leaves it, and a change of it restarts the sweep timer (not while the run state is STARTING, log 24). A write to STATUS or IDENT is ignored. STATUS reads the run state, the sweep state, the pending flag and the straps in their bits, at once in every run state; LINE_CONTROL reads its two fields, ATTENTION 0 and IDENT 0x0186; a memory word is read as it stands, or waits while the run state is STARTING, while its bank is held, or behind a write that waits (log 12). NOTE_N is asserted while it is enabled and a summary byte is not 0, and WAIT_N while an access is stretched. -/
def Obligations.LineControlTakesBothFields : Prop :=
  (∀ (t : Nat) (v : Word16) (s : State), s.live →
    let u := s.advance t
    let code := (v.extractLsb' 8 4).toNat
    let enabled : State := { u with xm := { u.xm with noteEnable := v.getLsbD 0 } }
    (∀ r, exec (.registerWriteIgnored t r v) s = .next u) ∧
    (5 ≤ code ∨ code = s.xm.sweepPeriod.code.toNat → exec (.lineControl t v) s = .next enabled) ∧
    ∀ (p : SweepPeriod) (length : Option Nat), code = p.code.toNat → p ≠ s.xm.sweepPeriod →
      length = (match p with
        | .off => none
        | .ms1 => some 1000
        | .ms2 => some 2000
        | .ms5 => some 5000
        | .ms10 => some 10000) →
      exec (.lineControl t v) s =
        .next { enabled with xm := { enabled.xm with
          sweepPeriod := p,
          sweepDue := if s.runState = .starting then none else length.map fun n => u.now + n } }) ∧
  ∀ s : State,
    let status := s.statusWord
    let control := s.lineControlWord
    let slotHeld (b : Nat) : Prop := ∃ h : HeadId, 0x2600 + 256 * h.1 ≤ b ∧ b < 0x2600 + 256 * h.1 + 256 ∧
      ∃ c, s.served[h.1].copy = some c ∧ c.rep.source = .slot
    status.extractLsb' 0 2 = (match s.runState with
      | .starting => 0
      | .running => 1
      | .restarting _ _ => 2) ∧
    (status.getLsbD 2 = true ↔ ∃ c, s.xm.sweepState = .sweeping c) ∧
    status.getLsbD 3 = s.xm.pendingSweep ∧
    (s.strapsLegal → (status.extractLsb' 4 4).toNat = s.straps.screens ∧ (status.extractLsb' 8 4).toNat = s.straps.targets) ∧
    (∀ i, 12 ≤ i → status.getLsbD i = (decide (i = 12) && s.straps.glide)) ∧
    control.getLsbD 0 = s.xm.noteEnable ∧ control.extractLsb' 8 4 = s.xm.sweepPeriod.code ∧
    (∀ i, 1 ≤ i → i < 8 ∨ 12 ≤ i → control.getLsbD i = false) ∧
    [SweepPeriod.off, .ms1, .ms2, .ms5, .ms10].map SweepPeriod.code = [0, 1, 2, 3, 4] ∧
    (s.noteN = true ↔ s.xm.noteEnable = true ∧ ∃ g < 22, s.xm.mem.read (0x0400 + g) ≠ 0) ∧
    (s.waitN = true ↔ s.xm.waiting ≠ []) ∧
    ∀ a : BitVec 14,
      (s.resetAsserted = true → s.hostRead a = .unanswered) ∧
      (s.resetAsserted = false →
        (2 * a.toNat = 0x7FF8 → s.hostRead a = .word status) ∧ (2 * a.toNat = 0x7FFA → s.hostRead a = .word 0) ∧
        (2 * a.toNat = 0x7FFC → s.hostRead a = .word control) ∧ (2 * a.toNat = 0x7FFE → s.hostRead a = .word 0x0186) ∧
        (2 * a.toNat < 0x7FF8 →
          let waits : Prop := s.runState = .starting ∨ slotHeld (2 * a.toNat) ∨ s.xm.waiting ≠ []
          (waits → s.hostRead a = .waits) ∧
          (¬waits → s.hostRead a =
            .word (s.xm.mem.read (2 * a.toNat + 1) ++ s.xm.mem.read (2 * a.toNat)))))

/-! ### Reset, start-up and restart -/

/-- RESTART, taken from its cell: the sweep ends, the pending flag is set, the run state is RESTARTING, and each tick makes the next step, as many within the command as its pace says, so that commands can come between two steps (log 4, the model's choice). Its first eight steps leave every wake operation IDLE, no staged plan, no cell waiting on a read, a replacement or focus, every line SILENT in its 10 ms reset condition, the matcher IDLE, focus NONE, only release reports queued, the cursor still at the centre of the lowest-numbered enabled screen (but placed for the focus target where a focus request after step 5 has made it FOCUSED off its tiles: log 45, the model's choice; where none is enabled the current tile keeps its number, log 50, the model's choice; the centring rewrites no mirror, which is left to the eighth step, log 57, the model's choice), every mirror rewritten from its owners' state and every summary byte 1, the words after the mirrors as they were (log 54, the model's choice); steps 1, 2, 3 and 5 complete the cells they end ABORTED. Each step does its own part of this and leaves the rest; the ninth completes its own cell, OK when no other work has it waiting, and the run state is RUNNING with a sweep started. The row has no effect on a cell that is not READY with this kind, and leaves the sweep count as it was until then (log 5, the model's choice). -/
def Obligations.RestartDoesBlocksWork : Prop :=
  (∀ (t : Nat) (c : CellId) (s : State), s.live →
    let u := s.advance t
    let v := take c { u with paces := s.paces.tail }
    let begun : State := { v with
      runState := .restarting c 0, xm := { v.xm with sweepState := .idle, pendingSweep := true } }
    let r := Nat.repeat tick 8 begun
    let waitsOnNothing : Prop :=
      (∀ k : TargetId, c ∉ s.wakes[k.1].joined) ∧ c ∉ s.focus.waiting ∧
      (∀ sc : ScreenId, c ∉ s.idents[sc.1].waiting ∧ ∀ g, s.comp.screens[sc.1].staged = some g → c ∉ g.cells) ∧
      ∀ h : HeadId, s.served[h.1].completing ≠ some c ∧ (∀ p, s.served[h.1].pending = some p → p.cell ≠ some c) ∧
        ∀ p, s.served[h.1].copy = some p → p.rep.cell ≠ some c
    (¬s.commandReady c 0x10 → exec (.restart t c) s = .next u) ∧
    (s.commandReady c 0x10 →
      exec (.restart t c) s = .next (Nat.repeat tick (s.paces.headD 512) begun) ∧
      (let done := complete c .ok [] r
       Nat.repeat tick 9 begun = { done with
         runState := .running
         xm := { done.xm with pendingSweep := false, sweepState := .sweeping 0, sweepCount := s.xm.sweepCount + 1 } } ∧
       done.xm.entry c = none ∧ done.xm.mem.read (64 * c.1 + 2) = 3 ∧
       (waitsOnNothing → r.xm.entry c ≠ none ∧ r.xm.mem.read (64 * c.1 + 2) = 2 ∧ done.cellDone c .ok [])) ∧
      r.runState = .restarting c 8 ∧ r.xm.pendingSweep = true ∧ r.xm.sweepState = .idle ∧
      r.xm.sweepCount = s.xm.sweepCount ∧
      (∀ g < 22, r.xm.mem.read (0x0400 + g) = 1) ∧
      (∀ a, 0x0C00 ≤ a → r.xm.mem.read a = s.xm.mem.read a) ∧
      (let aborted (cells : List CellId) : Prop := ∀ d ∈ cells, s.xm.entry d ≠ none →
         r.xm.entry d = none ∧ r.xm.mem.read (64 * d.1 + 2) = 3 ∧ r.xm.mem.read (64 * d.1 + 4) = Result.aborted.code
       (∀ k : TargetId, s.wakes[k.1].state ≠ .idle → aborted s.wakes[k.1].joined) ∧
       (∀ (sc : ScreenId) g, s.comp.screens[sc.1].staged = some g → aborted g.cells) ∧
       (∀ sc : ScreenId, aborted s.idents[sc.1].waiting) ∧
       (∀ h : HeadId, aborted s.served[h.1].completing.toList ∧
         (∀ p, s.served[h.1].pending = some p → aborted p.cell.toList) ∧
         ∀ p, s.served[h.1].copy = some p → aborted p.rep.cell.toList) ∧
       aborted s.focus.waiting) ∧
      (let q := r.cur.cursor
       (∀ sc : ScreenId, s.cur.geo[sc.1].enabled = true → (∀ j < sc, s.cur.geo[j.1].enabled = false) →
         q.x = s.cur.geo[sc.1].x + s.cur.geo[sc.1].w / 2 ∧ q.y = s.cur.geo[sc.1].y + s.cur.geo[sc.1].h / 2 ∧
         (0 < s.cur.geo[sc.1].w → 0 < s.cur.geo[sc.1].h →
           q.screen = some sc ∧ ∃ a, r.tileRect sc q.tile = some a ∧ a.contains q.x q.y = true)) ∧
       ((∀ sc : ScreenId, s.cur.geo[sc.1].enabled = false) →
         q.x = s.cur.cursor.x ∧ q.y = s.cur.cursor.y ∧ q.screen = none)) ∧
      (∀ k : TargetId, r.wakes[k.1].state = .idle ∧ r.wakes[k.1].joined = [] ∨ s.wakes[k.1].state = .idle ∧ r.wakes[k.1] = s.wakes[k.1]) ∧
      (∀ k : TargetId, r.tlines[k.1].resumeUntil = none ∧
        (s.fittedTarget k = true → ∀ e ∈ r.tlines[k.1].queue, e.origin = .release)) ∧
      (∀ sc : ScreenId, r.comp.screens[sc.1] = { s.comp.screens[sc.1] with staged := none } ∧ r.idents[sc.1].waiting = []) ∧
      (∀ h : HeadId, r.served[h.1].completing = none ∧ r.served[h.1].store = s.served[h.1].store ∧
        (∀ p, r.served[h.1].pending = some p → p.cell = none) ∧ ∀ p, r.served[h.1].copy = some p → p.rep.cell = none) ∧
      r.desk =
        { lines := s.desk.lines.map fun l => { l with
            cls := .silent, lastKeys := Keys.empty, rollover := false, buttons := 0, resetUntil := some (u.now + 10000) }
          keys := Keys.empty
          merged := 0 } ∧
      r.hot = { s.hot with state := .idle } ∧
      r.focus = { s.focus with
        st := .nobody, waiting := [], wakeOut := false, bringOut := none, masked := Keys.empty,
        previous := s.focus.st.target.orElse fun _ => s.focus.previous,
        count := if s.focus.st.target.isSome then s.focus.count + 1 else s.focus.count,
        source := if s.focus.st.target.isSome then some .restart else s.focus.source } ∧
      r.cur.cursor.rx = 0 ∧ r.cur.cursor.ry = 0 ∧ r.cur.cursor.dwell = .clear ∧ r.cur.deskButtons = 0 ∧
      r.cur.geo = s.cur.geo ∧ r.cur.settings = s.cur.settings ∧ r.heads = s.heads ∧ r.power = s.power ∧
      r.setups = s.setups ∧ r.straps = s.straps ∧ r.panel.keys = s.panel.keys ∧ r.panel.inds = s.panel.inds)) ∧
  ∀ (c : CellId) (k : Fin 9) (s : State), s.live → s.runState = .restarting c k →
    let steps : List (State → State) :=
      [restartWakes, discardStaged, restartIdentity, restartDesk, restartFocus, restartQueues, restartCursor, restartNotices]
    (∀ (f : State → State) (h : k.1 < 8), steps[k.1]? = some f →
      tick s = settle { f s with runState := .restarting c ⟨k.1 + 1, by omega⟩ }) ∧
    (k.1 < 8 →
      let w := tick s
      let on : State := { s with runState := w.runState }
      let aborted (cells : List CellId) : Prop := ∀ d ∈ cells, s.xm.entry d ≠ none →
        w.xm.entry d = none ∧ w.xm.mem.read (64 * d.1 + 2) = 3 ∧ w.xm.mem.read (64 * d.1 + 4) = Result.aborted.code
      (∃ j, w.runState = .restarting c j ∧ j.1 = k.1 + 1) ∧
      (k = 0 → Kept on w ∧
        (∀ i : TargetId, w.tlines[i.1].resumeUntil = none ∧ w.wakes[i.1] =
          if s.wakes[i.1].state = .idle then s.wakes[i.1]
          else { s.wakes[i.1] with
            state := .idle, policy := none, due := none, joined := [], answerFocus := false,
            outHigh := !s.setups[i.1].policy.activeHigh }) ∧
        ∀ i : TargetId, s.wakes[i.1].state ≠ .idle → aborted s.wakes[i.1].joined) ∧
      (k = 1 → Kept on w ∧ (∀ sc : ScreenId, w.comp.screens[sc.1] = { s.comp.screens[sc.1] with staged := none }) ∧
        ∀ (sc : ScreenId) g, s.comp.screens[sc.1].staged = some g → aborted g.cells) ∧
      (k = 2 → Kept { on with idents := w.idents, served := w.served } w ∧
        (∀ sc : ScreenId, w.idents[sc.1] = { s.idents[sc.1] with waiting := [] } ∧ aborted s.idents[sc.1].waiting) ∧
        ∀ h : HeadId,
          w.served[h.1] = { s.served[h.1] with
            pending := s.served[h.1].pending.filter fun p => p.cell.isNone
            copy := s.served[h.1].copy.map fun p => { p with rep := { p.rep with cell := none } }
            completing := none } ∧
          aborted s.served[h.1].completing.toList ∧
          (∀ p, s.served[h.1].pending = some p → aborted p.cell.toList) ∧
          ∀ p, s.served[h.1].copy = some p → aborted p.rep.cell.toList) ∧
      (k = 3 → Kept { on with desk := w.desk, hot := w.hot } w ∧ w.hot = { s.hot with state := .idle } ∧
        w.desk =
          { lines := s.desk.lines.map fun l => { l with
              cls := .silent, lastKeys := Keys.empty, rollover := false, buttons := 0, resetUntil := some (s.now + 10000) }
            keys := Keys.empty
            merged := 0 }) ∧
      (k = 4 → Kept on w ∧ aborted s.focus.waiting ∧
        w.focus = { s.focus with
          st := .nobody, waiting := [], wakeOut := false, bringOut := none, masked := Keys.empty,
          previous := s.focus.st.target.orElse fun _ => s.focus.previous,
          count := if s.focus.st.target.isSome then s.focus.count + 1 else s.focus.count,
          source := if s.focus.st.target.isSome then some .restart else s.focus.source }) ∧
      (k = 5 → w = { on with tlines := w.tlines } ∧
        ∀ i : TargetId,
          let l := s.tlines[i.1]
          let q := l.queue.filter fun e => decide (e.origin = .release)
          w.tlines[i.1] =
            if i.1 < s.straps.targets then
              { l with queue := q, lastSent := (newestKeys q).getD (match l.inTx with
                | some (.keys keys) => keys
                | _ => l.onLine) }
            else l) ∧
      (k = 6 →
        let m := centreCursor s
        let centred : State := { m with runState := w.runState }
        m = { s with cur := m.cur } ∧
        (let q := m.cur.cursor
         m.cur = { s.cur with cursor := q, deskButtons := 0, lastButtons := Vector.replicate 8 0 } ∧
         q.rx = 0 ∧ q.ry = 0 ∧ q.dwell = .clear ∧
         (∀ sc : ScreenId, s.cur.geo[sc.1].enabled = true → (∀ j < sc, s.cur.geo[j.1].enabled = false) →
           q.x = s.cur.geo[sc.1].x + s.cur.geo[sc.1].w / 2 ∧ q.y = s.cur.geo[sc.1].y + s.cur.geo[sc.1].h / 2 ∧
           (0 < s.cur.geo[sc.1].w → 0 < s.cur.geo[sc.1].h →
             q.screen = some sc ∧ ∃ a, s.tileRect sc q.tile = some a ∧ a.contains q.x q.y = true)) ∧
         ((∀ sc : ScreenId, s.cur.geo[sc.1].enabled = false) →
           q = { s.cur.cursor with rx := 0, ry := 0, dwell := .clear, screen := none })) ∧
        ((∀ t, s.focus.st = .focused t → m.cursorOn t = true) → w = centred) ∧
        ∀ t, s.focus.st = .focused t → m.cursorOn t = false →
          (s.placementTile t = none → w = centred) ∧
          ∀ sc i, s.placementTile t = some (sc, i) → s.tileTarget sc i = some t ∧ ∃ a, s.tileRect sc i = some a ∧
            w = rewriteMirror .cursor { centred with cur := { m.cur with cursor := { m.cur.cursor with
              x := a.x + a.w / 2, y := a.y + a.h / 2, screen := some sc, tile := i } } }) ∧
      (k = 7 → w = { on with xm := { s.xm with mem := w.xm.mem, revision := w.xm.revision, given := s.gives } } ∧
        (∀ g < 22, w.xm.mem.read (0x0400 + g) = 1) ∧
        (∀ m : Mirror, w.xm.revision[m.index.1] = s.xm.revision[m.index.1] + 1 ∧
          w.xm.mem.word m.base = s.xm.revision[m.index.1] + 1 ∧
          ∀ i, 2 ≤ i → i < m.size → w.xm.mem.read (m.base + i) = (mirrorFields w m).getD (i - 2) 0) ∧
        ∀ a, a < 0x0400 ∨ 0x0416 ≤ a → (∀ m : Mirror, a < m.base ∨ m.base + m.size ≤ a) →
          w.xm.mem.read a = s.xm.mem.read a)) ∧
    (k = 8 →
      let done := complete c .ok [] s
      tick s = { done with
        runState := .running
        xm := { done.xm with
          pendingSweep := false
          sweepState := if s.xm.pendingSweep then .sweeping 0 else .idle
          sweepCount := if s.xm.pendingSweep then s.xm.sweepCount + 1 else s.xm.sweepCount } })

/-- RESET_N asserted leaves the power-on values of every block, with the straps as they were and no PRESENT taken as asserted (the state meanwhile is the model's, log 7): no work, no completed cell, no host access answered, every output at its reset level. While it is asserted its own two commands alone change anything but the count, except that a screen presence input has the level its change brings (log 23). Its release samples the straps and gives every block its power-on values for them and for the levels of PRESENT. Both keep the queue, the paces, the count, the memory's bytes until the clear, and the levels of the screen presence inputs. The power-on values are those of each block's rule, the default hotkey table and the default panel map among them. The model's choices among them: the crosspoint fields 0 (log 9), the bus bookkeeping of a head (log 10), the read buffer 0 (log 22), the starts of the pattern phase and of the PWM periods 0 (log 28), unused operands and modifiers 0 (log 29), no last event (log 36), no strobe recorded (log 37), nothing given of the shared mirrors (log 49), the operand of an indicator with no source 0 (log 53). The state right after reset is that for six screens, eight targets, glide default no and no PRESENT (log 6). -/
def Obligations.ResetGivesPowerOnValues : Prop :=
  let kept (p s : State) (t : Nat) : State := { p with
    pending := s.pending, paces := s.paces, now := max s.now t, xm := { p.xm with mem := s.xm.mem },
    idents := Vector.ofFn fun sc => { p.idents[sc.1] with input := s.idents[sc.1].input } }
  (∀ (c : Instr) (s : State), s.resetAsserted = true →
    (∀ t, c ≠ .powerOnReset t) → (∀ t a b g p, c ≠ .resetRelease t a b g p) →
    (∀ t sc l, c ≠ .screenPresenceInputChange t sc l) → exec c s = .next (s.advance c.time)) ∧
  (∀ (t : Nat) (sc : ScreenId) (level : Bool) (s : State), s.resetAsserted = true →
    exec (.screenPresenceInputChange t sc level) s =
      .next (modIdent sc (fun i => { i with input := level }) (s.advance t))) ∧
  (∀ (t : Nat) (s : State),
    let v : State := { kept (State.powerOn s.straps 0) s t with resetAsserted := true }
    exec (.powerOnReset t) s = .next v ∧
    v.noteN = false ∧ v.waitN = false ∧ (∀ a, v.hostRead a = .unanswered) ∧ v.xm.inWork = [] ∧
    (∀ h : HeadId, v.served[h.1].hotplug = false) ∧ (∀ k : TargetId, v.wakes[k.1].outHigh = false) ∧
    (∀ sc : ScreenId, v.tallyLit sc = false) ∧ (∀ p : PosId, v.panel.lit[p.1] = 0) ∧
    (∀ k : TargetId, v.tlines[k.1].inTx = none ∧ v.tlines[k.1].resumeUntil = none) ∧
    ∀ l : LineId, v.desk.lines[l.1].resetUntil = none) ∧
  (∀ (t : Nat) (a b : BitVec 3) (g : Bool) (present : BitVec 8) (s : State),
    let st : Straps := { screens := if a.toNat ≤ 5 then a.toNat + 1 else 6, targets := b.toNat + 1, glide := g }
    exec (.resetRelease t a b g present) s = .next (kept (State.powerOn st present) s t)) ∧
  State.reset = State.powerOn { screens := 6, targets := 8, glide := false } 0 ∧
  ∀ (st : Straps) (present : BitVec 8),
    let p := State.powerOn st present
    let link (k : TargetId) : Link := if k.1 < st.targets ∧ present.getLsbD k.1 = true then .up else .down
    let plan (sc : ScreenId) : Plan :=
      { layout := .full
        src := #v[if sc.1 < st.targets then some (headAOf ⟨sc.1, by omega⟩) else none, none, none, none] }
    let noOps : Operands := { target := 0, screen := 0, tile := 0, layout := 0, head := 0 }
    p.resetAsserted = false ∧ p.straps = st ∧ p.runState = .starting ∧
    p.xm =
      { mem := [], revision := Vector.replicate 22 0, given := Given.initial, noteEnable := false, sweepPeriod := .ms2,
        sweepDue := none, sweepState := .idle, pendingSweep := false, sweepCount := 0, completionNo := 0, inWork := [],
        waiting := [] } ∧
    (∀ l : LineId, p.desk.lines[l.1] =
      { cls := .silent, lastKeys := Keys.empty, rollover := false, buttons := 0, bad := 0, resetUntil := none }) ∧
    p.desk.keys = Keys.empty ∧ p.desk.merged = 0 ∧
    (∀ k : TargetId, p.tlines[k.1] =
      { link := link k, lastSent := Keys.empty, onLine := Keys.empty, collapsed := 0, resumeUntil := none, inTx := none,
        queue := [] }) ∧
    (∀ sc : ScreenId, p.cur.geo[sc.1] =
      { enabled := decide (sc.1 < st.screens), x := 1920 * sc.1, y := 0, w := 1920, h := 1080, refresh := 60 }) ∧
    p.cur.settings = { gain := 8, dwell := 0, glide := st.glide, focusDuty := 200, idleDuty := 0 } ∧
    p.cur.cursor = { x := 960, y := 540, rx := 0, ry := 0, screen := some 0, tile := 0, dwell := .clear } ∧
    (∀ k : TargetId, p.cur.lastAbs[k.1] = (16384, 16384) ∧ p.cur.lastButtons[k.1] = 0) ∧ p.cur.deskButtons = 0 ∧
    p.focus =
      { st := .nobody, previous := none, pin := false, count := 0, source := none, wakeOut := false, bringOut := none,
        waiting := [], view := Vector.ofFn fun k => { link := link k, power := .unknown, headA := .absent },
        masked := Keys.empty, inbox := [] } ∧
    p.hot.leaderKey = 0x47 ∧ p.hot.leaderWindow = 750 ∧ p.hot.state = .idle ∧ p.hot.lastFired = none ∧
    (∀ i : Fin 32, p.hot.table[i.1] =
      if i.1 < 8 then
        { enabled := decide (i.1 < st.targets), kind := 1, mods := 0, key := byte (0x1E + i.1), action := 1,
          ops := { noOps with target := byte i.1 }, fires := 0 }
      else if i = 8 then { enabled := true, kind := 1, mods := 0, key := 0x1A, action := 8, ops := noOps, fires := 0 }
      else { enabled := false, kind := 0, mods := 0, key := 0x01, action := 9, ops := noOps, fires := 0 }) ∧
    (∀ sc : ScreenId, p.comp.screens[sc.1] =
      { state := if sc.1 < st.screens then .running else .unfitted, active := plan sc, staged := none, ret := none,
        loans := [], home := plan sc, refresh := 60, timingStart := none, boundary := 1 }) ∧
    (∀ k : TargetId, p.comp.view[k.1] =
      { link := link k, power := .unknown, headA := .absent, headB := .absent, excluded := false }) ∧
    (∀ a : Fin 30, p.comp.xpoint[a.1] = 0) ∧ p.comp.strobes = [] ∧
    (∀ h : HeadId, p.heads[h.1] =
      { presence := .absent, lastPeriod := 0, good := 0, rate := 0, lastEdge := none, absenceDue := none }) ∧
    (∀ sc : ScreenId, p.idents[sc.1] =
      { state := .noScreen, image := Vector.replicate 256 0, held := false, attempts := 0, presence := false,
        waiting := [], phase := .noRead, buffer := Vector.replicate 256 0, input := false, debounceDue := none }) ∧
    (∀ h : HeadId, p.served[h.1] =
      { state := .silent, source := .nothing, follow := false, store := Vector.replicate 256 0, answering := false,
        inTransaction := false, pending := none, completing := none, copy := none, hotplug := false,
        announceUntil := none, offset := 0, addressed := false, offsetTaken := false, lastActivity := 0,
        lastByte := none }) ∧
    (∀ k : TargetId,
      p.setups[k.1] =
        { headB := false, under := false, wA := 1920, hA := 1080, wB := 1920, hB := 1080, excluded := false,
          policy :=
            { signal := true, pulse := false, retry := 3, window := 15, delay := 0, width := 300, activeHigh := true },
          falling := false, hysteresis := 16, low := 300, high := 700 } ∧
      p.power[k.1] = { state := .unknown, sample := 0, runLevel := none, runCount := 0 } ∧
      p.wakes[k.1] =
        { state := .idle, attempts := 0, method := none, policy := none, due := none, joined := [], answerFocus := false,
          outHigh := false }) ∧
    p.senseSlot = 0 ∧
    (∀ i : PosId,
      let key (action : Action) (ops : Operands) : PanelKey :=
        { state := .up, debounce := 0, longDue := none, action := action, ops := ops, events := 0 }
      let ind (source : IndSource) (operand : Nat) : Indicator :=
        { source := source, operand := byte operand, intensity := 15, pattern := .steady, hostLevel := false }
      p.panel.lit[i.1] = 0 ∧ p.panel.inds[i.1].condition p.panel.view = false ∧
      (i.1 < 8 ∧ i.1 < st.targets →
        p.panel.keys[i.1] = key .focus { noOps with target := byte i.1 } ∧ p.panel.inds[i.1] = ind .focus i.1) ∧
      (8 ≤ i.1 ∧ i.1 < 14 ∧ i.1 - 8 < st.screens →
        p.panel.keys[i.1] = key .restore { noOps with screen := byte (i.1 - 8) } ∧
          p.panel.inds[i.1] = ind .screenLoaned (i.1 - 8)) ∧
      (16 ≤ i.1 ∧ i.1 - 16 < st.targets →
        p.panel.keys[i.1] = key .nothing noOps ∧ p.panel.inds[i.1] = ind .power (i.1 - 16)) ∧
      ((i.1 < 8 ∧ st.targets ≤ i.1) ∨ (8 ≤ i.1 ∧ i.1 < 14 ∧ st.screens ≤ i.1 - 8) ∨ i.1 = 14 ∨ i.1 = 15 ∨
          (16 ≤ i.1 ∧ st.targets ≤ i.1 - 16) →
        p.panel.keys[i.1] = key .nothing noOps ∧ p.panel.inds[i.1] = ind .nothing 0)) ∧
    p.panel.view =
      { focus := .nobody, pin := false, power := Vector.replicate 8 .unknown, waking := Vector.replicate 8 false,
        loaned := Vector.replicate 6 false, plans := Vector.ofFn plan } ∧
    (∀ sc : ScreenId, p.panel.tallies[sc.1] = { working := 0, buffered := 0, periodStart := 0 }) ∧
    p.panel.focusDuty = 200 ∧ p.panel.idleDuty = 0 ∧ p.panel.nextDrive = 0 ∧ p.panel.phaseStart = 0 ∧
    p.panel.lastEvent = none

/-- The end of the memory clear, while the run state is STARTING: every byte is 0 but for the mirrors, each at revision 1, and the four LINE summary bytes, which are 1; the lines are in their 10 ms reset condition, the timing of each RUNNING screen and the debounces begin, all thirty crosspoint fields are written in address order, and the run state is RUNNING with the sweep timer started; then the accesses that waited are made and a pending sweep starts, with as many visits within the command as its pace says (log 4). Outside STARTING, where it cannot occur, it changes nothing (log 32, the model's choice). -/
def Obligations.ClearDoneSetsUpDesk : Prop :=
  ∀ (t : Nat) (s : State), s.live →
    let u := s.advance t
    let w : State := { setUpDesk { u with paces := s.paces.tail } with runState := .running }
    let x := startSweepTimer (releaseAll w)
    let begun : State := { x with xm := { x.xm with
      pendingSweep := false
      sweepState := if s.xm.pendingSweep then .sweeping 0 else .idle
      sweepCount := if s.xm.pendingSweep then s.xm.sweepCount + 1 else s.xm.sweepCount } }
    (s.runState ≠ .starting → exec (.clearDone t) s = .next u) ∧
    (s.runState = .starting →
      exec (.clearDone t) s = .next (Nat.repeat tick (s.paces.headD 512) begun) ∧
      (s.xm.waiting = [] → s.xm.pendingSweep = false →
        exec (.clearDone t) s =
          .next { w with xm := { w.xm with
            sweepState := .idle, sweepDue := s.xm.sweepPeriod.length.map fun n => u.now + n } }) ∧
      (∀ m : Mirror, w.xm.mem.word m.base = 1 ∧ w.xm.revision[m.index.1] = 1 ∧
        ∀ i, 2 ≤ i → i < m.size → w.xm.mem.read (m.base + i) = (mirrorFields w m).getD (i - 2) 0) ∧
      (∀ g < 32, w.xm.mem.read (0x0400 + g) = if 15 ≤ g ∧ g ≤ 18 then 1 else 0) ∧
      (∀ a, a < 0x0400 ∨ 0x0420 ≤ a → (∀ m : Mirror, a < m.base ∨ m.base + m.size ≤ a) → w.xm.mem.read a = 0) ∧
      (∀ l : LineId, w.desk.lines[l.1] = { s.desk.lines[l.1] with resetUntil := some (u.now + 10000) }) ∧
      (∀ sc : ScreenId,
        w.comp.screens[sc.1] =
          (if s.comp.screens[sc.1].state = .running then
            { s.comp.screens[sc.1] with timingStart := some u.now, boundary := 1 }
          else s.comp.screens[sc.1]) ∧
        w.idents[sc.1] =
          (if s.fittedScreen sc then { s.idents[sc.1] with
            debounceDue := if s.idents[sc.1].input = s.idents[sc.1].presence then none else some (u.now + 50000) }
          else s.idents[sc.1])) ∧
      w.xm.given = w.gives ∧
      w.comp.strobes = s.comp.strobes ++ (ids 30).map (fun a => { addr := a, data := s.comp.presented a }) ∧
      (∀ a : Fin 30, w.comp.xpoint[a.1] = s.comp.presented a) ∧
      w.senseSlot = 0 ∧ w.panel.nextDrive = 0 ∧ w.panel.phaseStart = u.now ∧ w.focus = s.focus ∧ w.cur = s.cur ∧
      w.tlines = s.tlines ∧ w.power = s.power ∧ w.heads = s.heads)
end

