-- ==== Sys2Proof/Laws/Memory.lean ====
section
/-! SUPPORT. Laws of the memory operations: what a byte reads as after a write, and that a write keeps the canonical form. -/

namespace Sys2Proof.Machine

open Sys2Proof

theorem Memory.read_append (xs ys : Memory) (x : Nat) :
    Memory.read (xs ++ ys) x = if ∃ c ∈ xs, c.1 = x then Memory.read xs x else Memory.read ys x := by
  induction xs with
  | nil => simp
  | cons c cs ih =>
    simp only [List.cons_append, Memory.read, List.mem_cons, exists_eq_or_imp]
    by_cases h : c.1 = x
    · simp [h]
    · simp [h, ih]

theorem Memory.read_filter (m : Memory) (p : Nat → Bool) (x : Nat) :
    Memory.read (m.filter fun c => p c.1) x = if p x then Memory.read m x else Memory.fill := by
  induction m with
  | nil => simp [Memory.read]
  | cons c cs ih =>
    simp only [List.filter_cons]
    by_cases hp : p c.1 <;> by_cases hx : c.1 = x
    · subst hx; simp [Memory.read, hp]
    · simp [Memory.read, hp, hx, ih]
    · subst hx; simp [hp, ih]
    · simp [Memory.read, hp, hx, ih]

theorem Memory.read_of_absent (m : Memory) (x : Nat) (h : ¬ ∃ c ∈ m, c.1 = x) : Memory.read m x = Memory.fill := by
  induction m with
  | nil => rfl
  | cons c cs ih =>
    have h1 : ¬ c.1 = x := fun e => h ⟨c, List.mem_cons_self, e⟩
    have h2 : ¬ ∃ c ∈ cs, c.1 = x := fun ⟨d, hd, e⟩ => h ⟨d, List.mem_cons_of_mem _ hd, e⟩
    simp [Memory.read, h1, ih h2]

theorem Memory.cellsFrom_range (a : Nat) (bs : List Byte) (c : Host.Cell) (h : c ∈ Memory.cellsFrom a bs) :
    a ≤ c.1 ∧ c.1 < a + bs.length := by
  induction bs generalizing a with
  | nil => simp [Memory.cellsFrom] at h
  | cons b bs ih =>
    simp only [Memory.cellsFrom] at h
    split at h
    · have := ih _ h; simp only [List.length_cons]; omega
    · rcases List.mem_cons.mp h with h | h
      · subst h; simp only [List.length_cons]; omega
      · have := ih _ h; simp only [List.length_cons]; omega

theorem Memory.read_cellsFrom (a : Nat) (bs : List Byte) (x : Nat) (h1 : a ≤ x) (h2 : x < a + bs.length) :
    Memory.read (Memory.cellsFrom a bs) x = bs.getD (x - a) 0 := by
  induction bs generalizing a with
  | nil => simp at h2; omega
  | cons b bs ih =>
    have tail : Memory.read (Memory.cellsFrom (a + 1) bs) a = Memory.fill :=
      Memory.read_of_absent _ _ fun ⟨c, hc, e⟩ => by
        have := Memory.cellsFrom_range _ _ _ hc; omega
    by_cases hx : a = x
    · subst hx
      simp only [Memory.cellsFrom]
      split
      · rename_i hb; simp [tail, hb]
      · simp [Memory.read]
    · have hx' : x - a = (x - (a + 1)) + 1 := by omega
      have hr := ih (a + 1) (by omega) (by simp only [List.length_cons] at h2; omega)
      simp only [Memory.cellsFrom]
      split
      · rw [hr, hx']; simp
      · rw [hx']; simp [Memory.read, hx, hr]

/-- What a byte reads as after consecutive bytes have been written. -/
theorem Memory.read_write (m : Memory) (a : Nat) (bs : List Byte) (x : Nat) :
    (m.write a bs).read x = if a ≤ x ∧ x < a + bs.length then bs.getD (x - a) 0 else m.read x := by
  have hb : Memory.read (m.below a) x = if x < a then m.read x else Memory.fill := by
    have := Memory.read_filter m (fun y => decide (y < a)) x
    simpa [Memory.below] using this
  have hf : Memory.read (m.from (a + bs.length)) x = if a + bs.length ≤ x then m.read x else Memory.fill := by
    have := Memory.read_filter m (fun y => decide (a + bs.length ≤ y)) x
    simpa [Memory.from] using this
  have mb : ∀ c ∈ m.below a, c.1 < a := by
    intro c hc; simpa [Memory.below] using (List.mem_filter.mp hc).2
  have cell : (∃ c ∈ Memory.cellsFrom a bs, c.1 = x) → a ≤ x ∧ x < a + bs.length := by
    rintro ⟨c, hc, rfl⟩; exact Memory.cellsFrom_range _ _ _ hc
  unfold Memory.write
  rw [Memory.read_append, Memory.read_append]
  by_cases h : a ≤ x ∧ x < a + bs.length
  · rw [if_neg (fun ⟨c, hc, e⟩ => by have := mb c hc; omega), if_pos h]
    have hc := Memory.read_cellsFrom a bs x h.1 h.2
    split
    · exact hc
    · rename_i hn
      rw [hf, if_neg (by omega), ← hc, Memory.read_of_absent _ _ hn]
  · rw [if_neg h]
    by_cases hx : x < a
    · split
      · rw [hb, if_pos hx]
      · rename_i hn
        have e : m.read x = Memory.fill := by
          rw [← Memory.read_of_absent _ _ hn, hb, if_pos hx]
        rw [if_neg (fun hc => h (cell hc)), hf, if_neg (by omega), e]
    · rw [if_neg (fun ⟨c, hc, e⟩ => by have := mb c hc; omega), if_neg (fun hc => h (cell hc)), hf, if_pos (by omega)]

theorem Memory.read_write_outside (m : Memory) (a : Nat) (bs : List Byte) (x : Nat)
    (h : x < a ∨ a + bs.length ≤ x) : (m.write a bs).read x = m.read x := by
  rw [Memory.read_write, if_neg (by omega)]

/-! ## The canonical form -/

theorem Memory.wfFrom_mono (m : Memory) (lo lo' : Nat) (h : lo' ≤ lo) (hw : Memory.wfFrom lo m = true) :
    Memory.wfFrom lo' m = true := by
  cases m with
  | nil => rfl
  | cons c cs =>
    simp only [Memory.wfFrom, Bool.and_eq_true, decide_eq_true_eq] at hw ⊢
    exact ⟨⟨by omega, hw.1.2⟩, hw.2⟩

theorem Memory.wfFrom_filter (m : Memory) (p : Host.Cell → Bool) (lo : Nat) (hw : Memory.wfFrom lo m = true) :
    Memory.wfFrom lo (m.filter p) = true := by
  induction m generalizing lo with
  | nil => rfl
  | cons c cs ih =>
    simp only [Memory.wfFrom, Bool.and_eq_true, decide_eq_true_eq] at hw
    simp only [List.filter_cons]
    split
    · simp only [Memory.wfFrom, Bool.and_eq_true, decide_eq_true_eq]
      exact ⟨hw.1, ih _ hw.2⟩
    · exact Memory.wfFrom_mono _ _ _ (by omega) (ih _ hw.2)

theorem Memory.wfFrom_append (xs ys : Memory) (lo mid : Nat) (hx : Memory.wfFrom lo xs = true)
    (hm : ∀ c ∈ xs, c.1 < mid) (hl : lo ≤ mid) (hy : Memory.wfFrom mid ys = true) :
    Memory.wfFrom lo (xs ++ ys) = true := by
  induction xs generalizing lo with
  | nil => exact Memory.wfFrom_mono _ _ _ hl hy
  | cons c cs ih =>
    simp only [Memory.wfFrom, Bool.and_eq_true, decide_eq_true_eq] at hx
    simp only [List.cons_append, Memory.wfFrom, Bool.and_eq_true, decide_eq_true_eq]
    have := hm c List.mem_cons_self
    exact ⟨hx.1, ih _ hx.2 (fun d hd => hm d (List.mem_cons_of_mem _ hd)) (by omega)⟩

theorem Memory.wfFrom_cellsFrom (a : Nat) (bs : List Byte) : Memory.wfFrom a (Memory.cellsFrom a bs) = true := by
  induction bs generalizing a with
  | nil => rfl
  | cons b bs ih =>
    simp only [Memory.cellsFrom]
    split
    · exact Memory.wfFrom_mono _ _ _ (by omega) (ih _)
    · rename_i h
      simp [Memory.wfFrom, h, ih]

theorem Memory.wfFrom_from (m : Memory) (lo a : Nat) (hw : Memory.wfFrom lo m = true) :
    Memory.wfFrom a (m.from a) = true := by
  induction m generalizing lo with
  | nil => rfl
  | cons c cs ih =>
    simp only [Memory.wfFrom, Bool.and_eq_true, decide_eq_true_eq] at hw
    simp only [Memory.from, List.filter_cons]
    split
    · rename_i h
      simp only [decide_eq_true_eq] at h
      simp only [Memory.wfFrom, Bool.and_eq_true, decide_eq_true_eq]
      exact ⟨⟨h, hw.1.2⟩, Memory.wfFrom_filter _ _ _ hw.2⟩
    · exact ih _ hw.2

/-- A write keeps the canonical form. -/
theorem Memory.wf_write (m : Memory) (a : Nat) (bs : List Byte) (hw : m.wf = true) : (m.write a bs).wf = true := by
  unfold Memory.wf at hw ⊢
  unfold Memory.write
  refine Memory.wfFrom_append _ _ 0 a (Memory.wfFrom_filter _ _ _ hw) ?_ (by omega) ?_
  · intro c hc; simpa [Memory.below] using (List.mem_filter.mp hc).2
  · exact Memory.wfFrom_append _ _ a (a + bs.length) (Memory.wfFrom_cellsFrom _ _)
      (fun c hc => (Memory.cellsFrom_range _ _ _ hc).2) (by omega) (Memory.wfFrom_from _ 0 _ hw)

/-- The empty memory is in the canonical form. -/
theorem Memory.wf_nil : Memory.wf [] = true := rfl

/-- Two bytes written at an address read back as the word. -/
theorem Memory.word_write_le16 (m : Memory) (a : Nat) (w : Word16) : (m.write a (le16 w)).word a = w := by
  unfold Memory.word
  rw [Memory.read_write, Memory.read_write]
  have h1 : a ≤ a + 1 ∧ a + 1 < a + (le16 w).length := by simp [le16]
  have h2 : a ≤ a ∧ a < a + (le16 w).length := by simp [le16]
  rw [if_pos h1, if_pos h2]
  have : a + 1 - a = 1 := by omega
  rw [this, Nat.sub_self]
  simp only [le16, List.getD_cons_zero, List.getD_cons_succ]
  apply BitVec.eq_of_getLsbD_eq
  intro i hi
  rw [BitVec.getLsbD_append]
  by_cases h : i < 8
  · simp [h]
  · have e : 8 + (i - 8) = i := by omega
    have l : i - 8 < 8 := by omega
    simp [h, e, l]

end Sys2Proof.Machine
end

