-- ==== Sys2Proof/Laws/State.lean ====
section
/-! SUPPORT. One lemma per field of the state per update, and reading a record of a changed vector, so that no later proof unfolds a record update. -/

namespace Sys2Proof.Machine

open Sys2Proof

@[simp] theorem upd_self {α : Type} {n : Nat} (v : Vector α n) (i : Fin n) (f : α → α) : (upd v i f)[i.1] = f v[i.1] := by
  simp [upd]

theorem upd_ne {α : Type} {n : Nat} (v : Vector α n) (i j : Fin n) (f : α → α) (h : i ≠ j) : (upd v i f)[j.1] = v[j.1] := by
  have : i.1 ≠ j.1 := fun e => h (Fin.ext e)
  simp [upd, Vector.getElem_set_ne, this]

theorem upd_get {α : Type} {n : Nat} (v : Vector α n) (i j : Fin n) (f : α → α) :
    (upd v i f)[j.1] = if i = j then f v[j.1] else v[j.1] := by
  by_cases h : i = j
  · subst h; simp
  · rw [upd_ne _ _ _ _ h, if_neg h]

@[simp] theorem mapVec_get {α : Type} {n : Nat} (v : Vector α n) (f : Fin n → α → α) (i : Fin n) :
    (mapVec v f)[i.1] = f i v[i.1] := by
  simp [mapVec]

theorem mem_ids {n : Nat} (i : Fin n) : i ∈ ids n := List.mem_finRange i

@[simp] theorem act_next (t : Nat) (f : State → State) (s : State) (h : s.resetAsserted = false) :
    act t f s = .next (settle (f (s.advance t))) := by
  simp [act, h]

@[simp] theorem act_reset (t : Nat) (f : State → State) (s : State) (h : s.resetAsserted = true) :
    act t f s = .next (s.advance t) := by
  simp [act, h]

theorem settle_of_empty (s : State) (h : s.focus.inbox = []) : settle s = s := by
  have e : takeInbox Config.inboxFuel s = s := by
    show takeInbox (199 + 1) s = s
    rw [takeInbox, h]
  rw [settle, e]
  cases s with
  | mk p pc n r st rs xm d tl c f hh co he i sv se po w sl pa =>
    cases f
    simp only at h
    subst h
    rfl

@[simp] theorem advance_pending (t : Nat) (s : State) : (s.advance t).pending = s.pending := rfl
@[simp] theorem advance_paces (t : Nat) (s : State) : (s.advance t).paces = s.paces := rfl
@[simp] theorem advance_now (t : Nat) (s : State) : (s.advance t).now = max s.now t := rfl
@[simp] theorem advance_resetAsserted (t : Nat) (s : State) : (s.advance t).resetAsserted = s.resetAsserted := rfl
@[simp] theorem advance_straps (t : Nat) (s : State) : (s.advance t).straps = s.straps := rfl
@[simp] theorem advance_runState (t : Nat) (s : State) : (s.advance t).runState = s.runState := rfl
@[simp] theorem advance_xm (t : Nat) (s : State) : (s.advance t).xm = s.xm := rfl
@[simp] theorem advance_desk (t : Nat) (s : State) : (s.advance t).desk = s.desk := rfl
@[simp] theorem advance_tlines (t : Nat) (s : State) : (s.advance t).tlines = s.tlines := rfl
@[simp] theorem advance_cur (t : Nat) (s : State) : (s.advance t).cur = s.cur := rfl
@[simp] theorem advance_focus (t : Nat) (s : State) : (s.advance t).focus = s.focus := rfl
@[simp] theorem advance_hot (t : Nat) (s : State) : (s.advance t).hot = s.hot := rfl
@[simp] theorem advance_comp (t : Nat) (s : State) : (s.advance t).comp = s.comp := rfl
@[simp] theorem advance_heads (t : Nat) (s : State) : (s.advance t).heads = s.heads := rfl
@[simp] theorem advance_idents (t : Nat) (s : State) : (s.advance t).idents = s.idents := rfl
@[simp] theorem advance_served (t : Nat) (s : State) : (s.advance t).served = s.served := rfl
@[simp] theorem advance_setups (t : Nat) (s : State) : (s.advance t).setups = s.setups := rfl
@[simp] theorem advance_power (t : Nat) (s : State) : (s.advance t).power = s.power := rfl
@[simp] theorem advance_wakes (t : Nat) (s : State) : (s.advance t).wakes = s.wakes := rfl
@[simp] theorem advance_senseSlot (t : Nat) (s : State) : (s.advance t).senseSlot = s.senseSlot := rfl
@[simp] theorem advance_panel (t : Nat) (s : State) : (s.advance t).panel = s.panel := rfl

@[simp] theorem modDeskLine_pending (l : LineId) (f : DeskLine → DeskLine) (s : State) : (modDeskLine l f s).pending = s.pending := rfl
@[simp] theorem modDeskLine_paces (l : LineId) (f : DeskLine → DeskLine) (s : State) : (modDeskLine l f s).paces = s.paces := rfl
@[simp] theorem modDeskLine_now (l : LineId) (f : DeskLine → DeskLine) (s : State) : (modDeskLine l f s).now = s.now := rfl
@[simp] theorem modDeskLine_resetAsserted (l : LineId) (f : DeskLine → DeskLine) (s : State) : (modDeskLine l f s).resetAsserted = s.resetAsserted := rfl
@[simp] theorem modDeskLine_straps (l : LineId) (f : DeskLine → DeskLine) (s : State) : (modDeskLine l f s).straps = s.straps := rfl
@[simp] theorem modDeskLine_runState (l : LineId) (f : DeskLine → DeskLine) (s : State) : (modDeskLine l f s).runState = s.runState := rfl
@[simp] theorem modDeskLine_xm (l : LineId) (f : DeskLine → DeskLine) (s : State) : (modDeskLine l f s).xm = s.xm := rfl
@[simp] theorem modDeskLine_desk (l : LineId) (f : DeskLine → DeskLine) (s : State) : (modDeskLine l f s).desk = { s.desk with lines := upd s.desk.lines l f } := rfl
@[simp] theorem modDeskLine_tlines (l : LineId) (f : DeskLine → DeskLine) (s : State) : (modDeskLine l f s).tlines = s.tlines := rfl
@[simp] theorem modDeskLine_cur (l : LineId) (f : DeskLine → DeskLine) (s : State) : (modDeskLine l f s).cur = s.cur := rfl
@[simp] theorem modDeskLine_focus (l : LineId) (f : DeskLine → DeskLine) (s : State) : (modDeskLine l f s).focus = s.focus := rfl
@[simp] theorem modDeskLine_hot (l : LineId) (f : DeskLine → DeskLine) (s : State) : (modDeskLine l f s).hot = s.hot := rfl
@[simp] theorem modDeskLine_comp (l : LineId) (f : DeskLine → DeskLine) (s : State) : (modDeskLine l f s).comp = s.comp := rfl
@[simp] theorem modDeskLine_heads (l : LineId) (f : DeskLine → DeskLine) (s : State) : (modDeskLine l f s).heads = s.heads := rfl
@[simp] theorem modDeskLine_idents (l : LineId) (f : DeskLine → DeskLine) (s : State) : (modDeskLine l f s).idents = s.idents := rfl
@[simp] theorem modDeskLine_served (l : LineId) (f : DeskLine → DeskLine) (s : State) : (modDeskLine l f s).served = s.served := rfl
@[simp] theorem modDeskLine_setups (l : LineId) (f : DeskLine → DeskLine) (s : State) : (modDeskLine l f s).setups = s.setups := rfl
@[simp] theorem modDeskLine_power (l : LineId) (f : DeskLine → DeskLine) (s : State) : (modDeskLine l f s).power = s.power := rfl
@[simp] theorem modDeskLine_wakes (l : LineId) (f : DeskLine → DeskLine) (s : State) : (modDeskLine l f s).wakes = s.wakes := rfl
@[simp] theorem modDeskLine_senseSlot (l : LineId) (f : DeskLine → DeskLine) (s : State) : (modDeskLine l f s).senseSlot = s.senseSlot := rfl
@[simp] theorem modDeskLine_panel (l : LineId) (f : DeskLine → DeskLine) (s : State) : (modDeskLine l f s).panel = s.panel := rfl

@[simp] theorem modTLine_pending (k : TargetId) (f : TargetLine → TargetLine) (s : State) : (modTLine k f s).pending = s.pending := rfl
@[simp] theorem modTLine_paces (k : TargetId) (f : TargetLine → TargetLine) (s : State) : (modTLine k f s).paces = s.paces := rfl
@[simp] theorem modTLine_now (k : TargetId) (f : TargetLine → TargetLine) (s : State) : (modTLine k f s).now = s.now := rfl
@[simp] theorem modTLine_resetAsserted (k : TargetId) (f : TargetLine → TargetLine) (s : State) : (modTLine k f s).resetAsserted = s.resetAsserted := rfl
@[simp] theorem modTLine_straps (k : TargetId) (f : TargetLine → TargetLine) (s : State) : (modTLine k f s).straps = s.straps := rfl
@[simp] theorem modTLine_runState (k : TargetId) (f : TargetLine → TargetLine) (s : State) : (modTLine k f s).runState = s.runState := rfl
@[simp] theorem modTLine_xm (k : TargetId) (f : TargetLine → TargetLine) (s : State) : (modTLine k f s).xm = s.xm := rfl
@[simp] theorem modTLine_desk (k : TargetId) (f : TargetLine → TargetLine) (s : State) : (modTLine k f s).desk = s.desk := rfl
@[simp] theorem modTLine_tlines (k : TargetId) (f : TargetLine → TargetLine) (s : State) : (modTLine k f s).tlines = upd s.tlines k f := rfl
@[simp] theorem modTLine_cur (k : TargetId) (f : TargetLine → TargetLine) (s : State) : (modTLine k f s).cur = s.cur := rfl
@[simp] theorem modTLine_focus (k : TargetId) (f : TargetLine → TargetLine) (s : State) : (modTLine k f s).focus = s.focus := rfl
@[simp] theorem modTLine_hot (k : TargetId) (f : TargetLine → TargetLine) (s : State) : (modTLine k f s).hot = s.hot := rfl
@[simp] theorem modTLine_comp (k : TargetId) (f : TargetLine → TargetLine) (s : State) : (modTLine k f s).comp = s.comp := rfl
@[simp] theorem modTLine_heads (k : TargetId) (f : TargetLine → TargetLine) (s : State) : (modTLine k f s).heads = s.heads := rfl
@[simp] theorem modTLine_idents (k : TargetId) (f : TargetLine → TargetLine) (s : State) : (modTLine k f s).idents = s.idents := rfl
@[simp] theorem modTLine_served (k : TargetId) (f : TargetLine → TargetLine) (s : State) : (modTLine k f s).served = s.served := rfl
@[simp] theorem modTLine_setups (k : TargetId) (f : TargetLine → TargetLine) (s : State) : (modTLine k f s).setups = s.setups := rfl
@[simp] theorem modTLine_power (k : TargetId) (f : TargetLine → TargetLine) (s : State) : (modTLine k f s).power = s.power := rfl
@[simp] theorem modTLine_wakes (k : TargetId) (f : TargetLine → TargetLine) (s : State) : (modTLine k f s).wakes = s.wakes := rfl
@[simp] theorem modTLine_senseSlot (k : TargetId) (f : TargetLine → TargetLine) (s : State) : (modTLine k f s).senseSlot = s.senseSlot := rfl
@[simp] theorem modTLine_panel (k : TargetId) (f : TargetLine → TargetLine) (s : State) : (modTLine k f s).panel = s.panel := rfl

@[simp] theorem modScreen_pending (c : ScreenId) (f : ScreenRec → ScreenRec) (s : State) : (modScreen c f s).pending = s.pending := rfl
@[simp] theorem modScreen_paces (c : ScreenId) (f : ScreenRec → ScreenRec) (s : State) : (modScreen c f s).paces = s.paces := rfl
@[simp] theorem modScreen_now (c : ScreenId) (f : ScreenRec → ScreenRec) (s : State) : (modScreen c f s).now = s.now := rfl
@[simp] theorem modScreen_resetAsserted (c : ScreenId) (f : ScreenRec → ScreenRec) (s : State) : (modScreen c f s).resetAsserted = s.resetAsserted := rfl
@[simp] theorem modScreen_straps (c : ScreenId) (f : ScreenRec → ScreenRec) (s : State) : (modScreen c f s).straps = s.straps := rfl
@[simp] theorem modScreen_runState (c : ScreenId) (f : ScreenRec → ScreenRec) (s : State) : (modScreen c f s).runState = s.runState := rfl
@[simp] theorem modScreen_xm (c : ScreenId) (f : ScreenRec → ScreenRec) (s : State) : (modScreen c f s).xm = s.xm := rfl
@[simp] theorem modScreen_desk (c : ScreenId) (f : ScreenRec → ScreenRec) (s : State) : (modScreen c f s).desk = s.desk := rfl
@[simp] theorem modScreen_tlines (c : ScreenId) (f : ScreenRec → ScreenRec) (s : State) : (modScreen c f s).tlines = s.tlines := rfl
@[simp] theorem modScreen_cur (c : ScreenId) (f : ScreenRec → ScreenRec) (s : State) : (modScreen c f s).cur = s.cur := rfl
@[simp] theorem modScreen_focus (c : ScreenId) (f : ScreenRec → ScreenRec) (s : State) : (modScreen c f s).focus = s.focus := rfl
@[simp] theorem modScreen_hot (c : ScreenId) (f : ScreenRec → ScreenRec) (s : State) : (modScreen c f s).hot = s.hot := rfl
@[simp] theorem modScreen_comp (c : ScreenId) (f : ScreenRec → ScreenRec) (s : State) : (modScreen c f s).comp = { s.comp with screens := upd s.comp.screens c f } := rfl
@[simp] theorem modScreen_heads (c : ScreenId) (f : ScreenRec → ScreenRec) (s : State) : (modScreen c f s).heads = s.heads := rfl
@[simp] theorem modScreen_idents (c : ScreenId) (f : ScreenRec → ScreenRec) (s : State) : (modScreen c f s).idents = s.idents := rfl
@[simp] theorem modScreen_served (c : ScreenId) (f : ScreenRec → ScreenRec) (s : State) : (modScreen c f s).served = s.served := rfl
@[simp] theorem modScreen_setups (c : ScreenId) (f : ScreenRec → ScreenRec) (s : State) : (modScreen c f s).setups = s.setups := rfl
@[simp] theorem modScreen_power (c : ScreenId) (f : ScreenRec → ScreenRec) (s : State) : (modScreen c f s).power = s.power := rfl
@[simp] theorem modScreen_wakes (c : ScreenId) (f : ScreenRec → ScreenRec) (s : State) : (modScreen c f s).wakes = s.wakes := rfl
@[simp] theorem modScreen_senseSlot (c : ScreenId) (f : ScreenRec → ScreenRec) (s : State) : (modScreen c f s).senseSlot = s.senseSlot := rfl
@[simp] theorem modScreen_panel (c : ScreenId) (f : ScreenRec → ScreenRec) (s : State) : (modScreen c f s).panel = s.panel := rfl

@[simp] theorem modHead_pending (h : HeadId) (f : HeadRec → HeadRec) (s : State) : (modHead h f s).pending = s.pending := rfl
@[simp] theorem modHead_paces (h : HeadId) (f : HeadRec → HeadRec) (s : State) : (modHead h f s).paces = s.paces := rfl
@[simp] theorem modHead_now (h : HeadId) (f : HeadRec → HeadRec) (s : State) : (modHead h f s).now = s.now := rfl
@[simp] theorem modHead_resetAsserted (h : HeadId) (f : HeadRec → HeadRec) (s : State) : (modHead h f s).resetAsserted = s.resetAsserted := rfl
@[simp] theorem modHead_straps (h : HeadId) (f : HeadRec → HeadRec) (s : State) : (modHead h f s).straps = s.straps := rfl
@[simp] theorem modHead_runState (h : HeadId) (f : HeadRec → HeadRec) (s : State) : (modHead h f s).runState = s.runState := rfl
@[simp] theorem modHead_xm (h : HeadId) (f : HeadRec → HeadRec) (s : State) : (modHead h f s).xm = s.xm := rfl
@[simp] theorem modHead_desk (h : HeadId) (f : HeadRec → HeadRec) (s : State) : (modHead h f s).desk = s.desk := rfl
@[simp] theorem modHead_tlines (h : HeadId) (f : HeadRec → HeadRec) (s : State) : (modHead h f s).tlines = s.tlines := rfl
@[simp] theorem modHead_cur (h : HeadId) (f : HeadRec → HeadRec) (s : State) : (modHead h f s).cur = s.cur := rfl
@[simp] theorem modHead_focus (h : HeadId) (f : HeadRec → HeadRec) (s : State) : (modHead h f s).focus = s.focus := rfl
@[simp] theorem modHead_hot (h : HeadId) (f : HeadRec → HeadRec) (s : State) : (modHead h f s).hot = s.hot := rfl
@[simp] theorem modHead_comp (h : HeadId) (f : HeadRec → HeadRec) (s : State) : (modHead h f s).comp = s.comp := rfl
@[simp] theorem modHead_heads (h : HeadId) (f : HeadRec → HeadRec) (s : State) : (modHead h f s).heads = upd s.heads h f := rfl
@[simp] theorem modHead_idents (h : HeadId) (f : HeadRec → HeadRec) (s : State) : (modHead h f s).idents = s.idents := rfl
@[simp] theorem modHead_served (h : HeadId) (f : HeadRec → HeadRec) (s : State) : (modHead h f s).served = s.served := rfl
@[simp] theorem modHead_setups (h : HeadId) (f : HeadRec → HeadRec) (s : State) : (modHead h f s).setups = s.setups := rfl
@[simp] theorem modHead_power (h : HeadId) (f : HeadRec → HeadRec) (s : State) : (modHead h f s).power = s.power := rfl
@[simp] theorem modHead_wakes (h : HeadId) (f : HeadRec → HeadRec) (s : State) : (modHead h f s).wakes = s.wakes := rfl
@[simp] theorem modHead_senseSlot (h : HeadId) (f : HeadRec → HeadRec) (s : State) : (modHead h f s).senseSlot = s.senseSlot := rfl
@[simp] theorem modHead_panel (h : HeadId) (f : HeadRec → HeadRec) (s : State) : (modHead h f s).panel = s.panel := rfl

@[simp] theorem modIdent_pending (c : ScreenId) (f : ScreenIdent → ScreenIdent) (s : State) : (modIdent c f s).pending = s.pending := rfl
@[simp] theorem modIdent_paces (c : ScreenId) (f : ScreenIdent → ScreenIdent) (s : State) : (modIdent c f s).paces = s.paces := rfl
@[simp] theorem modIdent_now (c : ScreenId) (f : ScreenIdent → ScreenIdent) (s : State) : (modIdent c f s).now = s.now := rfl
@[simp] theorem modIdent_resetAsserted (c : ScreenId) (f : ScreenIdent → ScreenIdent) (s : State) : (modIdent c f s).resetAsserted = s.resetAsserted := rfl
@[simp] theorem modIdent_straps (c : ScreenId) (f : ScreenIdent → ScreenIdent) (s : State) : (modIdent c f s).straps = s.straps := rfl
@[simp] theorem modIdent_runState (c : ScreenId) (f : ScreenIdent → ScreenIdent) (s : State) : (modIdent c f s).runState = s.runState := rfl
@[simp] theorem modIdent_xm (c : ScreenId) (f : ScreenIdent → ScreenIdent) (s : State) : (modIdent c f s).xm = s.xm := rfl
@[simp] theorem modIdent_desk (c : ScreenId) (f : ScreenIdent → ScreenIdent) (s : State) : (modIdent c f s).desk = s.desk := rfl
@[simp] theorem modIdent_tlines (c : ScreenId) (f : ScreenIdent → ScreenIdent) (s : State) : (modIdent c f s).tlines = s.tlines := rfl
@[simp] theorem modIdent_cur (c : ScreenId) (f : ScreenIdent → ScreenIdent) (s : State) : (modIdent c f s).cur = s.cur := rfl
@[simp] theorem modIdent_focus (c : ScreenId) (f : ScreenIdent → ScreenIdent) (s : State) : (modIdent c f s).focus = s.focus := rfl
@[simp] theorem modIdent_hot (c : ScreenId) (f : ScreenIdent → ScreenIdent) (s : State) : (modIdent c f s).hot = s.hot := rfl
@[simp] theorem modIdent_comp (c : ScreenId) (f : ScreenIdent → ScreenIdent) (s : State) : (modIdent c f s).comp = s.comp := rfl
@[simp] theorem modIdent_heads (c : ScreenId) (f : ScreenIdent → ScreenIdent) (s : State) : (modIdent c f s).heads = s.heads := rfl
@[simp] theorem modIdent_idents (c : ScreenId) (f : ScreenIdent → ScreenIdent) (s : State) : (modIdent c f s).idents = upd s.idents c f := rfl
@[simp] theorem modIdent_served (c : ScreenId) (f : ScreenIdent → ScreenIdent) (s : State) : (modIdent c f s).served = s.served := rfl
@[simp] theorem modIdent_setups (c : ScreenId) (f : ScreenIdent → ScreenIdent) (s : State) : (modIdent c f s).setups = s.setups := rfl
@[simp] theorem modIdent_power (c : ScreenId) (f : ScreenIdent → ScreenIdent) (s : State) : (modIdent c f s).power = s.power := rfl
@[simp] theorem modIdent_wakes (c : ScreenId) (f : ScreenIdent → ScreenIdent) (s : State) : (modIdent c f s).wakes = s.wakes := rfl
@[simp] theorem modIdent_senseSlot (c : ScreenId) (f : ScreenIdent → ScreenIdent) (s : State) : (modIdent c f s).senseSlot = s.senseSlot := rfl
@[simp] theorem modIdent_panel (c : ScreenId) (f : ScreenIdent → ScreenIdent) (s : State) : (modIdent c f s).panel = s.panel := rfl

@[simp] theorem modServed_pending (h : HeadId) (f : Served → Served) (s : State) : (modServed h f s).pending = s.pending := rfl
@[simp] theorem modServed_paces (h : HeadId) (f : Served → Served) (s : State) : (modServed h f s).paces = s.paces := rfl
@[simp] theorem modServed_now (h : HeadId) (f : Served → Served) (s : State) : (modServed h f s).now = s.now := rfl
@[simp] theorem modServed_resetAsserted (h : HeadId) (f : Served → Served) (s : State) : (modServed h f s).resetAsserted = s.resetAsserted := rfl
@[simp] theorem modServed_straps (h : HeadId) (f : Served → Served) (s : State) : (modServed h f s).straps = s.straps := rfl
@[simp] theorem modServed_runState (h : HeadId) (f : Served → Served) (s : State) : (modServed h f s).runState = s.runState := rfl
@[simp] theorem modServed_xm (h : HeadId) (f : Served → Served) (s : State) : (modServed h f s).xm = s.xm := rfl
@[simp] theorem modServed_desk (h : HeadId) (f : Served → Served) (s : State) : (modServed h f s).desk = s.desk := rfl
@[simp] theorem modServed_tlines (h : HeadId) (f : Served → Served) (s : State) : (modServed h f s).tlines = s.tlines := rfl
@[simp] theorem modServed_cur (h : HeadId) (f : Served → Served) (s : State) : (modServed h f s).cur = s.cur := rfl
@[simp] theorem modServed_focus (h : HeadId) (f : Served → Served) (s : State) : (modServed h f s).focus = s.focus := rfl
@[simp] theorem modServed_hot (h : HeadId) (f : Served → Served) (s : State) : (modServed h f s).hot = s.hot := rfl
@[simp] theorem modServed_comp (h : HeadId) (f : Served → Served) (s : State) : (modServed h f s).comp = s.comp := rfl
@[simp] theorem modServed_heads (h : HeadId) (f : Served → Served) (s : State) : (modServed h f s).heads = s.heads := rfl
@[simp] theorem modServed_idents (h : HeadId) (f : Served → Served) (s : State) : (modServed h f s).idents = s.idents := rfl
@[simp] theorem modServed_served (h : HeadId) (f : Served → Served) (s : State) : (modServed h f s).served = upd s.served h f := rfl
@[simp] theorem modServed_setups (h : HeadId) (f : Served → Served) (s : State) : (modServed h f s).setups = s.setups := rfl
@[simp] theorem modServed_power (h : HeadId) (f : Served → Served) (s : State) : (modServed h f s).power = s.power := rfl
@[simp] theorem modServed_wakes (h : HeadId) (f : Served → Served) (s : State) : (modServed h f s).wakes = s.wakes := rfl
@[simp] theorem modServed_senseSlot (h : HeadId) (f : Served → Served) (s : State) : (modServed h f s).senseSlot = s.senseSlot := rfl
@[simp] theorem modServed_panel (h : HeadId) (f : Served → Served) (s : State) : (modServed h f s).panel = s.panel := rfl

@[simp] theorem modSetup_pending (k : TargetId) (f : Setup → Setup) (s : State) : (modSetup k f s).pending = s.pending := rfl
@[simp] theorem modSetup_paces (k : TargetId) (f : Setup → Setup) (s : State) : (modSetup k f s).paces = s.paces := rfl
@[simp] theorem modSetup_now (k : TargetId) (f : Setup → Setup) (s : State) : (modSetup k f s).now = s.now := rfl
@[simp] theorem modSetup_resetAsserted (k : TargetId) (f : Setup → Setup) (s : State) : (modSetup k f s).resetAsserted = s.resetAsserted := rfl
@[simp] theorem modSetup_straps (k : TargetId) (f : Setup → Setup) (s : State) : (modSetup k f s).straps = s.straps := rfl
@[simp] theorem modSetup_runState (k : TargetId) (f : Setup → Setup) (s : State) : (modSetup k f s).runState = s.runState := rfl
@[simp] theorem modSetup_xm (k : TargetId) (f : Setup → Setup) (s : State) : (modSetup k f s).xm = s.xm := rfl
@[simp] theorem modSetup_desk (k : TargetId) (f : Setup → Setup) (s : State) : (modSetup k f s).desk = s.desk := rfl
@[simp] theorem modSetup_tlines (k : TargetId) (f : Setup → Setup) (s : State) : (modSetup k f s).tlines = s.tlines := rfl
@[simp] theorem modSetup_cur (k : TargetId) (f : Setup → Setup) (s : State) : (modSetup k f s).cur = s.cur := rfl
@[simp] theorem modSetup_focus (k : TargetId) (f : Setup → Setup) (s : State) : (modSetup k f s).focus = s.focus := rfl
@[simp] theorem modSetup_hot (k : TargetId) (f : Setup → Setup) (s : State) : (modSetup k f s).hot = s.hot := rfl
@[simp] theorem modSetup_comp (k : TargetId) (f : Setup → Setup) (s : State) : (modSetup k f s).comp = s.comp := rfl
@[simp] theorem modSetup_heads (k : TargetId) (f : Setup → Setup) (s : State) : (modSetup k f s).heads = s.heads := rfl
@[simp] theorem modSetup_idents (k : TargetId) (f : Setup → Setup) (s : State) : (modSetup k f s).idents = s.idents := rfl
@[simp] theorem modSetup_served (k : TargetId) (f : Setup → Setup) (s : State) : (modSetup k f s).served = s.served := rfl
@[simp] theorem modSetup_setups (k : TargetId) (f : Setup → Setup) (s : State) : (modSetup k f s).setups = upd s.setups k f := rfl
@[simp] theorem modSetup_power (k : TargetId) (f : Setup → Setup) (s : State) : (modSetup k f s).power = s.power := rfl
@[simp] theorem modSetup_wakes (k : TargetId) (f : Setup → Setup) (s : State) : (modSetup k f s).wakes = s.wakes := rfl
@[simp] theorem modSetup_senseSlot (k : TargetId) (f : Setup → Setup) (s : State) : (modSetup k f s).senseSlot = s.senseSlot := rfl
@[simp] theorem modSetup_panel (k : TargetId) (f : Setup → Setup) (s : State) : (modSetup k f s).panel = s.panel := rfl

@[simp] theorem modPower_pending (k : TargetId) (f : PowerRec → PowerRec) (s : State) : (modPower k f s).pending = s.pending := rfl
@[simp] theorem modPower_paces (k : TargetId) (f : PowerRec → PowerRec) (s : State) : (modPower k f s).paces = s.paces := rfl
@[simp] theorem modPower_now (k : TargetId) (f : PowerRec → PowerRec) (s : State) : (modPower k f s).now = s.now := rfl
@[simp] theorem modPower_resetAsserted (k : TargetId) (f : PowerRec → PowerRec) (s : State) : (modPower k f s).resetAsserted = s.resetAsserted := rfl
@[simp] theorem modPower_straps (k : TargetId) (f : PowerRec → PowerRec) (s : State) : (modPower k f s).straps = s.straps := rfl
@[simp] theorem modPower_runState (k : TargetId) (f : PowerRec → PowerRec) (s : State) : (modPower k f s).runState = s.runState := rfl
@[simp] theorem modPower_xm (k : TargetId) (f : PowerRec → PowerRec) (s : State) : (modPower k f s).xm = s.xm := rfl
@[simp] theorem modPower_desk (k : TargetId) (f : PowerRec → PowerRec) (s : State) : (modPower k f s).desk = s.desk := rfl
@[simp] theorem modPower_tlines (k : TargetId) (f : PowerRec → PowerRec) (s : State) : (modPower k f s).tlines = s.tlines := rfl
@[simp] theorem modPower_cur (k : TargetId) (f : PowerRec → PowerRec) (s : State) : (modPower k f s).cur = s.cur := rfl
@[simp] theorem modPower_focus (k : TargetId) (f : PowerRec → PowerRec) (s : State) : (modPower k f s).focus = s.focus := rfl
@[simp] theorem modPower_hot (k : TargetId) (f : PowerRec → PowerRec) (s : State) : (modPower k f s).hot = s.hot := rfl
@[simp] theorem modPower_comp (k : TargetId) (f : PowerRec → PowerRec) (s : State) : (modPower k f s).comp = s.comp := rfl
@[simp] theorem modPower_heads (k : TargetId) (f : PowerRec → PowerRec) (s : State) : (modPower k f s).heads = s.heads := rfl
@[simp] theorem modPower_idents (k : TargetId) (f : PowerRec → PowerRec) (s : State) : (modPower k f s).idents = s.idents := rfl
@[simp] theorem modPower_served (k : TargetId) (f : PowerRec → PowerRec) (s : State) : (modPower k f s).served = s.served := rfl
@[simp] theorem modPower_setups (k : TargetId) (f : PowerRec → PowerRec) (s : State) : (modPower k f s).setups = s.setups := rfl
@[simp] theorem modPower_power (k : TargetId) (f : PowerRec → PowerRec) (s : State) : (modPower k f s).power = upd s.power k f := rfl
@[simp] theorem modPower_wakes (k : TargetId) (f : PowerRec → PowerRec) (s : State) : (modPower k f s).wakes = s.wakes := rfl
@[simp] theorem modPower_senseSlot (k : TargetId) (f : PowerRec → PowerRec) (s : State) : (modPower k f s).senseSlot = s.senseSlot := rfl
@[simp] theorem modPower_panel (k : TargetId) (f : PowerRec → PowerRec) (s : State) : (modPower k f s).panel = s.panel := rfl

@[simp] theorem modWake_pending (k : TargetId) (f : WakeOp → WakeOp) (s : State) : (modWake k f s).pending = s.pending := rfl
@[simp] theorem modWake_paces (k : TargetId) (f : WakeOp → WakeOp) (s : State) : (modWake k f s).paces = s.paces := rfl
@[simp] theorem modWake_now (k : TargetId) (f : WakeOp → WakeOp) (s : State) : (modWake k f s).now = s.now := rfl
@[simp] theorem modWake_resetAsserted (k : TargetId) (f : WakeOp → WakeOp) (s : State) : (modWake k f s).resetAsserted = s.resetAsserted := rfl
@[simp] theorem modWake_straps (k : TargetId) (f : WakeOp → WakeOp) (s : State) : (modWake k f s).straps = s.straps := rfl
@[simp] theorem modWake_runState (k : TargetId) (f : WakeOp → WakeOp) (s : State) : (modWake k f s).runState = s.runState := rfl
@[simp] theorem modWake_xm (k : TargetId) (f : WakeOp → WakeOp) (s : State) : (modWake k f s).xm = s.xm := rfl
@[simp] theorem modWake_desk (k : TargetId) (f : WakeOp → WakeOp) (s : State) : (modWake k f s).desk = s.desk := rfl
@[simp] theorem modWake_tlines (k : TargetId) (f : WakeOp → WakeOp) (s : State) : (modWake k f s).tlines = s.tlines := rfl
@[simp] theorem modWake_cur (k : TargetId) (f : WakeOp → WakeOp) (s : State) : (modWake k f s).cur = s.cur := rfl
@[simp] theorem modWake_focus (k : TargetId) (f : WakeOp → WakeOp) (s : State) : (modWake k f s).focus = s.focus := rfl
@[simp] theorem modWake_hot (k : TargetId) (f : WakeOp → WakeOp) (s : State) : (modWake k f s).hot = s.hot := rfl
@[simp] theorem modWake_comp (k : TargetId) (f : WakeOp → WakeOp) (s : State) : (modWake k f s).comp = s.comp := rfl
@[simp] theorem modWake_heads (k : TargetId) (f : WakeOp → WakeOp) (s : State) : (modWake k f s).heads = s.heads := rfl
@[simp] theorem modWake_idents (k : TargetId) (f : WakeOp → WakeOp) (s : State) : (modWake k f s).idents = s.idents := rfl
@[simp] theorem modWake_served (k : TargetId) (f : WakeOp → WakeOp) (s : State) : (modWake k f s).served = s.served := rfl
@[simp] theorem modWake_setups (k : TargetId) (f : WakeOp → WakeOp) (s : State) : (modWake k f s).setups = s.setups := rfl
@[simp] theorem modWake_power (k : TargetId) (f : WakeOp → WakeOp) (s : State) : (modWake k f s).power = s.power := rfl
@[simp] theorem modWake_wakes (k : TargetId) (f : WakeOp → WakeOp) (s : State) : (modWake k f s).wakes = upd s.wakes k f := rfl
@[simp] theorem modWake_senseSlot (k : TargetId) (f : WakeOp → WakeOp) (s : State) : (modWake k f s).senseSlot = s.senseSlot := rfl
@[simp] theorem modWake_panel (k : TargetId) (f : WakeOp → WakeOp) (s : State) : (modWake k f s).panel = s.panel := rfl

@[simp] theorem modPanelKey_pending (p : PosId) (f : PanelKey → PanelKey) (s : State) : (modPanelKey p f s).pending = s.pending := rfl
@[simp] theorem modPanelKey_paces (p : PosId) (f : PanelKey → PanelKey) (s : State) : (modPanelKey p f s).paces = s.paces := rfl
@[simp] theorem modPanelKey_now (p : PosId) (f : PanelKey → PanelKey) (s : State) : (modPanelKey p f s).now = s.now := rfl
@[simp] theorem modPanelKey_resetAsserted (p : PosId) (f : PanelKey → PanelKey) (s : State) : (modPanelKey p f s).resetAsserted = s.resetAsserted := rfl
@[simp] theorem modPanelKey_straps (p : PosId) (f : PanelKey → PanelKey) (s : State) : (modPanelKey p f s).straps = s.straps := rfl
@[simp] theorem modPanelKey_runState (p : PosId) (f : PanelKey → PanelKey) (s : State) : (modPanelKey p f s).runState = s.runState := rfl
@[simp] theorem modPanelKey_xm (p : PosId) (f : PanelKey → PanelKey) (s : State) : (modPanelKey p f s).xm = s.xm := rfl
@[simp] theorem modPanelKey_desk (p : PosId) (f : PanelKey → PanelKey) (s : State) : (modPanelKey p f s).desk = s.desk := rfl
@[simp] theorem modPanelKey_tlines (p : PosId) (f : PanelKey → PanelKey) (s : State) : (modPanelKey p f s).tlines = s.tlines := rfl
@[simp] theorem modPanelKey_cur (p : PosId) (f : PanelKey → PanelKey) (s : State) : (modPanelKey p f s).cur = s.cur := rfl
@[simp] theorem modPanelKey_focus (p : PosId) (f : PanelKey → PanelKey) (s : State) : (modPanelKey p f s).focus = s.focus := rfl
@[simp] theorem modPanelKey_hot (p : PosId) (f : PanelKey → PanelKey) (s : State) : (modPanelKey p f s).hot = s.hot := rfl
@[simp] theorem modPanelKey_comp (p : PosId) (f : PanelKey → PanelKey) (s : State) : (modPanelKey p f s).comp = s.comp := rfl
@[simp] theorem modPanelKey_heads (p : PosId) (f : PanelKey → PanelKey) (s : State) : (modPanelKey p f s).heads = s.heads := rfl
@[simp] theorem modPanelKey_idents (p : PosId) (f : PanelKey → PanelKey) (s : State) : (modPanelKey p f s).idents = s.idents := rfl
@[simp] theorem modPanelKey_served (p : PosId) (f : PanelKey → PanelKey) (s : State) : (modPanelKey p f s).served = s.served := rfl
@[simp] theorem modPanelKey_setups (p : PosId) (f : PanelKey → PanelKey) (s : State) : (modPanelKey p f s).setups = s.setups := rfl
@[simp] theorem modPanelKey_power (p : PosId) (f : PanelKey → PanelKey) (s : State) : (modPanelKey p f s).power = s.power := rfl
@[simp] theorem modPanelKey_wakes (p : PosId) (f : PanelKey → PanelKey) (s : State) : (modPanelKey p f s).wakes = s.wakes := rfl
@[simp] theorem modPanelKey_senseSlot (p : PosId) (f : PanelKey → PanelKey) (s : State) : (modPanelKey p f s).senseSlot = s.senseSlot := rfl
@[simp] theorem modPanelKey_panel (p : PosId) (f : PanelKey → PanelKey) (s : State) : (modPanelKey p f s).panel = { s.panel with keys := upd s.panel.keys p f } := rfl

@[simp] theorem modCursor_pending (f : Cursor → Cursor) (s : State) : (modCursor f s).pending = s.pending := rfl
@[simp] theorem modCursor_paces (f : Cursor → Cursor) (s : State) : (modCursor f s).paces = s.paces := rfl
@[simp] theorem modCursor_now (f : Cursor → Cursor) (s : State) : (modCursor f s).now = s.now := rfl
@[simp] theorem modCursor_resetAsserted (f : Cursor → Cursor) (s : State) : (modCursor f s).resetAsserted = s.resetAsserted := rfl
@[simp] theorem modCursor_straps (f : Cursor → Cursor) (s : State) : (modCursor f s).straps = s.straps := rfl
@[simp] theorem modCursor_runState (f : Cursor → Cursor) (s : State) : (modCursor f s).runState = s.runState := rfl
@[simp] theorem modCursor_xm (f : Cursor → Cursor) (s : State) : (modCursor f s).xm = s.xm := rfl
@[simp] theorem modCursor_desk (f : Cursor → Cursor) (s : State) : (modCursor f s).desk = s.desk := rfl
@[simp] theorem modCursor_tlines (f : Cursor → Cursor) (s : State) : (modCursor f s).tlines = s.tlines := rfl
@[simp] theorem modCursor_cur (f : Cursor → Cursor) (s : State) : (modCursor f s).cur = { s.cur with cursor := f s.cur.cursor } := rfl
@[simp] theorem modCursor_focus (f : Cursor → Cursor) (s : State) : (modCursor f s).focus = s.focus := rfl
@[simp] theorem modCursor_hot (f : Cursor → Cursor) (s : State) : (modCursor f s).hot = s.hot := rfl
@[simp] theorem modCursor_comp (f : Cursor → Cursor) (s : State) : (modCursor f s).comp = s.comp := rfl
@[simp] theorem modCursor_heads (f : Cursor → Cursor) (s : State) : (modCursor f s).heads = s.heads := rfl
@[simp] theorem modCursor_idents (f : Cursor → Cursor) (s : State) : (modCursor f s).idents = s.idents := rfl
@[simp] theorem modCursor_served (f : Cursor → Cursor) (s : State) : (modCursor f s).served = s.served := rfl
@[simp] theorem modCursor_setups (f : Cursor → Cursor) (s : State) : (modCursor f s).setups = s.setups := rfl
@[simp] theorem modCursor_power (f : Cursor → Cursor) (s : State) : (modCursor f s).power = s.power := rfl
@[simp] theorem modCursor_wakes (f : Cursor → Cursor) (s : State) : (modCursor f s).wakes = s.wakes := rfl
@[simp] theorem modCursor_senseSlot (f : Cursor → Cursor) (s : State) : (modCursor f s).senseSlot = s.senseSlot := rfl
@[simp] theorem modCursor_panel (f : Cursor → Cursor) (s : State) : (modCursor f s).panel = s.panel := rfl

@[simp] theorem modFocus_pending (f : Focus → Focus) (s : State) : (modFocus f s).pending = s.pending := rfl
@[simp] theorem modFocus_paces (f : Focus → Focus) (s : State) : (modFocus f s).paces = s.paces := rfl
@[simp] theorem modFocus_now (f : Focus → Focus) (s : State) : (modFocus f s).now = s.now := rfl
@[simp] theorem modFocus_resetAsserted (f : Focus → Focus) (s : State) : (modFocus f s).resetAsserted = s.resetAsserted := rfl
@[simp] theorem modFocus_straps (f : Focus → Focus) (s : State) : (modFocus f s).straps = s.straps := rfl
@[simp] theorem modFocus_runState (f : Focus → Focus) (s : State) : (modFocus f s).runState = s.runState := rfl
@[simp] theorem modFocus_xm (f : Focus → Focus) (s : State) : (modFocus f s).xm = s.xm := rfl
@[simp] theorem modFocus_desk (f : Focus → Focus) (s : State) : (modFocus f s).desk = s.desk := rfl
@[simp] theorem modFocus_tlines (f : Focus → Focus) (s : State) : (modFocus f s).tlines = s.tlines := rfl
@[simp] theorem modFocus_cur (f : Focus → Focus) (s : State) : (modFocus f s).cur = s.cur := rfl
@[simp] theorem modFocus_focus (f : Focus → Focus) (s : State) : (modFocus f s).focus = f s.focus := rfl
@[simp] theorem modFocus_hot (f : Focus → Focus) (s : State) : (modFocus f s).hot = s.hot := rfl
@[simp] theorem modFocus_comp (f : Focus → Focus) (s : State) : (modFocus f s).comp = s.comp := rfl
@[simp] theorem modFocus_heads (f : Focus → Focus) (s : State) : (modFocus f s).heads = s.heads := rfl
@[simp] theorem modFocus_idents (f : Focus → Focus) (s : State) : (modFocus f s).idents = s.idents := rfl
@[simp] theorem modFocus_served (f : Focus → Focus) (s : State) : (modFocus f s).served = s.served := rfl
@[simp] theorem modFocus_setups (f : Focus → Focus) (s : State) : (modFocus f s).setups = s.setups := rfl
@[simp] theorem modFocus_power (f : Focus → Focus) (s : State) : (modFocus f s).power = s.power := rfl
@[simp] theorem modFocus_wakes (f : Focus → Focus) (s : State) : (modFocus f s).wakes = s.wakes := rfl
@[simp] theorem modFocus_senseSlot (f : Focus → Focus) (s : State) : (modFocus f s).senseSlot = s.senseSlot := rfl
@[simp] theorem modFocus_panel (f : Focus → Focus) (s : State) : (modFocus f s).panel = s.panel := rfl

@[simp] theorem modHot_pending (f : Hotkeys → Hotkeys) (s : State) : (modHot f s).pending = s.pending := rfl
@[simp] theorem modHot_paces (f : Hotkeys → Hotkeys) (s : State) : (modHot f s).paces = s.paces := rfl
@[simp] theorem modHot_now (f : Hotkeys → Hotkeys) (s : State) : (modHot f s).now = s.now := rfl
@[simp] theorem modHot_resetAsserted (f : Hotkeys → Hotkeys) (s : State) : (modHot f s).resetAsserted = s.resetAsserted := rfl
@[simp] theorem modHot_straps (f : Hotkeys → Hotkeys) (s : State) : (modHot f s).straps = s.straps := rfl
@[simp] theorem modHot_runState (f : Hotkeys → Hotkeys) (s : State) : (modHot f s).runState = s.runState := rfl
@[simp] theorem modHot_xm (f : Hotkeys → Hotkeys) (s : State) : (modHot f s).xm = s.xm := rfl
@[simp] theorem modHot_desk (f : Hotkeys → Hotkeys) (s : State) : (modHot f s).desk = s.desk := rfl
@[simp] theorem modHot_tlines (f : Hotkeys → Hotkeys) (s : State) : (modHot f s).tlines = s.tlines := rfl
@[simp] theorem modHot_cur (f : Hotkeys → Hotkeys) (s : State) : (modHot f s).cur = s.cur := rfl
@[simp] theorem modHot_focus (f : Hotkeys → Hotkeys) (s : State) : (modHot f s).focus = s.focus := rfl
@[simp] theorem modHot_hot (f : Hotkeys → Hotkeys) (s : State) : (modHot f s).hot = f s.hot := rfl
@[simp] theorem modHot_comp (f : Hotkeys → Hotkeys) (s : State) : (modHot f s).comp = s.comp := rfl
@[simp] theorem modHot_heads (f : Hotkeys → Hotkeys) (s : State) : (modHot f s).heads = s.heads := rfl
@[simp] theorem modHot_idents (f : Hotkeys → Hotkeys) (s : State) : (modHot f s).idents = s.idents := rfl
@[simp] theorem modHot_served (f : Hotkeys → Hotkeys) (s : State) : (modHot f s).served = s.served := rfl
@[simp] theorem modHot_setups (f : Hotkeys → Hotkeys) (s : State) : (modHot f s).setups = s.setups := rfl
@[simp] theorem modHot_power (f : Hotkeys → Hotkeys) (s : State) : (modHot f s).power = s.power := rfl
@[simp] theorem modHot_wakes (f : Hotkeys → Hotkeys) (s : State) : (modHot f s).wakes = s.wakes := rfl
@[simp] theorem modHot_senseSlot (f : Hotkeys → Hotkeys) (s : State) : (modHot f s).senseSlot = s.senseSlot := rfl
@[simp] theorem modHot_panel (f : Hotkeys → Hotkeys) (s : State) : (modHot f s).panel = s.panel := rfl

@[simp] theorem post_pending (m : FocusMsg) (s : State) : (post m s).pending = s.pending := rfl
@[simp] theorem post_paces (m : FocusMsg) (s : State) : (post m s).paces = s.paces := rfl
@[simp] theorem post_now (m : FocusMsg) (s : State) : (post m s).now = s.now := rfl
@[simp] theorem post_resetAsserted (m : FocusMsg) (s : State) : (post m s).resetAsserted = s.resetAsserted := rfl
@[simp] theorem post_straps (m : FocusMsg) (s : State) : (post m s).straps = s.straps := rfl
@[simp] theorem post_runState (m : FocusMsg) (s : State) : (post m s).runState = s.runState := rfl
@[simp] theorem post_xm (m : FocusMsg) (s : State) : (post m s).xm = s.xm := rfl
@[simp] theorem post_desk (m : FocusMsg) (s : State) : (post m s).desk = s.desk := rfl
@[simp] theorem post_tlines (m : FocusMsg) (s : State) : (post m s).tlines = s.tlines := rfl
@[simp] theorem post_cur (m : FocusMsg) (s : State) : (post m s).cur = s.cur := rfl
@[simp] theorem post_focus (m : FocusMsg) (s : State) : (post m s).focus = { s.focus with inbox := s.focus.inbox ++ [m] } := rfl
@[simp] theorem post_hot (m : FocusMsg) (s : State) : (post m s).hot = s.hot := rfl
@[simp] theorem post_comp (m : FocusMsg) (s : State) : (post m s).comp = s.comp := rfl
@[simp] theorem post_heads (m : FocusMsg) (s : State) : (post m s).heads = s.heads := rfl
@[simp] theorem post_idents (m : FocusMsg) (s : State) : (post m s).idents = s.idents := rfl
@[simp] theorem post_served (m : FocusMsg) (s : State) : (post m s).served = s.served := rfl
@[simp] theorem post_setups (m : FocusMsg) (s : State) : (post m s).setups = s.setups := rfl
@[simp] theorem post_power (m : FocusMsg) (s : State) : (post m s).power = s.power := rfl
@[simp] theorem post_wakes (m : FocusMsg) (s : State) : (post m s).wakes = s.wakes := rfl
@[simp] theorem post_senseSlot (m : FocusMsg) (s : State) : (post m s).senseSlot = s.senseSlot := rfl
@[simp] theorem post_panel (m : FocusMsg) (s : State) : (post m s).panel = s.panel := rfl

@[simp] theorem writeMem_pending (a : Nat) (bs : List Byte) (s : State) : (writeMem a bs s).pending = s.pending := rfl
@[simp] theorem writeMem_paces (a : Nat) (bs : List Byte) (s : State) : (writeMem a bs s).paces = s.paces := rfl
@[simp] theorem writeMem_now (a : Nat) (bs : List Byte) (s : State) : (writeMem a bs s).now = s.now := rfl
@[simp] theorem writeMem_resetAsserted (a : Nat) (bs : List Byte) (s : State) : (writeMem a bs s).resetAsserted = s.resetAsserted := rfl
@[simp] theorem writeMem_straps (a : Nat) (bs : List Byte) (s : State) : (writeMem a bs s).straps = s.straps := rfl
@[simp] theorem writeMem_runState (a : Nat) (bs : List Byte) (s : State) : (writeMem a bs s).runState = s.runState := rfl
@[simp] theorem writeMem_xm (a : Nat) (bs : List Byte) (s : State) : (writeMem a bs s).xm = { s.xm with mem := s.xm.mem.write a bs } := rfl
@[simp] theorem writeMem_desk (a : Nat) (bs : List Byte) (s : State) : (writeMem a bs s).desk = s.desk := rfl
@[simp] theorem writeMem_tlines (a : Nat) (bs : List Byte) (s : State) : (writeMem a bs s).tlines = s.tlines := rfl
@[simp] theorem writeMem_cur (a : Nat) (bs : List Byte) (s : State) : (writeMem a bs s).cur = s.cur := rfl
@[simp] theorem writeMem_focus (a : Nat) (bs : List Byte) (s : State) : (writeMem a bs s).focus = s.focus := rfl
@[simp] theorem writeMem_hot (a : Nat) (bs : List Byte) (s : State) : (writeMem a bs s).hot = s.hot := rfl
@[simp] theorem writeMem_comp (a : Nat) (bs : List Byte) (s : State) : (writeMem a bs s).comp = s.comp := rfl
@[simp] theorem writeMem_heads (a : Nat) (bs : List Byte) (s : State) : (writeMem a bs s).heads = s.heads := rfl
@[simp] theorem writeMem_idents (a : Nat) (bs : List Byte) (s : State) : (writeMem a bs s).idents = s.idents := rfl
@[simp] theorem writeMem_served (a : Nat) (bs : List Byte) (s : State) : (writeMem a bs s).served = s.served := rfl
@[simp] theorem writeMem_setups (a : Nat) (bs : List Byte) (s : State) : (writeMem a bs s).setups = s.setups := rfl
@[simp] theorem writeMem_power (a : Nat) (bs : List Byte) (s : State) : (writeMem a bs s).power = s.power := rfl
@[simp] theorem writeMem_wakes (a : Nat) (bs : List Byte) (s : State) : (writeMem a bs s).wakes = s.wakes := rfl
@[simp] theorem writeMem_senseSlot (a : Nat) (bs : List Byte) (s : State) : (writeMem a bs s).senseSlot = s.senseSlot := rfl
@[simp] theorem writeMem_panel (a : Nat) (bs : List Byte) (s : State) : (writeMem a bs s).panel = s.panel := rfl

@[simp] theorem give_pending (p : Share) (s : State) : (give p s).pending = s.pending := rfl
@[simp] theorem give_paces (p : Share) (s : State) : (give p s).paces = s.paces := rfl
@[simp] theorem give_now (p : Share) (s : State) : (give p s).now = s.now := rfl
@[simp] theorem give_resetAsserted (p : Share) (s : State) : (give p s).resetAsserted = s.resetAsserted := rfl
@[simp] theorem give_straps (p : Share) (s : State) : (give p s).straps = s.straps := rfl
@[simp] theorem give_runState (p : Share) (s : State) : (give p s).runState = s.runState := rfl
theorem give_xm (p : Share) (s : State) : (give p s).xm = { s.xm with given := (give p s).xm.given } := rfl
@[simp] theorem give_desk (p : Share) (s : State) : (give p s).desk = s.desk := rfl
@[simp] theorem give_tlines (p : Share) (s : State) : (give p s).tlines = s.tlines := rfl
@[simp] theorem give_cur (p : Share) (s : State) : (give p s).cur = s.cur := rfl
@[simp] theorem give_focus (p : Share) (s : State) : (give p s).focus = s.focus := rfl
@[simp] theorem give_hot (p : Share) (s : State) : (give p s).hot = s.hot := rfl
@[simp] theorem give_comp (p : Share) (s : State) : (give p s).comp = s.comp := rfl
@[simp] theorem give_heads (p : Share) (s : State) : (give p s).heads = s.heads := rfl
@[simp] theorem give_idents (p : Share) (s : State) : (give p s).idents = s.idents := rfl
@[simp] theorem give_served (p : Share) (s : State) : (give p s).served = s.served := rfl
@[simp] theorem give_setups (p : Share) (s : State) : (give p s).setups = s.setups := rfl
@[simp] theorem give_power (p : Share) (s : State) : (give p s).power = s.power := rfl
@[simp] theorem give_wakes (p : Share) (s : State) : (give p s).wakes = s.wakes := rfl
@[simp] theorem give_senseSlot (p : Share) (s : State) : (give p s).senseSlot = s.senseSlot := rfl
@[simp] theorem give_panel (p : Share) (s : State) : (give p s).panel = s.panel := rfl
@[simp] theorem give_xm_mem (p : Share) (s : State) : (give p s).xm.mem = s.xm.mem := rfl
@[simp] theorem give_xm_revision (p : Share) (s : State) : (give p s).xm.revision = s.xm.revision := rfl
@[simp] theorem give_xm_noteEnable (p : Share) (s : State) : (give p s).xm.noteEnable = s.xm.noteEnable := rfl
@[simp] theorem give_xm_sweepPeriod (p : Share) (s : State) : (give p s).xm.sweepPeriod = s.xm.sweepPeriod := rfl
@[simp] theorem give_xm_sweepDue (p : Share) (s : State) : (give p s).xm.sweepDue = s.xm.sweepDue := rfl
@[simp] theorem give_xm_sweepState (p : Share) (s : State) : (give p s).xm.sweepState = s.xm.sweepState := rfl
@[simp] theorem give_xm_pendingSweep (p : Share) (s : State) : (give p s).xm.pendingSweep = s.xm.pendingSweep := rfl
@[simp] theorem give_xm_sweepCount (p : Share) (s : State) : (give p s).xm.sweepCount = s.xm.sweepCount := rfl
@[simp] theorem give_xm_completionNo (p : Share) (s : State) : (give p s).xm.completionNo = s.xm.completionNo := rfl
@[simp] theorem give_xm_inWork (p : Share) (s : State) : (give p s).xm.inWork = s.xm.inWork := rfl
@[simp] theorem give_xm_waiting (p : Share) (s : State) : (give p s).xm.waiting = s.xm.waiting := rfl

@[simp] theorem giveAll_pending (s : State) : (giveAll s).pending = s.pending := rfl
@[simp] theorem giveAll_paces (s : State) : (giveAll s).paces = s.paces := rfl
@[simp] theorem giveAll_now (s : State) : (giveAll s).now = s.now := rfl
@[simp] theorem giveAll_resetAsserted (s : State) : (giveAll s).resetAsserted = s.resetAsserted := rfl
@[simp] theorem giveAll_straps (s : State) : (giveAll s).straps = s.straps := rfl
@[simp] theorem giveAll_runState (s : State) : (giveAll s).runState = s.runState := rfl
@[simp] theorem giveAll_xm (s : State) : (giveAll s).xm = { s.xm with given := s.gives } := rfl
@[simp] theorem giveAll_desk (s : State) : (giveAll s).desk = s.desk := rfl
@[simp] theorem giveAll_tlines (s : State) : (giveAll s).tlines = s.tlines := rfl
@[simp] theorem giveAll_cur (s : State) : (giveAll s).cur = s.cur := rfl
@[simp] theorem giveAll_focus (s : State) : (giveAll s).focus = s.focus := rfl
@[simp] theorem giveAll_hot (s : State) : (giveAll s).hot = s.hot := rfl
@[simp] theorem giveAll_comp (s : State) : (giveAll s).comp = s.comp := rfl
@[simp] theorem giveAll_heads (s : State) : (giveAll s).heads = s.heads := rfl
@[simp] theorem giveAll_idents (s : State) : (giveAll s).idents = s.idents := rfl
@[simp] theorem giveAll_served (s : State) : (giveAll s).served = s.served := rfl
@[simp] theorem giveAll_setups (s : State) : (giveAll s).setups = s.setups := rfl
@[simp] theorem giveAll_power (s : State) : (giveAll s).power = s.power := rfl
@[simp] theorem giveAll_wakes (s : State) : (giveAll s).wakes = s.wakes := rfl
@[simp] theorem giveAll_senseSlot (s : State) : (giveAll s).senseSlot = s.senseSlot := rfl
@[simp] theorem giveAll_panel (s : State) : (giveAll s).panel = s.panel := rfl

end Sys2Proof.Machine
end

