-- ==== Sys2Proof/Laws/Kept.lean ====
section
/-! SUPPORT. What the work of the focus controller, and of the blocks it asks (queues, cursor placement, composer, wake operations, the panel's view, the notice writer), leaves as it was, said once for every shared operation. -/

namespace Sys2Proof.Machine

open Sys2Proof

theorem LineKept.refl (l : TargetLine) : LineKept l l := ⟨rfl, fun _ => ⟨rfl, rfl⟩, fun _ h => h, id⟩

theorem LineKept.link {l l' : TargetLine} (h : LineKept l l') : l'.link = l.link := congrArg (·.1) h.wire

theorem LineKept.trans {l m n : TargetLine} (h : LineKept l m) (g : LineKept m n) : LineKept l n := by
  refine ⟨g.wire.trans h.wire, fun hl => ?_, fun hl hr => ?_, fun x => g.bounded (h.bounded x)⟩
  · have a := h.queue hl
    have b := g.queue (by rw [h.link]; exact hl)
    exact ⟨b.1.trans a.1, b.2.trans a.2⟩
  · exact g.resume (by rw [h.link]; exact hl) (h.resume hl hr)

theorem ScreenKept.refl (r : ScreenRec) : ScreenKept r r := ⟨rfl, fun _ => rfl⟩

theorem ScreenKept.trans {r q p : ScreenRec} (h : ScreenKept r q) (g : ScreenKept q p) : ScreenKept r p := by
  have e : q.state = r.state := congrArg (·.1) h.timing
  exact ⟨g.timing.trans h.timing, fun hr => (g.plans (by rw [e]; exact hr)).trans (h.plans hr)⟩

theorem entry_none_of_sublist (x y : Exchange) (h : y.inWork.Sublist x.inWork) (c : CellId) (hc : x.entry c = none) :
    y.entry c = none := by
  unfold Exchange.entry at *
  rw [List.find?_eq_none] at *
  exact fun e he => hc e (h.subset he)

/-- Removing a cell from the in-work set leaves the entries of the others. -/
theorem find_filter_ne (ws : List InWork) (c d : CellId) (h : d ≠ c) :
    (ws.filter fun x => decide (x.cell ≠ c)).find? (fun x => decide (x.cell = d)) = ws.find? fun x => decide (x.cell = d) := by
  rw [List.find?_filter]
  congr 1
  funext x
  by_cases hx : x.cell = d
  · simp [hx, h]
  · simp [hx]

theorem Kept.refl (s : State) : Kept s s :=
  ⟨rfl, fun _ => ScreenKept.refl _, fun _ => LineKept.refl _, id, fun _ _ => rfl, fun _ _ _ _ _ => rfl,
    List.Sublist.refl _, id, fun _ h g => absurd g h⟩

theorem Kept.trans {s t u : State} (h : Kept s t) (g : Kept t u) : Kept s u :=
  ⟨g.outer.trans h.outer, fun c => (h.screens c).trans (g.screens c), fun k => (h.lines k).trans (g.lines k),
    fun x => g.canonical (h.canonical x), fun a ha => (g.above a ha).trans (h.above a ha),
    fun c hc a h1 h2 => (g.cells c (entry_none_of_sublist _ _ h.inWork c hc) a h1 h2).trans (h.cells c hc a h1 h2),
    g.inWork.trans h.inWork, fun x => g.residuals (h.residuals x), fun c hc hu => by
      by_cases ht : t.xm.entry c = none
      · rw [g.cells c ht _ (by omega) (by omega)]
        exact h.done c hc ht
      · exact g.done c ht hu⟩

theorem Kept.queues {s t : State} (h : Kept s t) (hs : s.queuesBounded) : t.queuesBounded :=
  fun k => (h.lines k).bounded (hs k)

/-! ### The frame, field by field -/

theorem Kept.pending {s t : State} (h : Kept s t) : t.pending = s.pending := congrArg (·.1.1) h.outer

theorem Kept.paces {s t : State} (h : Kept s t) : t.paces = s.paces := congrArg (·.1.2) h.outer

theorem Kept.now {s t : State} (h : Kept s t) : t.now = s.now := congrArg (·.2.1) h.outer

theorem Kept.resetAsserted {s t : State} (h : Kept s t) : t.resetAsserted = s.resetAsserted := congrArg (·.2.2.1) h.outer

theorem Kept.straps {s t : State} (h : Kept s t) : t.straps = s.straps := congrArg (·.2.2.2.1) h.outer

theorem Kept.runState {s t : State} (h : Kept s t) : t.runState = s.runState := congrArg (·.2.2.2.2.1) h.outer

theorem Kept.desk {s t : State} (h : Kept s t) : t.desk = s.desk := congrArg (·.2.2.2.2.2.1) h.outer

theorem Kept.hot {s t : State} (h : Kept s t) : t.hot = s.hot := congrArg (·.2.2.2.2.2.2.1) h.outer

theorem Kept.heads {s t : State} (h : Kept s t) : t.heads = s.heads := congrArg (·.2.2.2.2.2.2.2.1) h.outer

theorem Kept.idents {s t : State} (h : Kept s t) : t.idents = s.idents := congrArg (·.2.2.2.2.2.2.2.2.1) h.outer

theorem Kept.served {s t : State} (h : Kept s t) : t.served = s.served := congrArg (·.2.2.2.2.2.2.2.2.2.1) h.outer

theorem Kept.setups {s t : State} (h : Kept s t) : t.setups = s.setups := congrArg (·.2.2.2.2.2.2.2.2.2.2.1) h.outer

theorem Kept.power {s t : State} (h : Kept s t) : t.power = s.power := congrArg (·.2.2.2.2.2.2.2.2.2.2.2.1) h.outer

theorem Kept.senseSlot {s t : State} (h : Kept s t) : t.senseSlot = s.senseSlot := congrArg (·.2.2.2.2.2.2.2.2.2.2.2.2.1) h.outer

theorem Kept.geo {s t : State} (h : Kept s t) : t.cur.geo = s.cur.geo := congrArg (·.2.2.2.2.2.2.2.2.2.2.2.2.2.1.1) h.outer

theorem Kept.settings {s t : State} (h : Kept s t) : t.cur.settings = s.cur.settings := congrArg (·.2.2.2.2.2.2.2.2.2.2.2.2.2.1.2.1) h.outer

theorem Kept.deskButtons {s t : State} (h : Kept s t) : t.cur.deskButtons = s.cur.deskButtons := congrArg (·.2.2.2.2.2.2.2.2.2.2.2.2.2.1.2.2) h.outer

theorem Kept.keys {s t : State} (h : Kept s t) : t.panel.keys = s.panel.keys := congrArg (·.2.2.2.2.2.2.2.2.2.2.2.2.2.2.1.1) h.outer

theorem Kept.inds {s t : State} (h : Kept s t) : t.panel.inds = s.panel.inds := congrArg (·.2.2.2.2.2.2.2.2.2.2.2.2.2.2.1.2.1) h.outer

theorem Kept.lit {s t : State} (h : Kept s t) : t.panel.lit = s.panel.lit := congrArg (·.2.2.2.2.2.2.2.2.2.2.2.2.2.2.1.2.2.1) h.outer

theorem Kept.focusDuty {s t : State} (h : Kept s t) : t.panel.focusDuty = s.panel.focusDuty := congrArg (·.2.2.2.2.2.2.2.2.2.2.2.2.2.2.1.2.2.2.1) h.outer

theorem Kept.idleDuty {s t : State} (h : Kept s t) : t.panel.idleDuty = s.panel.idleDuty := congrArg (·.2.2.2.2.2.2.2.2.2.2.2.2.2.2.1.2.2.2.2.1) h.outer

theorem Kept.nextDrive {s t : State} (h : Kept s t) : t.panel.nextDrive = s.panel.nextDrive := congrArg (·.2.2.2.2.2.2.2.2.2.2.2.2.2.2.1.2.2.2.2.2.1) h.outer

theorem Kept.phaseStart {s t : State} (h : Kept s t) : t.panel.phaseStart = s.panel.phaseStart := congrArg (·.2.2.2.2.2.2.2.2.2.2.2.2.2.2.1.2.2.2.2.2.2.1) h.outer

theorem Kept.lastEvent {s t : State} (h : Kept s t) : t.panel.lastEvent = s.panel.lastEvent := congrArg (·.2.2.2.2.2.2.2.2.2.2.2.2.2.2.1.2.2.2.2.2.2.2) h.outer

theorem Kept.noteEnable {s t : State} (h : Kept s t) : t.xm.noteEnable = s.xm.noteEnable := congrArg (·.2.2.2.2.2.2.2.2.2.2.2.2.2.2.2.1) h.outer

theorem Kept.sweepPeriod {s t : State} (h : Kept s t) : t.xm.sweepPeriod = s.xm.sweepPeriod := congrArg (·.2.2.2.2.2.2.2.2.2.2.2.2.2.2.2.2.1) h.outer

theorem Kept.sweepDue {s t : State} (h : Kept s t) : t.xm.sweepDue = s.xm.sweepDue := congrArg (·.2.2.2.2.2.2.2.2.2.2.2.2.2.2.2.2.2.1) h.outer

theorem Kept.sweepState {s t : State} (h : Kept s t) : t.xm.sweepState = s.xm.sweepState := congrArg (·.2.2.2.2.2.2.2.2.2.2.2.2.2.2.2.2.2.2.1) h.outer

theorem Kept.pendingSweep {s t : State} (h : Kept s t) : t.xm.pendingSweep = s.xm.pendingSweep := congrArg (·.2.2.2.2.2.2.2.2.2.2.2.2.2.2.2.2.2.2.2.1) h.outer

theorem Kept.sweepCount {s t : State} (h : Kept s t) : t.xm.sweepCount = s.xm.sweepCount := congrArg (·.2.2.2.2.2.2.2.2.2.2.2.2.2.2.2.2.2.2.2.2.1) h.outer

theorem Kept.waiting {s t : State} (h : Kept s t) : t.xm.waiting = s.xm.waiting := congrArg (·.2.2.2.2.2.2.2.2.2.2.2.2.2.2.2.2.2.2.2.2.2) h.outer

/-- The focus controller's record and working items, without what it has not yet taken. -/
def Focus.core (f : Focus) : Focus := { f with inbox := [] }

/-- `t` is `s` after work of the blocks below the focus controller, whose record they leave. -/
structure Below (s t : State) : Prop where
  kept : Kept s t
  core : t.focus.core = s.focus.core

theorem Below.refl (s : State) : Below s s := ⟨Kept.refl s, rfl⟩

theorem Below.trans {s t u : State} (h : Below s t) (g : Below t u) : Below s u :=
  ⟨h.kept.trans g.kept, g.core.trans h.core⟩

theorem below_foldl {α : Type} (f : State → α → State) (h : ∀ s x, Below s (f s x)) (xs : List α) (s : State) :
    Below s (xs.foldl f s) := by
  induction xs generalizing s with
  | nil => exact Below.refl s
  | cons x xs ih => exact (h s x).trans (ih _)

/-! ## Single updates -/

/-- Bytes written by the part between the cells and the staging area. -/
theorem below_writeMem (a : Nat) (bs : List Byte) (s : State) (h0 : 0x0400 ≤ a) (h : a + bs.length ≤ 0x0C00) :
    Below s (writeMem a bs s) :=
  ⟨⟨rfl, fun _ => ScreenKept.refl _, fun _ => LineKept.refl _, Memory.wf_write _ _ _,
    fun x hx => Memory.read_write_outside _ _ _ _ (by omega),
    fun c _ x _ hx => Memory.read_write_outside _ _ _ _ (by have := c.2; omega), List.Sublist.refl _, id, fun _ h g => absurd g h⟩, rfl⟩

/-- An update that leaves everything the relation speaks of. -/
theorem below_modWake (k : TargetId) (f : WakeOp → WakeOp) (s : State) : Below s (modWake k f s) :=
  ⟨⟨rfl, fun _ => ScreenKept.refl _, fun _ => LineKept.refl _, id, fun _ _ => rfl, fun _ _ _ _ _ => rfl,
    List.Sublist.refl _, id, fun _ h g => absurd g h⟩, rfl⟩

theorem below_post (m : FocusMsg) (s : State) : Below s (post m s) :=
  ⟨⟨rfl, fun _ => ScreenKept.refl _, fun _ => LineKept.refl _, id, fun _ _ => rfl, fun _ _ _ _ _ => rfl,
    List.Sublist.refl _, id, fun _ h g => absurd g h⟩, rfl⟩

theorem below_modTLine (k : TargetId) (f : TargetLine → TargetLine) (s : State)
    (h : LineKept s.tlines[k.1] (f s.tlines[k.1])) : Below s (modTLine k f s) := by
  refine ⟨⟨rfl, fun _ => ScreenKept.refl _, fun j => ?_, id, fun _ _ => rfl, fun _ _ _ _ _ => rfl,
    List.Sublist.refl _, id, fun _ h g => absurd g h⟩, rfl⟩
  simp only [modTLine_tlines, upd_get]
  split
  · rename_i e; subst e; exact h
  · exact LineKept.refl _

theorem below_modScreen (c : ScreenId) (f : ScreenRec → ScreenRec) (s : State)
    (h : ScreenKept s.comp.screens[c.1] (f s.comp.screens[c.1])) : Below s (modScreen c f s) := by
  refine ⟨⟨rfl, fun d => ?_, fun _ => LineKept.refl _, id, fun _ _ => rfl, fun _ _ _ _ _ => rfl,
    List.Sublist.refl _, id, fun _ h g => absurd g h⟩, rfl⟩
  simp only [modScreen_comp, upd_get]
  split
  · rename_i e; subst e; exact h
  · exact ScreenKept.refl _

/-- The gain residuals of a cursor record within −7 to 7. -/
def Cursor.bounded (c : Cursor) : Prop := -7 ≤ c.rx ∧ c.rx ≤ 7 ∧ -7 ≤ c.ry ∧ c.ry ≤ 7

theorem below_modCursor (f : Cursor → Cursor) (s : State) (h : ∀ c : Cursor, c.bounded → (f c).bounded) :
    Below s (modCursor f s) :=
  ⟨⟨rfl, fun _ => ScreenKept.refl _, fun _ => LineKept.refl _, id, fun _ _ => rfl, fun _ _ _ _ _ => rfl,
    List.Sublist.refl _, fun hs => h _ hs, fun _ h g => absurd g h⟩, rfl⟩

/-! ## The notice writer -/

theorem padTo_length (n : Nat) (bs : List Byte) : (padTo n bs).length = n := by
  simp [padTo]

theorem le16_length (w : Word16) : (le16 w).length = 2 := rfl

theorem le32_length (w : Word32) : (le32 w).length = 4 := rfl

theorem Mirror.fits (m : Mirror) : 2 ≤ m.size ∧ 0x0420 ≤ m.base ∧ m.base + m.size ≤ 0x0C00 := by
  cases m <;> simp [Mirror.base, Mirror.size] <;> omega

theorem below_setSummary (g : Nat) (s : State) (h : g < 22) : Below s (setSummary g s) :=
  below_writeMem _ _ _ (by simp [Config.noticeBase]) (by simp [Config.noticeBase]; omega)

theorem below_rewriteMirror (m : Mirror) (s : State) : Below s (rewriteMirror m s) := by
  unfold rewriteMirror
  have := m.fits
  refine Below.trans ?_ (below_writeMem _ _ _ (by omega) ?_)
  · exact ⟨⟨rfl, fun _ => ScreenKept.refl _, fun _ => LineKept.refl _, id, fun _ _ => rfl, fun _ _ _ _ _ => rfl,
      List.Sublist.refl _, id, fun _ h g => absurd g h⟩, rfl⟩
  · simp only [List.length_append, le16_length, padTo_length]
    omega

theorem below_notice (m : Mirror) (s : State) : Below s (notice m s) :=
  (below_rewriteMirror m s).trans (below_setSummary _ _ m.index.2)

/-- An owner's fields given to the notice writer. -/
theorem below_give (p : Share) (s : State) : Below s (give p s) :=
  ⟨⟨rfl, fun _ => ScreenKept.refl _, fun _ => LineKept.refl _, id, fun _ _ => rfl, fun _ _ _ _ _ => rfl,
    List.Sublist.refl _, id, fun _ h g => absurd g h⟩, rfl⟩

theorem below_giveAll (s : State) : Below s (giveAll s) :=
  ⟨⟨rfl, fun _ => ScreenKept.refl _, fun _ => LineKept.refl _, id, fun _ _ => rfl, fun _ _ _ _ _ => rfl,
    List.Sublist.refl _, id, fun _ h g => absurd g h⟩, rfl⟩

theorem below_rewriteOf (p : Share) (s : State) : Below s (rewriteOf p s) :=
  (below_give p s).trans (below_rewriteMirror _ _)

theorem below_noticeOf (p : Share) (s : State) : Below s (noticeOf p s) :=
  (below_give p s).trans (below_notice _ _)

theorem below_cursorMirrorSince (c : Cursor) (s : State) : Below s (cursorMirrorSince c s) := by
  unfold cursorMirrorSince
  split
  · exact Below.refl s
  · exact below_rewriteMirror _ _

/-- A completion of a cell in the in-work set writes that cell and no other. -/
theorem below_complete (c : CellId) (r : Result) (data : List Byte) (s : State) : Below s (complete c r data s) := by
  unfold complete
  split
  · exact Below.refl s
  · rename_i e he
    refine Below.trans ?_ (below_setSummary _ _ (by omega))
    have hc := c.2
    have l1 : (le16 e.tag ++ [3, e.kind, r.code, byte data.length]).length = 6 := rfl
    have l2 (n : Word32) : (le32 n ++ padTo 52 data).length = 56 := by
      simp only [List.length_append, le32_length, padTo_length]
    refine ⟨⟨rfl, fun _ => ScreenKept.refl _, fun _ => LineKept.refl _, fun hm => ?_, fun a ha => ?_,
      fun d hd a h1 h2 => ?_, List.filter_sublist, id, fun d hd hn => ?_⟩, rfl⟩
    · exact Memory.wf_write _ _ _ (Memory.wf_write _ _ _ hm)
    · simp only [writeMem_xm]
      rw [Memory.read_write_outside _ _ _ _ (by rw [l2]; simp only [cellBase]; omega),
        Memory.read_write_outside _ _ _ _ (by rw [l1]; simp only [cellBase]; omega)]
    · have hne : c.1 ≠ d.1 := fun h => by
        have : c = d := Fin.ext h
        subst this
        rw [hd] at he; cases he
      simp only [writeMem_xm]
      rw [Memory.read_write_outside _ _ _ _ (by rw [l2]; simp only [cellBase]; omega),
        Memory.read_write_outside _ _ _ _ (by rw [l1]; simp only [cellBase]; omega)]
    · have hdc : d = c := by
        by_cases h : d = c
        · exact h
        · exact absurd ((find_filter_ne s.xm.inWork c d h).symm.trans hn) hd
      subst hdc
      simp only [writeMem_xm]
      rw [Memory.read_write_outside _ _ _ _ (by simp only [cellBase]; omega), Memory.read_write,
        if_pos (by rw [l1]; simp only [cellBase]; omega)]
      have : 64 * d.1 + 2 - cellBase d = 2 := by simp only [cellBase]; omega
      rw [this]
      rfl

theorem below_completeAll (cells : List CellId) (r : Result) (data : State → List Byte) (s : State) :
    Below s (completeAll cells r data s) :=
  below_foldl _ (fun s c => below_complete c r (data s) s) _ _

/-! ## Output queues -/

theorem satInc_le (n : Nat) (h : n ≤ 255) : satInc n ≤ 255 := by
  unfold satInc
  have : Config.saturation = 255 := rfl
  split <;> omega

theorem replaceNewest_length (new : Entry) (q q' : List Entry) (h : replaceNewest new q = some q') :
    q'.length = q.length := by
  induction q generalizing q' with
  | nil => simp [replaceNewest] at h
  | cons e es ih =>
    simp only [replaceNewest] at h
    split at h
    · rename_i r hr
      cases h
      simp [ih _ hr]
    · split at h
      · cases h; rfl
      · cases h

/-- The joining rules keep a queue at 4 entries at most. -/
theorem joinQueue_length (q : List Entry) (new : Entry) (h : q.length ≤ 4) : (joinQueue q new).1.length ≤ 4 := by
  have hc : Config.queueCapacity = 4 := rfl
  unfold joinQueue
  split
  · rename_i m hm
    have hq : q ≠ [] := fun e => by subst e; simp at hm
    have : 0 < q.length := List.length_pos_iff.mpr hq
    simp; omega
  · split
    · simp; omega
    · split
      · rename_i q' hq'
        simpa [replaceNewest_length _ _ _ hq'] using h
      · split
        · simp; omega
        · exact h

theorem TargetLine.join_bounded (l : TargetLine) (new : Entry) (h : l.bounded) : (l.join new).bounded := by
  refine ⟨joinQueue_length _ _ h.1, ?_⟩
  simp only [TargetLine.join]
  split
  · exact satInc_le _ h.2
  · exact h.2

theorem TargetLine.flush_bounded (l : TargetLine) (h : l.bounded) : l.flush.bounded :=
  ⟨by simp [TargetLine.flush], h.2⟩

theorem TargetLine.releaseFlush_bounded (l : TargetLine) (h : l.bounded) : l.releaseFlush.bounded :=
  ⟨Nat.le_trans (List.length_filter_le _ _) h.1, h.2⟩

theorem TargetLine.endTransmission_bounded (l : TargetLine) (h : l.bounded) : l.endTransmission.bounded := by
  unfold TargetLine.endTransmission
  split <;> exact h

theorem TargetLine.startTransmission_bounded (l : TargetLine) (h : l.bounded) : l.startTransmission.bounded := by
  unfold TargetLine.startTransmission
  split
  · exact h
  · rename_i e es he
    refine ⟨?_, h.2⟩
    have := h.1
    rw [he, List.length_cons] at this
    simp only; omega

theorem TargetLine.join_kept (l : TargetLine) (new : Entry) (h : l.link = .up) : LineKept l (l.join new) :=
  ⟨rfl, fun hl => absurd h hl, fun _ hr => hr, fun hb => l.join_bounded _ hb⟩

theorem below_handIn (k : TargetId) (r : Report) (o : Origin) (s : State) : Below s (handIn k r o s) := by
  simp only [handIn]
  split
  · rename_i hu
    have h : Below s (modTLine k (fun l => l.join { report := r, origin := o }) s) :=
      below_modTLine _ _ _ (TargetLine.join_kept _ _ hu.1)
    split
    · exact h
    · exact h.trans (below_noticeOf _ _)
  · exact Below.refl s

theorem below_requestResume (k : TargetId) (s : State) : Below s (requestResume k s).2 := by
  simp only [requestResume]
  split
  · rename_i hl
    split
    · exact Below.refl s
    · refine Below.trans ?_ (below_noticeOf _ _)
      exact below_modTLine _ _ _ ⟨rfl, fun _ => ⟨rfl, rfl⟩, fun hn _ => absurd hl hn, id⟩
  · exact Below.refl s

theorem below_stopResume (k : TargetId) (s : State) : Below s (stopResume k s) := by
  unfold stopResume
  split
  · refine Below.trans ?_ (below_noticeOf _ _)
    exact below_modTLine _ _ _ ⟨rfl, fun _ => ⟨rfl, rfl⟩, fun _ _ => rfl, id⟩
  · exact Below.refl s

theorem below_releasePair (k : TargetId) (s : State) : Below s (releasePair k s) :=
  (below_handIn _ _ _ _).trans (below_handIn _ _ _ _)

/-! ## Cursor placement -/

theorem below_buildPoint (t : TargetId) (w : Int) (s : State) : Below s (buildPoint t w s) := by
  unfold buildPoint
  split
  · exact Below.refl s
  · rename_i p _
    refine Below.trans (below_handIn t (.point s.cur.deskButtons p.1 p.2 w) .focus s) ?_
    exact ⟨⟨rfl, fun _ => ScreenKept.refl _, fun _ => LineKept.refl _, id, fun _ _ => rfl, fun _ _ _ _ _ => rfl,
      List.Sublist.refl _, id, fun _ h g => absurd g h⟩, rfl⟩

theorem below_requestPoint (s : State) : Below s (requestPoint s) := by
  unfold requestPoint
  split
  · exact below_buildPoint _ _ _
  · exact Below.refl s

theorem Cursor.still_bounded (c : Cursor) : c.still.bounded := by
  simp [Cursor.still, Cursor.bounded]

theorem below_moveToTile (sc : ScreenId) (i : Fin 4) (s : State) : Below s (moveToTile sc i s) := by
  unfold moveToTile
  split
  · exact Below.refl s
  · refine Below.trans ?_ (below_rewriteMirror _ _)
    exact below_modCursor _ _ fun c _ => c.still_bounded

theorem below_placeCursor (t : TargetId) (s : State) : Below s (placeCursor t s).2 := by
  unfold placeCursor
  split
  · exact Below.refl s
  · split
    · exact below_moveToTile _ _ _
    · exact Below.refl s

theorem below_relocate (s : State) : Below s (relocate s) := by
  unfold relocate
  split
  · exact below_modCursor _ _ fun c hc => hc
  · exact Below.refl s

theorem below_planReportToCursor (sc : ScreenId) (s : State) : Below s (planReportToCursor sc s) := by
  unfold planReportToCursor
  split
  · exact (below_relocate s).trans (below_cursorMirrorSince _ _)
  · exact Below.refl s

theorem below_centreOn (sc : ScreenId) (s : State) : Below s (centreOn sc s) := by
  refine Below.trans ?_ (below_relocate _)
  exact below_modCursor _ _ fun c hc => hc

/-! ## The panel's view -/

theorem below_panelView (f : PanelView → PanelView) (s : State) :
    Below s (panelReport (fun p => { p with view := f p.view }) s) := by
  have h : Below s { s with panel := ({ s.panel with view := f s.panel.view } : Panel).workOutDuties s.straps } :=
    ⟨⟨rfl, fun _ => ScreenKept.refl _, fun _ => LineKept.refl _, id, fun _ _ => rfl, fun _ _ _ _ _ => rfl,
      List.Sublist.refl _, id, fun _ h g => absurd g h⟩, rfl⟩
  simp only [panelReport]
  split
  · exact h
  · exact h.trans (below_rewriteMirror _ _)

theorem below_focusToPanel (s : State) : Below s (focusToPanel s) :=
  below_panelView (fun v => { v with focus := s.focus.st, pin := s.focus.pin }) s

theorem below_powerToPanel (k : TargetId) (v : Power) (s : State) : Below s (powerToPanel k v s) :=
  below_panelView (fun w => { w with power := w.power.set k.1 v k.2 }) s

theorem below_wakingToPanel (k : TargetId) (v : Bool) (s : State) : Below s (wakingToPanel k v s) :=
  below_panelView (fun w => { w with waking := w.waking.set k.1 v k.2 }) s

theorem below_planToPanel (sc : ScreenId) (s : State) : Below s (planToPanel sc s) :=
  below_panelView (fun w => { w with
    loaned := w.loaned.set sc.1 (!s.comp.screens[sc.1].loans.isEmpty) sc.2,
    plans := w.plans.set sc.1 s.comp.screens[sc.1].active sc.2 }) s

/-! ## The composer -/

theorem Composer.present_screens (c : Composer) (sc : ScreenId) : (c.present sc).screens = c.screens := by
  unfold Composer.present Composer.writeFields
  rfl

theorem Composer.present_view (c : Composer) (sc : ScreenId) : (c.present sc).view = c.view := by
  unfold Composer.present Composer.writeFields
  rfl

theorem below_presentScreen (sc : ScreenId) (s : State) : Below s (presentScreen sc s) := by
  unfold presentScreen
  generalize hc : s.comp.present sc = c
  have h : c.screens = s.comp.screens := hc ▸ Composer.present_screens _ _
  refine ⟨⟨rfl, fun d => ?_, fun _ => LineKept.refl _, id, fun _ _ => rfl, fun _ _ _ _ _ => rfl,
      List.Sublist.refl _, id, fun _ h g => absurd g h⟩, rfl⟩
  simp only [h]
  exact ScreenKept.refl _

theorem below_presentIfDisabled (sc : ScreenId) (s : State) : Below s (presentIfDisabled sc s) := by
  unfold presentIfDisabled
  split
  · exact below_presentScreen _ _
  · exact Below.refl s

theorem below_viewReport (k : TargetId) (f : TargetView → TargetView) (s : State) : Below s (viewReport k f s) := by
  have h : Below s { s with comp := { s.comp with view := upd s.comp.view k f } } :=
    ⟨⟨rfl, fun _ => ScreenKept.refl _, fun _ => LineKept.refl _, id, fun _ _ => rfl, fun _ _ _ _ _ => rfl,
      List.Sublist.refl _, id, fun _ h g => absurd g h⟩, rfl⟩
  unfold viewReport
  refine h.trans (below_foldl _ (fun s sc => ?_) _ _)
  split
  · exact Below.refl s
  · exact (below_presentIfDisabled _ _).trans (below_noticeOf _ _)

/-- The screen record that an application leaves. -/
def ScreenRec.afterApply (r : ScreenRec) : ScreenRec :=
  match r.staged with
  | none => r
  | some g => r.applied g

theorem upd_same {α : Type} {n : Nat} (v : Vector α n) (i : Fin n) (f : α → α) (h : f v[i.1] = v[i.1]) : upd v i f = v := by
  simp [upd, h]

/-- An application: the staged plan, if any, takes its place in the screen's record, and the rest is work of the blocks below. -/
theorem below_applyStaged (sc : ScreenId) (b : Bool) (s : State) :
    Below (modScreen sc ScreenRec.afterApply s) (applyStaged sc b s) := by
  unfold applyStaged
  split
  · rename_i h
    have e : modScreen sc ScreenRec.afterApply s = s := by
      have : ScreenRec.afterApply s.comp.screens[sc.1] = s.comp.screens[sc.1] := by simp only [ScreenRec.afterApply, h]
      simp only [modScreen, upd_same _ _ _ this]
    rw [e]
    exact below_presentScreen _ _
  · rename_i g h
    have e : modScreen sc ScreenRec.afterApply s = modScreen sc (fun r => r.applied g) s := by
      have : ScreenRec.afterApply s.comp.screens[sc.1] = (s.comp.screens[sc.1]).applied g := by
        simp only [ScreenRec.afterApply, h]
      simp only [modScreen, upd, this]
    rw [e]
    refine Below.trans ?_ (below_planReportToCursor _ _)
    refine Below.trans ?_ (below_post _ _)
    refine Below.trans ?_ (below_planToPanel _ _)
    refine Below.trans ?_ (below_noticeOf _ _)
    refine Below.trans ?_ (below_completeAll _ _ _ _)
    exact below_presentScreen _ _

/-- An application on a DISABLED screen. -/
theorem below_applyDisabled (sc : ScreenId) (b : Bool) (s : State) (h : s.comp.screens[sc.1].state = .disabled) :
    Below s (applyStaged sc b s) := by
  refine Below.trans (below_modScreen _ _ _ ⟨?_, fun hn => absurd h hn⟩) (below_applyStaged sc b s)
  unfold ScreenRec.afterApply
  split <;> rfl

theorem below_stage (sc : ScreenId) (g : Staged) (s : State) : Below s (stage sc g s) := by
  have h (cells : List CellId) : Below s (completeAll cells .superseded (planData sc)
      (modScreen sc (fun r => { r with staged := some g }) s)) := by
    refine Below.trans ?_ (below_completeAll _ _ _ _)
    exact below_modScreen _ _ _ ⟨rfl, fun _ => rfl⟩
  have hs (cells : List CellId) : (completeAll cells .superseded (planData sc)
      (modScreen sc (fun r => { r with staged := some g }) s)).comp.screens[sc.1].state = s.comp.screens[sc.1].state :=
    congrArg (·.1) ((h cells).kept.screens sc).timing
  simp only [stage]
  split
  · exact Below.refl s
  · split
    · rename_i hd
      exact (h _).trans (below_applyDisabled _ _ _ ((hs _).trans hd))
    · exact (h _).trans (below_noticeOf _ _)

theorem below_stageShare (r : ShareReq) (cells : List CellId) (s : State) : Below s (stageShare r cells s) :=
  below_stage _ _ _

theorem below_shareRequest (o : Operands) (s : State) : Below s (shareRequest o s) := by
  unfold shareRequest
  split
  · exact Below.refl s
  · split
    · exact Below.refl s
    · exact below_stageShare _ _ _

theorem below_restoreScreen (sc : ScreenId) (cells : List CellId) (s : State) : Below s (restoreScreen sc cells s) := by
  simp only [restoreScreen]
  split
  · split
    · exact below_modScreen _ _ _ ⟨rfl, fun _ => rfl⟩
    · exact below_stage _ _ _
  · exact below_stage _ _ _

theorem below_restoreRequest (o : Operands) (s : State) : Below s (restoreRequest o s) := by
  unfold restoreRequest
  split
  · split
    · exact below_restoreScreen _ _ _
    · exact Below.refl s
  · exact Below.refl s

theorem below_returnOn (lent : Loan → Bool) (s : State) (sc : ScreenId) : Below s (returnOn lent s sc) := by
  simp only [returnOn]
  split
  · split
    · exact below_stage _ _ _
    · refine Below.trans ?_ (below_post _ _)
      refine Below.trans ?_ (below_noticeOf _ _)
      refine Below.trans ?_ (below_completeAll _ _ _ _)
      exact below_modScreen _ _ _ ⟨rfl, fun _ => rfl⟩
    · exact Below.refl s
  · exact Below.refl s

theorem below_returnLoans (lent : Loan → Bool) (s : State) : Below s (returnLoans lent s) :=
  below_foldl _ (fun s sc => below_returnOn lent s sc) _ _

theorem below_linkToComposer (k : TargetId) (l : Link) (s : State) : Below s (linkToComposer k l s) :=
  below_viewReport _ _ _

theorem below_powerToComposer (k : TargetId) (old new : Power) (s : State) : Below s (powerToComposer k old new s) := by
  simp only [powerToComposer]
  split
  · exact (below_viewReport _ _ _).trans (below_returnLoans _ _)
  · exact below_viewReport _ _ _

theorem below_presenceToComposer (h : HeadId) (p : Presence) (s : State) : Below s (presenceToComposer h p s) := by
  simp only [presenceToComposer]
  split
  · exact (below_viewReport _ _ _).trans (below_returnLoans _ _)
  · exact below_viewReport _ _ _

theorem below_discardStaged (s : State) : Below s (discardStaged s) := by
  refine below_foldl _ (fun s sc => ?_) _ _
  split
  · exact Below.refl s
  · refine Below.trans ?_ (below_completeAll _ _ _ _)
    exact below_modScreen _ _ _ ⟨rfl, fun _ => rfl⟩

/-! ## Wake operations -/

theorem below_answerRequester (k : TargetId) (who : Requester) (r : Result) (s : State) :
    Below s (answerRequester k who r s) := by
  cases who
  · exact below_complete _ _ _ _
  · exact below_post _ _
  · exact Below.refl s

theorem below_endWake (k : TargetId) (r : Result) (s : State) : Below s (endWake k r s) := by
  simp only [endWake]
  refine Below.trans ?_ (below_noticeOf _ _)
  refine Below.trans ?_ (below_wakingToPanel _ _ _)
  refine Below.trans ?_ (below_modWake _ _ _)
  split
  · exact ((below_modWake _ _ _).trans (below_completeAll _ _ _ _)).trans (below_post _ _)
  · exact (below_modWake _ _ _).trans (below_completeAll _ _ _ _)

theorem below_enterPhase (k : TargetId) (st : WakeState) (due : Option Nat) (s : State) : Below s (enterPhase k st due s) :=
  (below_modWake _ _ _).trans (below_noticeOf _ _)

theorem below_enterWatching (k : TargetId) (s : State) : Below s (enterWatching k s) := below_enterPhase _ _ _ _

theorem below_resumeAnswer (k : TargetId) (s : State) : Below s (resumeAnswer k s) := by
  unfold resumeAnswer
  split
  · exact below_enterWatching _ _
  · exact Below.refl s

theorem below_startPulse (k : TargetId) (s : State) : Below s (startPulse k s) := by
  simp only [startPulse]
  split
  · exact (below_modWake _ _ _).trans (below_enterPhase _ _ _ _)
  · exact (below_modWake _ _ _).trans (below_enterPhase _ _ _ _)
  · exact below_enterWatching _ _
  · exact below_enterWatching _ _

theorem below_runAttempt (k : TargetId) (m : Method) (s : State) : Below s (runAttempt k m s) := by
  have h : Below s (modWake k (fun w => { w with attempts := w.attempts + 1, method := some m }) s) := below_modWake _ _ _
  cases m <;> simp only [runAttempt]
  · have g := (h.trans (below_enterPhase k .signalling none _)).trans (below_requestResume k _)
    split
    · exact g
    · exact g.trans (below_resumeAnswer _ _)
  · split
    · exact (h.trans (below_enterPhase _ _ _ _)).trans (below_startPulse _ _)
    · exact h.trans (below_enterPhase _ _ _ _)

theorem below_nextAttempt (k : TargetId) (s : State) : Below s (nextAttempt k s) := by
  unfold nextAttempt
  split
  · exact below_runAttempt _ _ _
  · exact below_endWake _ _ _

theorem below_requestWake (k : TargetId) (who : Requester) (s : State) : Below s (requestWake k who s) := by
  simp only [requestWake]
  split
  · split
    · exact below_answerRequester _ _ _ _
    · split
      · exact below_answerRequester _ _ _ _
      · exact ((below_modWake _ _ _).trans (below_wakingToPanel _ _ _)).trans (below_runAttempt _ _ _)
  · split
    · exact below_modWake _ _ _
    · exact (below_modWake _ _ _).trans (below_rewriteOf _ _)

theorem below_wakeRequest (o : Operands) (s : State) : Below s (wakeRequest o s) := by
  unfold wakeRequest
  split
  · split
    · exact below_requestWake _ _ _
    · exact Below.refl s
  · exact Below.refl s

theorem below_wakeOnPower (k : TargetId) (s : State) : Below s (wakeOnPower k s) := by
  unfold wakeOnPower
  split
  · exact Below.refl s
  · exact below_endWake _ _ _

theorem below_restartWakes (s : State) : Below s (restartWakes s) := by
  refine Below.trans (below_foldl _ (fun s k => ?_) _ _) (below_foldl _ (fun s k => below_stopResume k s) _ _)
  split
  · exact Below.refl s
  · refine Below.trans ?_ (below_noticeOf _ _)
    refine Below.trans ?_ (below_wakingToPanel _ _ _)
    refine Below.trans ?_ (below_modWake _ _ _)
    refine Below.trans ?_ (below_completeAll _ _ _ _)
    exact (below_modWake _ _ _).trans (below_stopResume _ _)

theorem below_cutResume (k : TargetId) (s : State) : Below s (cutResume k s) := by
  unfold cutResume
  split
  · exact (below_stopResume _ _).trans (below_resumeAnswer _ _)
  · exact Below.refl s

theorem TargetLine.relinked_bounded (l : TargetLine) (new : Link) (h : l.bounded) : (l.relinked new).bounded := by
  have hf := l.flush_bounded h
  simp only [TargetLine.relinked]
  split
  · exact hf
  · exact h

/-- A change of line state: the line's record changes as R13 lays down, and the rest is work of the blocks below. -/
theorem below_setLink (k : TargetId) (new : Link) (s : State) (h : s.tlines[k.1].link ≠ new) :
    Below (modTLine k (fun l => l.relinked new) s) (setLink k new s) := by
  simp only [setLink, if_neg h]
  refine Below.trans ?_ (below_linkToComposer _ _ _)
  refine Below.trans ?_ (below_post _ _)
  refine Below.trans ?_ (below_noticeOf _ _)
  split
  · exact below_cutResume _ _
  · exact Below.refl _

/-! ## The same, where the focus record may change too -/

theorem kept_foldl {α : Type} (f : State → α → State) (h : ∀ s x, Kept s (f s x)) (xs : List α) (s : State) :
    Kept s (xs.foldl f s) := by
  induction xs generalizing s with
  | nil => exact Kept.refl s
  | cons x xs ih => exact (h s x).trans (ih _)

theorem kept_modFocus (f : Focus → Focus) (s : State) : Kept s (modFocus f s) :=
  ⟨rfl, fun _ => ScreenKept.refl _, fun _ => LineKept.refl _, id, fun _ _ => rfl, fun _ _ _ _ _ => rfl,
    List.Sublist.refl _, id, fun _ h g => absurd g h⟩

theorem kept_modCursor (f : Cursor → Cursor) (s : State) (h : ∀ c : Cursor, c.bounded → (f c).bounded) :
    Kept s (modCursor f s) :=
  (below_modCursor f s h).kept

theorem kept_modWake (k : TargetId) (f : WakeOp → WakeOp) (s : State) :
    Kept s (modWake k f s) :=
  (below_modWake k f s).kept

theorem kept_post (m : FocusMsg) (s : State) :
    Kept s (post m s) :=
  (below_post m s).kept

theorem kept_rewriteMirror (m : Mirror) (s : State) :
    Kept s (rewriteMirror m s) :=
  (below_rewriteMirror m s).kept

theorem kept_notice (m : Mirror) (s : State) :
    Kept s (notice m s) :=
  (below_notice m s).kept

theorem kept_giveAll (s : State) :
    Kept s (giveAll s) :=
  (below_giveAll s).kept

theorem kept_rewriteOf (p : Share) (s : State) :
    Kept s (rewriteOf p s) :=
  (below_rewriteOf p s).kept

theorem kept_noticeOf (p : Share) (s : State) :
    Kept s (noticeOf p s) :=
  (below_noticeOf p s).kept

theorem kept_cursorMirrorSince (c : Cursor) (s : State) :
    Kept s (cursorMirrorSince c s) :=
  (below_cursorMirrorSince c s).kept

theorem kept_complete (c : CellId) (r : Result) (data : List Byte) (s : State) :
    Kept s (complete c r data s) :=
  (below_complete c r data s).kept

theorem kept_completeAll (cells : List CellId) (r : Result) (data : State → List Byte) (s : State) :
    Kept s (completeAll cells r data s) :=
  (below_completeAll cells r data s).kept

theorem kept_handIn (k : TargetId) (r : Report) (o : Origin) (s : State) :
    Kept s (handIn k r o s) :=
  (below_handIn k r o s).kept

theorem kept_releasePair (k : TargetId) (s : State) :
    Kept s (releasePair k s) :=
  (below_releasePair k s).kept

theorem kept_buildPoint (t : TargetId) (w : Int) (s : State) :
    Kept s (buildPoint t w s) :=
  (below_buildPoint t w s).kept

theorem kept_requestPoint (s : State) :
    Kept s (requestPoint s) :=
  (below_requestPoint s).kept

theorem kept_placeCursor (t : TargetId) (s : State) :
    Kept s (placeCursor t s).2 :=
  (below_placeCursor t s).kept

theorem kept_relocate (s : State) :
    Kept s (relocate s) :=
  (below_relocate s).kept

theorem kept_centreOn (sc : ScreenId) (s : State) :
    Kept s (centreOn sc s) :=
  (below_centreOn sc s).kept

theorem kept_focusToPanel (s : State) :
    Kept s (focusToPanel s) :=
  (below_focusToPanel s).kept

theorem kept_powerToPanel (k : TargetId) (v : Power) (s : State) :
    Kept s (powerToPanel k v s) :=
  (below_powerToPanel k v s).kept

theorem kept_presentScreen (sc : ScreenId) (s : State) :
    Kept s (presentScreen sc s) :=
  (below_presentScreen sc s).kept

theorem kept_viewReport (k : TargetId) (f : TargetView → TargetView) (s : State) :
    Kept s (viewReport k f s) :=
  (below_viewReport k f s).kept

theorem kept_stage (sc : ScreenId) (g : Staged) (s : State) :
    Kept s (stage sc g s) :=
  (below_stage sc g s).kept

theorem kept_stageShare (r : ShareReq) (cells : List CellId) (s : State) :
    Kept s (stageShare r cells s) :=
  (below_stageShare r cells s).kept

theorem kept_shareRequest (o : Operands) (s : State) :
    Kept s (shareRequest o s) :=
  (below_shareRequest o s).kept

theorem kept_restoreScreen (sc : ScreenId) (cells : List CellId) (s : State) :
    Kept s (restoreScreen sc cells s) :=
  (below_restoreScreen sc cells s).kept

theorem kept_restoreRequest (o : Operands) (s : State) :
    Kept s (restoreRequest o s) :=
  (below_restoreRequest o s).kept

theorem kept_returnLoans (lent : Loan → Bool) (s : State) :
    Kept s (returnLoans lent s) :=
  (below_returnLoans lent s).kept

theorem kept_powerToComposer (k : TargetId) (old new : Power) (s : State) :
    Kept s (powerToComposer k old new s) :=
  (below_powerToComposer k old new s).kept

theorem kept_presenceToComposer (h : HeadId) (p : Presence) (s : State) :
    Kept s (presenceToComposer h p s) :=
  (below_presenceToComposer h p s).kept

theorem kept_discardStaged (s : State) :
    Kept s (discardStaged s) :=
  (below_discardStaged s).kept

theorem kept_endWake (k : TargetId) (r : Result) (s : State) :
    Kept s (endWake k r s) :=
  (below_endWake k r s).kept

theorem kept_nextAttempt (k : TargetId) (s : State) :
    Kept s (nextAttempt k s) :=
  (below_nextAttempt k s).kept

theorem kept_requestWake (k : TargetId) (who : Requester) (s : State) :
    Kept s (requestWake k who s) :=
  (below_requestWake k who s).kept

theorem kept_wakeRequest (o : Operands) (s : State) :
    Kept s (wakeRequest o s) :=
  (below_wakeRequest o s).kept

theorem kept_wakeOnPower (k : TargetId) (s : State) :
    Kept s (wakeOnPower k s) :=
  (below_wakeOnPower k s).kept

theorem kept_restartWakes (s : State) :
    Kept s (restartWakes s) :=
  (below_restartWakes s).kept

/-! ## The focus controller -/

theorem kept_focusRecordChanged (s : State) : Kept s (focusRecordChanged s) :=
  (kept_notice _ _).trans (kept_focusToPanel _)

theorem kept_noteCause (c : Option Cause) (s : State) : Kept s (noteCause c s) := by
  unfold noteCause
  split
  · exact Kept.refl s
  · exact kept_focusRecordChanged _

theorem kept_maskDesk (s : State) : Kept s (maskDesk s) := kept_modFocus _ _

theorem kept_sendKeys (t : TargetId) (s : State) : Kept s (sendKeys t s) := kept_handIn _ _ _ _

theorem kept_stillCursor (src : FocusSource) (s : State) : Kept s (stillCursor src s) := by
  have h : Kept s (modCursor Cursor.still s) := kept_modCursor _ _ fun c _ => c.still_bounded
  simp only [stillCursor]
  split
  · exact h
  · exact h.trans (kept_cursorMirrorSince _ _)

theorem kept_becomeFocused (t : TargetId) (g : Bool) (s : State) : Kept s (becomeFocused t g s) := by
  simp only [becomeFocused]
  refine Kept.trans ?_ (kept_focusRecordChanged _)
  refine Kept.trans ?_ (kept_modFocus _ _)
  refine Kept.trans ?_ (kept_completeAll _ _ _ _)
  have h := ((((kept_modFocus (fun f => { f with st := .focused t, wakeOut := false }) s).trans
    (kept_placeCursor t _)).trans (kept_maskDesk _)).trans (kept_sendKeys t _))
  split
  · exact h
  · exact h.trans (kept_requestPoint _)

theorem kept_stageBring (t : TargetId) (sc : ScreenId) (s : State) : Kept s (stageBring t sc s) := kept_stage _ _ _

theorem kept_bring (t : TargetId) (s : State) : Kept s (bring t s) := by
  unfold bring
  split
  · exact Kept.refl s
  · split
    · exact kept_modFocus _ _
    · exact (kept_stageBring _ _ _).trans (kept_modFocus _ _)
    · exact Kept.refl s

theorem kept_wakeForFocus (t : TargetId) (s : State) : Kept s (wakeForFocus t s) := by
  unfold wakeForFocus
  split
  · exact (kept_modFocus _ _).trans (kept_requestWake _ _ _)
  · exact Kept.refl s

theorem kept_returnFor (a : Option TargetId) (s : State) : Kept s (returnFor a s) := by
  unfold returnFor
  split
  · exact kept_returnLoans _ _
  · exact Kept.refl s

theorem kept_focusLeave (src : FocusSource) (b : Option TargetId) (old : Result) (cell : Option CellId) (s : State) :
    Kept s (focusLeave src b old cell s) := by
  simp only [focusLeave]
  refine Kept.trans ?_ (kept_modFocus _ _)
  refine Kept.trans ?_ (kept_completeAll _ _ _ _)
  refine Kept.trans ?_ (kept_modFocus _ _)
  have h1 : Kept s (match s.focus.st.target with
      | some t => releasePair t s
      | none => s) := by
    split
    · exact kept_releasePair _ _
    · exact Kept.refl s
  have h2 := ((h1.trans (kept_maskDesk _)).trans (kept_modFocus (fun f => { f with previous := s.focus.st.target }) _)).trans
    (kept_stillCursor src _)
  split
  · exact h2
  · exact h2.trans (kept_placeCursor _ _)
  · exact h2

theorem kept_focusChange (src : FocusSource) (b : Option TargetId) (old : Result) (cell : Option CellId) (s : State) :
    Kept s (focusChange src b old cell s) := by
  simp only [focusChange]
  have h := kept_focusLeave src b old cell s
  split
  · exact ((h.trans (kept_modFocus _ _)).trans (kept_returnFor _ _)).trans (kept_focusRecordChanged _)
  · rename_i t
    have g := (((h.trans (kept_modFocus (fun f => { f with st := .pending t }) _)).trans
      (kept_returnFor s.focus.st.target _)).trans (kept_bring t _)).trans (kept_wakeForFocus t _)
    split
    · exact g.trans (kept_becomeFocused _ _ _)
    · exact g.trans (kept_focusRecordChanged _)

theorem kept_takeRequest (src : FocusSource) (t : TargetId) (s : State) : Kept s (takeRequest src t s) := by
  unfold takeRequest
  split
  · exact kept_focusChange _ _ _ _ _
  · exact Kept.refl s

theorem kept_takeFocusCommand (c : CellId) (t : Option TargetId) (s : State) : Kept s (takeFocusCommand c t s) := by
  cases t <;> simp only [takeFocusCommand]
  · refine Kept.trans ?_ (kept_complete _ _ _ _)
    split
    · exact Kept.refl s
    · exact kept_focusChange _ _ _ _ _
  · split
    · exact kept_complete _ _ _ _
    · split
      · exact kept_modFocus _ _
      · split
        · exact kept_focusChange _ _ _ _ _
        · exact kept_complete _ _ _ _

theorem kept_loseDesk (t : TargetId) (s : State) : Kept s (loseDesk t s) :=
  (((kept_modFocus _ _).trans (kept_releasePair _ _)).trans (kept_maskDesk _)).trans (kept_focusRecordChanged _)

theorem kept_regainDesk (t : TargetId) (s : State) : Kept s (regainDesk t s) := by
  simp only [regainDesk]
  split
  · exact (kept_modFocus _ _).trans (kept_becomeFocused _ _ _)
  · exact (kept_modFocus _ _).trans (kept_noteCause _ _)

theorem kept_takeEligibility (t : TargetId) (f : Eligibility → Eligibility) (s : State) :
    Kept s (takeEligibility t f s) := by
  have h : Kept s (modFocus (fun g => { g with view := upd g.view t f }) s) := kept_modFocus _ _
  simp only [takeEligibility]
  split
  · exact h.trans (kept_loseDesk _ _)
  · split
    · exact h.trans (kept_regainDesk _ _)
    · exact h

theorem kept_takeWakeAnswer (t : TargetId) (r : Result) (s : State) : Kept s (takeWakeAnswer t r s) := by
  simp only [takeWakeAnswer]
  split
  · split
    · split
      · exact (kept_modFocus _ _).trans (kept_becomeFocused _ _ _)
      · exact (kept_modFocus _ _).trans (kept_noteCause _ _)
    · split
      · exact kept_focusChange _ _ _ _ _
      · exact (((kept_modFocus _ _).trans (kept_completeAll _ _ _ _)).trans (kept_modFocus _ _)).trans (kept_noteCause _ _)
  · exact Kept.refl s

theorem kept_clearBring (p : ScreenId → Bool) (s : State) : Kept s (clearBring p s) := by
  unfold clearBring
  split
  · split
    · exact kept_modFocus _ _
    · exact Kept.refl s
  · exact Kept.refl s

theorem kept_takePlanReport (p : ScreenId → Bool) (s : State) : Kept s (takePlanReport p s) := by
  have h := kept_clearBring p s
  simp only [takePlanReport]
  split
  · exact h
  · split
    · split
      · exact h
      · exact (h.trans (kept_placeCursor _ _)).trans (kept_requestPoint _)
    · split
      · exact h
      · exact h.trans (kept_focusChange _ _ _ _ _)
  · split
    · split
      · exact h.trans (kept_becomeFocused _ _ _)
      · exact h.trans (kept_noteCause _ _)
    · split
      · exact h
      · exact h.trans (kept_focusChange _ _ _ _ _)

theorem kept_takeFocusMsg (m : FocusMsg) (s : State) : Kept s (takeFocusMsg m s) := by
  cases m <;> simp only [takeFocusMsg]
  · split
    · exact kept_takeRequest _ _ _
    · exact Kept.refl s
  · exact kept_takeEligibility _ _ _
  · exact kept_takeEligibility _ _ _
  · exact kept_takeEligibility _ _ _
  · exact kept_takePlanReport _ _
  · exact kept_takePlanReport _ _
  · exact (kept_clearBring _ _).trans (kept_noteCause _ _)
  · exact kept_takePlanReport _ _
  · exact kept_takeWakeAnswer _ _ _

theorem kept_takeInbox (n : Nat) (s : State) : Kept s (takeInbox n s) := by
  induction n generalizing s with
  | zero => exact Kept.refl s
  | succ n ih =>
    simp only [takeInbox]
    split
    · exact Kept.refl s
    · exact ((kept_modFocus _ _).trans (kept_takeFocusMsg _ _)).trans (ih _)

theorem kept_settle (s : State) : Kept s (settle s) := (kept_takeInbox _ _).trans (kept_modFocus _ _)

theorem kept_askFocus (m : FocusMsg) (s : State) : Kept s (askFocus m s) := (kept_post _ _).trans (kept_settle _)

theorem kept_wakeOnInput (s : State) : Kept s (wakeOnInput s) := by
  unfold wakeOnInput
  split
  · split
    · exact ((kept_modFocus _ _).trans (kept_focusRecordChanged _)).trans (kept_requestWake _ _ _)
    · exact Kept.refl s
  · exact Kept.refl s

theorem kept_takeKeyChange (prev new : Keys) (s : State) : Kept s (takeKeyChange prev new s) := by
  unfold takeKeyChange
  split
  · exact kept_sendKeys _ _
  · split
    · exact (kept_wakeOnInput _).trans (kept_settle _)
    · exact Kept.refl s
  · exact Kept.refl s

theorem kept_setPin (v : Bool) (s : State) : Kept s (setPin v s) := by
  unfold setPin
  split
  · exact Kept.refl s
  · exact (kept_modFocus _ _).trans (kept_focusRecordChanged _)

theorem kept_restartFocus (s : State) : Kept s (restartFocus s) := by
  simp only [restartFocus]
  refine Kept.trans ?_ (kept_focusToPanel _)
  refine Kept.trans ?_ (kept_modFocus _ _)
  refine Kept.trans ?_ (kept_completeAll _ _ _ _)
  split
  · exact kept_releasePair _ _
  · exact Kept.refl s

/-- After requests and reports have been taken, none is left. -/
@[simp] theorem settle_inbox (s : State) : (settle s).focus.inbox = [] := rfl

/-! ## Actions -/

theorem kept_focusAction (src : FocusSource) (a : Action) (o : Operands) (s : State) :
    Kept s (focusAction src a o s) := by
  unfold focusAction
  split
  · split
    · exact kept_askFocus _ _
    · exact Kept.refl s
  · exact kept_askFocus _ _
  · exact kept_askFocus _ _
  · exact kept_askFocus _ _
  · exact Kept.refl s

theorem kept_dispatchAction (src : FocusSource) (a : Action) (o : Operands) (s : State) :
    Kept s (dispatchAction src a o s) := by
  cases a <;> simp only [dispatchAction]
  · exact Kept.refl s
  · exact kept_focusAction _ _ _ _
  · exact kept_focusAction _ _ _ _
  · exact kept_focusAction _ _ _ _
  · exact kept_focusAction _ _ _ _
  · exact (kept_shareRequest _ _).trans (kept_settle _)
  · exact (kept_restoreRequest _ _).trans (kept_settle _)
  · exact (kept_wakeRequest _ _).trans (kept_settle _)
  · exact kept_setPin _ _
  · exact Kept.refl s
  · exact Kept.refl s

end Sys2Proof.Machine
end

