-- ==== Sys2Proof/Laws/Lawful.lean ====
section
/-! SUPPORT. The laws of Safety, said once for every operation that a command's meaning is built from: it keeps the laws, and it leaves the queue, the count, RESET_N and the straps. -/

namespace Sys2Proof.Machine

open Sys2Proof

/-- What no operation inside a command writes. -/
def State.fixed (s : State) := (s.pending, s.now, s.resetAsserted, s.straps)

/-- A head record obeys the law of good counts. -/
def HeadRec.lawful (r : HeadRec) : Prop := r.good ≤ 8 ∧ (r.presence = .present ↔ r.good = 8)

/-- `t` is `s` after an operation that keeps the laws. -/
structure Lawful (s t : State) : Prop where
  fixed : t.fixed = s.fixed
  canonical : s.memoryCanonical → t.memoryCanonical
  queues : s.queuesBounded → t.queuesBounded
  residuals : s.residualsBounded → t.residualsBounded
  distinct : s.inWorkDistinct → t.inWorkDistinct
  counts : s.goodCounts → t.goodCounts
  quiet : s.restartQuiet → t.restartQuiet

theorem Lawful.refl (s : State) : Lawful s s := ⟨rfl, id, id, id, id, id, id⟩

theorem Lawful.trans {s t u : State} (h : Lawful s t) (g : Lawful t u) : Lawful s u :=
  ⟨g.fixed.trans h.fixed, fun x => g.canonical (h.canonical x), fun x => g.queues (h.queues x),
    fun x => g.residuals (h.residuals x), fun x => g.distinct (h.distinct x), fun x => g.counts (h.counts x),
    fun x => g.quiet (h.quiet x)⟩

theorem Kept.lawful {s t : State} (h : Kept s t) : Lawful s t := by
  have hf : t.fixed = s.fixed := by
    have := h.outer
    simp only [State.outer, Prod.mk.injEq] at this
    simp only [State.fixed, Prod.mk.injEq]
    exact ⟨this.1.1, this.2.1, this.2.2.1, this.2.2.2.1⟩
  have hh : t.heads = s.heads := by
    have := h.outer
    simp only [State.outer, Prod.mk.injEq] at this
    exact this.2.2.2.2.2.2.2.1
  refine ⟨hf, h.canonical, h.queues, h.residuals, fun hd => ?_, fun hc => ?_, fun hq => ?_⟩
  · exact List.Sublist.nodup (h.inWork.map _) hd
  · intro k
    rw [hh]
    exact hc k
  · unfold State.restartQuiet
    rw [h.runState, h.desk]
    exact hq

theorem lawful_foldl {α : Type} (f : State → α → State) (h : ∀ s x, Lawful s (f s x)) (xs : List α) (s : State) :
    Lawful s (xs.foldl f s) := by
  induction xs generalizing s with
  | nil => exact Lawful.refl s
  | cons x xs ih => exact (h s x).trans (ih _)

/-! ## Single updates -/

theorem lawful_writeMem (a : Nat) (bs : List Byte) (s : State) : Lawful s (writeMem a bs s) :=
  ⟨rfl, Memory.wf_write _ _ _, id, id, id, id, id⟩

theorem lawful_desk (d : DeskInput) (s : State)
    (h : ∀ l : LineId, s.desk.lines[l.1].resetUntil ≠ none → d.lines[l.1].resetUntil ≠ none := by exact fun _ => id) :
    Lawful s { s with desk := d } :=
  ⟨rfl, id, id, id, id, id, fun hq c k hr hk l => h l (hq c k hr hk l)⟩

theorem lawful_modDeskLine (l : LineId) (f : DeskLine → DeskLine) (s : State)
    (h : ∀ r, (f r).resetUntil = r.resetUntil := by exact fun _ => rfl) : Lawful s (modDeskLine l f s) := by
  refine lawful_desk _ s fun j hj => ?_
  simp only [upd_get]
  split
  · rw [h]
    exact hj
  · exact hj

theorem lawful_modIdent (c : ScreenId) (f : ScreenIdent → ScreenIdent) (s : State) : Lawful s (modIdent c f s) :=
  ⟨rfl, id, id, id, id, id, id⟩

theorem lawful_modServed (h : HeadId) (f : Served → Served) (s : State) : Lawful s (modServed h f s) :=
  ⟨rfl, id, id, id, id, id, id⟩

theorem lawful_modSetup (k : TargetId) (f : Setup → Setup) (s : State) : Lawful s (modSetup k f s) :=
  ⟨rfl, id, id, id, id, id, id⟩

theorem lawful_modPower (k : TargetId) (f : PowerRec → PowerRec) (s : State) : Lawful s (modPower k f s) :=
  ⟨rfl, id, id, id, id, id, id⟩

theorem lawful_modPanelKey (p : PosId) (f : PanelKey → PanelKey) (s : State) : Lawful s (modPanelKey p f s) :=
  ⟨rfl, id, id, id, id, id, id⟩

theorem lawful_modScreen (c : ScreenId) (f : ScreenRec → ScreenRec) (s : State) : Lawful s (modScreen c f s) :=
  ⟨rfl, id, id, id, id, id, id⟩

theorem lawful_modHot (f : Hotkeys → Hotkeys) (s : State) : Lawful s (modHot f s) := ⟨rfl, id, id, id, id, id, id⟩

theorem lawful_panel (p : Panel) (s : State) : Lawful s { s with panel := p } := ⟨rfl, id, id, id, id, id, id⟩

theorem lawful_running (s : State) : Lawful s { s with runState := .running } :=
  ⟨rfl, id, id, id, id, id, fun _ _ _ h => nomatch h⟩

theorem lawful_xm (x : Exchange) (s : State) (h : x.mem = s.xm.mem ∧ x.inWork = s.xm.inWork) :
    Lawful s { s with xm := x } :=
  ⟨rfl, fun hc => by simpa only [State.memoryCanonical, h.1] using hc, id, id,
    fun hd => by simpa only [State.inWorkDistinct, h.2] using hd, id, id⟩

theorem lawful_modHead (h : HeadId) (r : HeadRec) (s : State) (hr : s.goodCounts → r.lawful) :
    Lawful s (modHead h (fun _ => r) s) := by
  refine ⟨rfl, id, id, id, id, fun hs j => ?_, id⟩
  simp only [modHead_heads, upd_get]
  split
  · exact hr hs
  · exact hs j

theorem lawful_modTLine (k : TargetId) (f : TargetLine → TargetLine) (s : State)
    (h : ∀ l : TargetLine, l.bounded → (f l).bounded) : Lawful s (modTLine k f s) := by
  refine ⟨rfl, id, fun hs j => ?_, id, id, id, id⟩
  simp only [modTLine_tlines, upd_get]
  split
  · exact h _ (hs j)
  · exact hs j

theorem lawful_applyStaged (sc : ScreenId) (b : Bool) (s : State) : Lawful s (applyStaged sc b s) :=
  (lawful_modScreen _ _ _).trans (below_applyStaged sc b s).kept.lawful

/-! ## Target lines -/

theorem lawful_setLink (k : TargetId) (new : Link) (s : State) : Lawful s (setLink k new s) := by
  by_cases h : s.tlines[k.1].link = new
  · simp only [setLink, if_pos h]
    exact Lawful.refl s
  · exact (lawful_modTLine k _ s fun l hl => l.relinked_bounded new hl).trans (below_setLink k new s h).kept.lawful

theorem lawful_endTransmission (k : TargetId) (s : State) : Lawful s (modTLine k TargetLine.endTransmission s) :=
  lawful_modTLine _ _ _ TargetLine.endTransmission_bounded

theorem lawful_slotStart (k : TargetId) (b : Bool) (s : State) : Lawful s (slotStart k b s) := by
  have h := lawful_endTransmission k s
  simp only [slotStart]
  split
  · exact h
  · split
    · exact h.trans (lawful_setLink _ _ _)
    · exact h
  · split
    · exact h.trans (lawful_modTLine _ _ _ TargetLine.startTransmission_bounded)
    · exact h

/-! ## Motion -/

theorem kept_clampStep (a : Axis) (m : Int) (d : Dwell) (s : State) : Kept s (clampStep a m d s) := by
  simp only [clampStep]
  refine kept_modCursor _ _ fun c hc => ?_
  cases a <;> simp only [Cursor.clamped, Cursor.bounded] at * <;> omega

theorem kept_acceptStep (p : Int × Int) (sc : ScreenId) (i : Fin 4) (s : State) : Kept s (acceptStep p sc i s) := by
  unfold acceptStep
  exact kept_modCursor _ _ fun _ hc => hc

theorem kept_stepAxis (a : Axis) (m : Int) (s : State) : Kept s (stepAxis a m s) := by
  simp only [stepAxis]
  split
  · exact Kept.refl s
  · split
    · exact kept_clampStep _ _ _ _
    · exact kept_clampStep _ _ _ _
    · exact kept_acceptStep _ _ _ _
    · split
      · exact kept_clampStep _ _ _ _
      · exact (kept_acceptStep _ _ _ _).trans (kept_askFocus _ _)

theorem kept_motionPoint (c : Cursor) (m : MotionIn) (s : State) : Kept s (motionPoint c m s) := by
  unfold motionPoint
  split
  · split
    · exact kept_buildPoint _ _ _
    · exact Kept.refl s
  · exact Kept.refl s

theorem kept_reportMotion (m : MotionIn) (b : BitVec 5) (s : State) : Kept s (reportMotion m b s) := by
  unfold reportMotion
  split
  · exact (kept_wakeOnInput _).trans (kept_settle _)
  · exact Kept.refl s

/-- The gain splits the total into eight times the move and a residual of −7 to 7 (R30). -/
theorem gain_spec (d : Int) (g : Nat) (r : Int) :
    8 * (gain d g r).1 + (gain d g r).2 = d * g + r ∧ -7 ≤ (gain d g r).2 ∧ (gain d g r).2 ≤ 7 := by
  simp only [gain]
  generalize d * g + r = n
  have h1 := Int.mul_tdiv_add_tmod n 8
  have h2 : n.tmod 8 < 8 := Int.tmod_lt_of_pos n (by decide)
  have h3 : -8 < n.tmod 8 := by
    have := Int.tmod_lt_of_pos (-n) (b := 8) (by decide)
    rw [Int.neg_tmod] at this
    omega
  omega

theorem lawful_gainAndDwell (dx dy : Int) (g h : Nat) (r q : Int) (s : State) :
    Lawful s (gainAndDwell (gain dx g r) (gain dy h q) s) := by
  have h1 := (gain_spec dx g r).2
  have h2 := (gain_spec dy h q).2
  exact (kept_modCursor _ _ fun c _ => ⟨h1.1, h1.2, h2.1, h2.2⟩).lawful

theorem lawful_motion (m : MotionIn) (s : State) : Lawful s (motion m s) := by
  have h0 : Lawful s { s with cur := { s.cur with deskButtons := m.merged } } := ⟨rfl, id, id, id, id, id, id⟩
  simp only [motion]
  split
  · exact (h0.trans (lawful_gainAndDwell _ _ _ _ _ _ _)).trans (kept_reportMotion _ _ _).lawful
  · refine Lawful.trans ?_ (kept_reportMotion _ _ _).lawful
    refine Lawful.trans ?_ (kept_cursorMirrorSince _ _).lawful
    refine Lawful.trans ?_ (kept_motionPoint _ _ _).lawful
    exact ((h0.trans (lawful_gainAndDwell _ _ _ _ _ _ _)).trans (kept_stepAxis _ _ _).lawful).trans (kept_stepAxis _ _ _).lawful

/-! ## Hotkeys -/

theorem lawful_fire (i : Fin 32) (s : State) : Lawful s (fire i s) := by
  simp only [fire]
  have h : Lawful s (notice .hotkey (modHot (fun h => { h with
      state := .idle, table := upd h.table i (fun e => { e with fires := e.fires + 1 }), lastFired := some i })
      (maskKey s.hot.table[i.1].key s))) := by
    refine Lawful.trans ?_ (kept_notice _ _).lawful
    exact (kept_modFocus _ _).lawful.trans (lawful_modHot _ _)
  split
  · exact h.trans (kept_dispatchAction _ _ _ _).lawful
  · exact h

theorem lawful_chordTest (js : List Byte) (new : Keys) (s : State) : Lawful s (chordTest js new s) := by
  unfold chordTest
  split
  · exact lawful_fire _ _
  · exact Lawful.refl s

theorem lawful_setMatcher (m : Matcher) (s : State) : Lawful s (setMatcher m s) := lawful_modHot _ _

theorem lawful_maskKey (k : Byte) (s : State) : Lawful s (maskKey k s) := (kept_modFocus _ _).lawful

theorem lawful_takePair (prev new : Keys) (s : State) : Lawful s (takePair prev new s) := by
  simp only [takePair]
  split
  · exact Lawful.refl s
  · split
    · split
      · exact lawful_setMatcher _ _
      · exact lawful_chordTest _ _ _
    · split
      · exact (lawful_maskKey _ _).trans (lawful_setMatcher _ _)
      · exact (lawful_setMatcher _ _).trans (lawful_chordTest _ _ _)
    · split
      · exact lawful_fire _ _
      · exact (lawful_setMatcher _ _).trans (lawful_chordTest _ _ _)

/-! ## Desk input -/

theorem lawful_refuseFrame (l : LineId) (s : State) : Lawful s (refuseFrame l s) := by
  simp only [refuseFrame]
  split
  · exact Lawful.refl s
  · exact (lawful_modDeskLine _ _ _).trans (kept_notice _ _).lawful

theorem lawful_handOff (prev new : Keys) (s : State) : Lawful s (handOff prev new s) := by
  simp only [handOff]
  exact (((kept_modFocus _ _).lawful.trans (lawful_takePair prev new _)).trans (kept_takeKeyChange _ _ _).lawful).trans
    (kept_settle _).lawful

theorem lawful_recomputeKeys (s : State) : Lawful s (recomputeKeys s) := by
  simp only [recomputeKeys]
  split
  · exact Lawful.refl s
  · exact (lawful_desk _ s).trans (lawful_handOff _ _ _)

theorem lawful_recomputeButtons (s : State) : Lawful s (recomputeButtons s) := lawful_desk _ s

theorem lawful_releaseLine (l : LineId) (s : State) : Lawful s (releaseLine l s) := by
  simp only [releaseLine]
  split
  · exact Lawful.refl s
  · exact (lawful_modDeskLine _ _ _).trans (lawful_recomputeKeys _)
  · have h := (lawful_modDeskLine l (fun r => { r with buttons := 0 }) s).trans (lawful_recomputeButtons _)
    split
    · exact h
    · exact h.trans (lawful_motion _ _)

theorem lawful_setClass (l : LineId) (c : LineClass) (s : State) : Lawful s (setClass l c s) :=
  (lawful_modDeskLine _ _ _).trans (kept_notice _ _).lawful

theorem lawful_takeFrame (l : LineId) (k : FrameKind) (p : List Byte) (s : State) : Lawful s (takeFrame l k p s) := by
  cases k <;> simp only [takeFrame]
  · exact (lawful_releaseLine _ _).trans (lawful_setClass _ _ _)
  · exact (lawful_modDeskLine _ _ _).trans (lawful_recomputeKeys _)
  · exact ((lawful_modDeskLine _ _ _).trans (lawful_recomputeButtons _)).trans (lawful_motion _ _)
  · exact (lawful_releaseLine _ _).trans (lawful_setClass _ _ _)

theorem lawful_arrive (l : LineId) (f : Frame) (s : State) : Lawful s (arrive l f s) := by
  unfold arrive
  split
  · split
    · exact lawful_takeFrame _ _ _ _
    · exact lawful_refuseFrame _ _
  · exact Lawful.refl s

/-- Driving the line reset condition puts every line in it. -/
theorem driveLineResets_quiet (s : State) (l : LineId) : (driveLineResets s).desk.lines[l.1].resetUntil ≠ none := by
  simp [driveLineResets]

theorem lawful_driveLineResets (s : State) : Lawful s (driveLineResets s) :=
  lawful_desk _ s fun l _ => driveLineResets_quiet s l

/-! ## Head signal monitor -/

theorem HeadRec.edge_lawful (r : HeadRec) (now : Nat) (h : r.lawful) : (r.edge now).lawful := by
  obtain ⟨h1, h2⟩ := h
  unfold HeadRec.edge HeadRec.lawful
  split
  · simp
  · simp
  · rename_i e _ hne
    simp only [HeadRec.period]
    split
    · exact ⟨h1, h2⟩
    · rename_i hp
      have : r.good ≠ 8 := fun e => by simp [hp] at h2; exact h2 e
      simp only [HeadRec.acquire]
      split
      · simp [hp]
      · split
        · simp [hp]
        · split
          · split
            · simp
            · simp only [hp]; constructor
              · omega
              · constructor
                · intro h; cases h
                · intro h; omega
          · simp [hp]
    · rename_i hp
      simp only [HeadRec.hold]
      split
      · simp
      · exact ⟨h1, h2⟩
    · rename_i hp
      have : r.good ≠ 8 := fun e => by simp [hp] at h2; exact h2 e
      simp only [HeadRec.acquire]
      split
      · simp [hp]
      · split
        · simp [hp]
        · split
          · split
            · simp
            · simp only [hp]; constructor
              · omega
              · constructor
                · intro h; cases h
                · intro h; omega
          · simp [hp]

theorem lawful_setHead (h : HeadId) (r : HeadRec) (s : State) (hr : s.goodCounts → r.lawful) :
    Lawful s (setHead h r s) := by
  have h0 := lawful_modHead h r s hr
  simp only [setHead]
  split
  · refine Lawful.trans ?_ (kept_presenceToComposer _ _ _).lawful
    split
    · exact h0.trans (kept_noticeOf _ _).lawful
    · exact h0.trans ((kept_noticeOf _ _).trans (kept_post _ _)).lawful
  · split
    · exact h0.trans (kept_rewriteOf _ _).lawful
    · exact h0

theorem lawful_makeAbsent (h : HeadId) (s : State) : Lawful s (makeAbsent h s) :=
  lawful_setHead _ _ _ fun _ => by simp [HeadRec.lawful, HeadRec.initial]

theorem lawful_takeEdge (h : HeadId) (s : State) : Lawful s (takeEdge h s) := by
  simp only [takeEdge]
  split
  · exact (lawful_makeAbsent h s).trans (lawful_setHead _ _ _ fun hc => HeadRec.edge_lawful _ _ (hc h))
  · exact lawful_setHead _ _ _ fun hc => HeadRec.edge_lawful _ _ (hc h)

/-! ## Host accesses -/

theorem lawful_storeWord (a : Nat) (v : Word16) (s : State) : Lawful s (storeWord a v s) := by
  unfold storeWord
  split <;> exact lawful_writeMem _ _ _

theorem lawful_hostWrite (a : BitVec 14) (v : Word16) (s : State) : Lawful s (hostWrite a v s) := by
  unfold hostWrite
  split
  · exact ⟨rfl, id, id, id, id, id, id⟩
  · exact lawful_storeWord _ _ _

theorem lawful_releaseAccess (s : State) : Lawful s (releaseAccess s) := by
  unfold releaseAccess
  split
  · exact Lawful.refl s
  · split
    · exact Lawful.refl s
    · refine Lawful.trans ?_ (lawful_storeWord _ _ _)
      exact lawful_xm _ _ ⟨rfl, rfl⟩

theorem lawful_releaseAll (s : State) : Lawful s (releaseAll s) := by
  unfold releaseAll
  refine Lawful.trans ?_ (lawful_foldl (fun s (w : HeldAccess) => storeWord (byteAddress w.addr) w.value s)
    (fun s _ => lawful_storeWord _ _ s) _ _)
  exact lawful_xm _ _ ⟨rfl, rfl⟩

theorem lawful_makeReady (ws : List HeldAccess) (s : State) : Lawful s (makeReady ws s) := by
  induction ws generalizing s with
  | nil => exact Lawful.refl s
  | cons w ws ih =>
    unfold makeReady
    split
    · exact Lawful.refl s
    · refine Lawful.trans ?_ (ih _)
      refine Lawful.trans ?_ (lawful_storeWord _ _ _)
      exact lawful_xm _ _ ⟨rfl, rfl⟩

theorem lawful_releaseReady (s : State) : Lawful s (releaseReady s) := lawful_makeReady _ s

theorem lawful_beforeSlot (src : ServedSource) (s : State) : Lawful s (beforeSlot src s) := by
  unfold beforeSlot
  split
  · exact lawful_releaseReady s
  · exact Lawful.refl s

/-! ## Display identity -/

theorem lawful_changeServed (h : HeadId) (f : Served → Served) (s : State) : Lawful s (changeServed h f s) := by
  simp only [changeServed]
  split
  · exact lawful_modServed _ _ _
  · exact (lawful_modServed _ _ _).trans (kept_noticeOf _ _).lawful

theorem lawful_completeServe (h : HeadId) (c : Option CellId) (r : Result) (sums : List Byte) (s : State) :
    Lawful s (completeServe h c r sums s) := by
  cases c
  · exact Lawful.refl s
  · exact (kept_complete _ _ _ _).lawful

theorem lawful_beginReplacement (h : HeadId) (rep : Replacement) (s : State) : Lawful s (beginReplacement h rep s) := by
  simp only [beginReplacement]
  refine (lawful_beforeSlot rep.source s).trans ?_
  split
  · exact ((lawful_changeServed _ _ _).trans (lawful_completeServe _ _ _ _ _)).trans (lawful_completeServe _ _ _ _ _)
  · exact (lawful_changeServed _ _ _).trans (lawful_completeServe _ _ _ _ _)

theorem lawful_requestReplacement (h : HeadId) (rep : Replacement) (s : State) :
    Lawful s (requestReplacement h rep s) := by
  simp only [requestReplacement]
  split
  · exact (lawful_changeServed _ _ _).trans (lawful_completeServe _ _ _ _ _)
  · split
    · exact lawful_beginReplacement _ _ _
    · exact lawful_changeServed _ _ _

theorem lawful_beginPending (h : HeadId) (s : State) : Lawful s (beginPending h s) := by
  simp only [beginPending]
  split
  · split
    · exact lawful_beginReplacement _ _ _
    · exact Lawful.refl s
  · exact Lawful.refl s

theorem lawful_endCopy (h : HeadId) (c : Copy) (s : State) : Lawful s (endCopy h c s) := by
  simp only [endCopy]
  refine Lawful.trans ?_ (lawful_beginPending _ _)
  split
  · exact lawful_changeServed _ _ _
  · exact (lawful_changeServed _ _ _).trans (lawful_completeServe _ _ _ _ _)

theorem lawful_endAnnounce (h : HeadId) (s : State) : Lawful s (endAnnounce h s) :=
  (lawful_changeServed _ _ _).trans (lawful_completeServe _ _ _ _ _)

theorem lawful_changeIdent (c : ScreenId) (f : ScreenIdent → ScreenIdent) (s : State) : Lawful s (changeIdent c f s) := by
  simp only [changeIdent]
  split
  · exact lawful_modIdent _ _ _
  · exact (lawful_modIdent _ _ _).trans (kept_noticeOf _ _).lawful

theorem lawful_completeReads (c : ScreenId) (r : Result) (b : Bool) (s : State) : Lawful s (completeReads c r b s) :=
  (kept_completeAll _ _ _ _).lawful.trans (lawful_modIdent _ _ _)

theorem lawful_startRead (c : ScreenId) (f : ScreenIdent → ScreenIdent) (s : State) : Lawful s (startRead c f s) :=
  lawful_changeIdent _ _ _

theorem lawful_presenceChange (c : ScreenId) (b : Bool) (s : State) : Lawful s (presenceChange c b s) := by
  unfold presenceChange
  split
  · exact lawful_startRead _ _ _
  · exact (lawful_changeIdent _ _ _).trans (lawful_completeReads _ _ _ _)

theorem lawful_followScreen (c : ScreenId) (s : State) (h : HeadId) : Lawful s (followScreen c s h) := by
  simp only [followScreen]
  split <;> split <;> first
    | exact lawful_requestReplacement _ _ _
    | exact Lawful.refl s

theorem lawful_readValid (c : ScreenId) (img : Image) (s : State) : Lawful s (readValid c img s) := by
  simp only [readValid]
  generalize (!s.idents[c.1].held || decide (s.idents[c.1].image ≠ img)) = b
  cases b
  · simp only [Bool.false_eq_true, if_false]
    exact (lawful_changeIdent _ _ _).trans (lawful_completeReads _ _ _ _)
  · simp only [if_true]
    exact (((lawful_writeMem _ _ _).trans (lawful_changeIdent _ _ _)).trans (lawful_completeReads _ _ _ _)).trans
      (lawful_foldl _ (fun s h => lawful_followScreen c s h) _ _)

theorem lawful_readFailed (c : ScreenId) (s : State) : Lawful s (readFailed c s) := by
  unfold readFailed
  split
  · exact lawful_modIdent _ _ _
  · exact (lawful_changeIdent _ _ _).trans (lawful_completeReads _ _ _ _)

theorem lawful_attemptEnd (c : ScreenId) (r : ReadResult) (s : State) : Lawful s (attemptEnd c r s) := by
  have h (n : Nat) (bs : List Byte) (u : State) : Lawful u (fillBuffer c n bs u) := lawful_modIdent _ _ _
  simp only [attemptEnd]
  split
  · split
    · exact ((h _ _ _).trans (h _ _ _)).trans (lawful_readValid _ _ _)
    · exact ((h _ _ _).trans (h _ _ _)).trans (lawful_readFailed _ _)
  · exact (h _ _ _).trans (lawful_readFailed _ _)

theorem lawful_endTransaction (h : HeadId) (s : State) : Lawful s (endTransaction h s) :=
  (lawful_modServed _ _ _).trans (lawful_beginPending _ _)

theorem lawful_inOpenTransaction (h : HeadId) (f : State → State) (s : State) (hf : ∀ s, Lawful s (f s)) :
    Lawful s (inOpenTransaction h f s) := by
  simp only [inOpenTransaction]
  split
  · exact hf s
  · exact Lawful.refl s

theorem lawful_unfitServed (h : HeadId) (s : State) : Lawful s (unfitServed h s) := lawful_requestReplacement _ _ _

theorem lawful_abortPending (s : State) (h : HeadId) : Lawful s (abortPending s h) := by
  unfold abortPending
  split
  · split
    · exact (lawful_changeServed _ _ _).trans (lawful_completeServe _ _ _ _ _)
    · exact Lawful.refl s
  · exact Lawful.refl s

theorem lawful_abortServing (s : State) (h : HeadId) : Lawful s (abortServing s h) := by
  simp only [abortServing]
  refine Lawful.trans ?_ (lawful_completeServe _ _ _ _ _)
  split
  · exact (lawful_modServed _ _ _).trans (lawful_completeServe _ _ _ _ _)
  · exact lawful_modServed _ _ _

theorem lawful_restartIdentity (s : State) : Lawful s (restartIdentity s) :=
  ((lawful_foldl _ (fun s c => lawful_completeReads c _ _ s) _ _).trans
    (lawful_foldl _ lawful_abortPending _ _)).trans (lawful_foldl _ lawful_abortServing _ _)

/-! ## Power supervisor -/

theorem lawful_setPowerRec (k : TargetId) (r : PowerRec) (s : State) : Lawful s (setPowerRec k r s) := by
  have h0 := lawful_modPower k (fun _ => r) s
  simp only [setPowerRec]
  split
  · exact h0.trans (kept_rewriteOf _ _).lawful
  · have h1 := h0.trans ((((kept_noticeOf (.power k) _).trans (kept_post (.power k r.state) _)).trans
      (kept_powerToComposer k s.power[k.1].state r.state _)).trans (kept_powerToPanel k r.state _)).lawful
    split
    · exact h1.trans (kept_wakeOnPower _ _).lawful
    · exact h1

theorem lawful_takeSample (x : Int) (s : State) : Lawful s (takeSample x s) := by
  have h0 : Lawful s { s with senseSlot := s.senseSlot + 1 } := ⟨rfl, id, id, id, id, id, id⟩
  simp only [takeSample]
  split
  · exact h0.trans (lawful_setPowerRec _ _ _)
  · exact h0

theorem lawful_unfitHeadB (k : TargetId) (s : State) : Lawful s (unfitHeadB k s) :=
  (lawful_makeAbsent _ _).trans (lawful_unfitServed _ _)

theorem lawful_applySetup (k : TargetId) (q : Setup) (s : State) : Lawful s (applySetup k q s) := by
  have h0 := (lawful_modSetup k (fun _ => q) s).trans
    (lawful_modPower k (fun r => { r with runLevel := none, runCount := 0 }) _)
  simp only [applySetup]
  have h1 (t : State) (h : Lawful s t) :
      Lawful s (if s.setups[k.1].headB = true ∧ q.headB = false then
        unfitHeadB k (viewReport k (fun v => { v with excluded := q.excluded }) t)
        else viewReport k (fun v => { v with excluded := q.excluded }) t) := by
    split
    · exact (h.trans (kept_viewReport _ _ _).lawful).trans (lawful_unfitHeadB _ _)
    · exact h.trans (kept_viewReport _ _ _).lawful
  apply h1
  split
  · exact h0.trans (kept_modWake _ _ _).lawful
  · exact h0

theorem kept_windowExpired (k : TargetId) (s : State) : Kept s (windowExpired k s) := by
  unfold windowExpired
  split
  · exact kept_nextAttempt _ _
  · exact kept_endWake _ _ _

/-! ## Panel scanner -/

theorem lawful_panelEvent (p : PosId) (b : Bool) (s : State) : Lawful s (panelEvent p b s) :=
  ((lawful_modPanelKey _ _ _).trans (lawful_panel _ _)).trans (kept_notice _ _).lawful

theorem lawful_raiseAction (p : PosId) (s : State) : Lawful s (raiseAction p s) := by
  simp only [raiseAction]
  split
  · exact lawful_panelEvent _ _ _
  · exact lawful_panelEvent _ _ _
  · exact ((kept_rewriteMirror _ _).trans (kept_dispatchAction _ _ _ _)).lawful

theorem lawful_keyDown (p : PosId) (s : State) : Lawful s (keyDown p s) :=
  (lawful_modPanelKey _ _ _).trans (lawful_raiseAction _ _)

theorem lawful_keyUp (p : PosId) (s : State) : Lawful s (keyUp p s) := by
  simp only [keyUp]
  split
  · exact (lawful_modPanelKey _ _ _).trans (lawful_panelEvent _ _ _)
  · exact (lawful_modPanelKey _ _ _).trans (kept_rewriteMirror _ _).lawful

theorem lawful_readKey (p : PosId) (b : Bool) (s : State) : Lawful s (readKey p b s) := by
  simp only [readKey]
  split
  · exact lawful_modPanelKey _ _ _
  · split
    · exact lawful_modPanelKey _ _ _
    · split
      · exact lawful_keyDown _ _
      · exact lawful_keyUp _ _

theorem lawful_lightSlot (d : Fin 4) (s : State) : Lawful s (lightSlot d s) := by
  unfold lightSlot
  exact lawful_panel _ s

theorem lawful_readSlot (d : Fin 4) (levels : BitVec 6) (s : State) : Lawful s (readSlot d levels s) :=
  lawful_foldl (fun t (r : Fin 6) => readKey (positionOf d r) (levels.getLsbD r.1) t) (fun t _ => lawful_readKey _ _ t) _ _

theorem lawful_panelSlot (levels : BitVec 6) (s : State) : Lawful s (panelSlot levels s) := by
  simp only [panelSlot]
  refine Lawful.trans ?_ (lawful_panel _ _)
  exact (lawful_lightSlot _ _).trans (lawful_readSlot _ _ _)

theorem lawful_keyHeld (p : PosId) (s : State) : Lawful s (keyHeld p s) := by
  simp only [keyHeld]
  have h := (lawful_modPanelKey p (fun k => { k with state := .held, longDue := none }) s).trans
    (kept_rewriteMirror .panel _).lawful
  split
  · exact h.trans (kept_wakeRequest _ _).lawful
  · exact h

/-! ## Owners of commands -/

theorem lawful_applyHotkeys (es : List (List Byte)) (s : State) : Lawful s (applyHotkeys es s) := by
  unfold applyHotkeys
  exact (lawful_modHot _ _).trans (kept_notice _ _).lawful

theorem lawful_ownHotkeysLoad (c : CellId) (p : List Byte) (s : State) : Lawful s (ownHotkeysLoad c p s) := by
  unfold ownHotkeysLoad
  generalize entriesOf 16 32 (s.xm.mem.block Config.hotkeyBase 512) = es
  dsimp only
  split
  · exact (kept_complete _ _ _ _).lawful
  · split
    · exact (kept_complete _ _ _ _).lawful
    · exact (lawful_applyHotkeys _ _).trans (kept_complete _ _ _ _).lawful

theorem lawful_ownLeaderSet (c : CellId) (p : List Byte) (s : State) : Lawful s (ownLeaderSet c p s) := by
  simp only [ownLeaderSet]
  split
  · exact (kept_complete _ _ _ _).lawful
  · exact (lawful_modHot _ _).trans (kept_complete _ _ _ _).lawful

theorem lawful_ownTargetSetup (c : CellId) (p : List Byte) (s : State) : Lawful s (ownTargetSetup c p s) := by
  simp only [ownTargetSetup]
  split
  · exact (kept_complete _ _ _ _).lawful
  · split
    · exact (kept_complete _ _ _ _).lawful
    · split
      · exact (kept_complete _ _ _ _).lawful
      · exact (lawful_applySetup _ _ _).trans (kept_complete _ _ _ _).lawful

theorem kept_ownWake (c : CellId) (p : List Byte) (s : State) : Kept s (ownWake c p s) := by
  simp only [ownWake]
  split
  · exact kept_complete _ _ _ _
  · split
    · exact kept_requestWake _ _ _
    · exact kept_complete _ _ _ _

theorem lawful_ownIdentReread (c : CellId) (p : List Byte) (s : State) : Lawful s (ownIdentReread c p s) := by
  simp only [ownIdentReread]
  split
  · exact (kept_complete _ _ _ _).lawful
  · split
    · exact (kept_complete _ _ _ _).lawful
    · split
      · exact (kept_complete _ _ _ _).lawful
      · exact lawful_modIdent _ _ _
      · exact lawful_startRead _ _ _
      · exact lawful_startRead _ _ _

theorem lawful_ownIdentServe (c : CellId) (p : List Byte) (s : State) : Lawful s (ownIdentServe c p s) := by
  simp only [ownIdentServe]
  split
  · exact (kept_complete _ _ _ _).lawful
  · rename_i h rep _
    have h0 : Lawful s (if s.watched h then beforeSlot rep.source s else s) := by
      split
      · exact lawful_beforeSlot _ _
      · exact Lawful.refl s
    split
    · exact h0.trans (kept_complete _ _ _ _).lawful
    · exact h0.trans (lawful_requestReplacement _ _ _)

theorem lawful_applyPanelMap (es : List (List Byte)) (s : State) : Lawful s (applyPanelMap es s) := by
  unfold applyPanelMap
  exact (lawful_panel _ s).trans (kept_notice _ _).lawful

theorem lawful_ownPanelMapLoad (c : CellId) (p : List Byte) (s : State) : Lawful s (ownPanelMapLoad c p s) := by
  simp only [ownPanelMapLoad]
  split
  · exact (kept_complete _ _ _ _).lawful
  · split
    · exact (kept_complete _ _ _ _).lawful
    · exact (lawful_applyPanelMap _ _).trans (kept_complete _ _ _ _).lawful

theorem lawful_ownIndicatorSet (c : CellId) (p : List Byte) (s : State) : Lawful s (ownIndicatorSet c p s) := by
  simp only [ownIndicatorSet]
  split
  · exact (kept_complete _ _ _ _).lawful
  · split
    · exact (kept_complete _ _ _ _).lawful
    · exact (lawful_panel _ s).trans ((kept_rewriteMirror _ _).trans (kept_complete _ _ _ _)).lawful

theorem lawful_screenPlacement (sc : ScreenId) (e : Bool) (n : Nat) (s : State) :
    Lawful s (screenPlacement sc e n s) := by
  unfold screenPlacement
  split
  · exact Lawful.refl s
  · exact Lawful.refl s
  · exact (lawful_modScreen _ _ _).trans (kept_noticeOf _ _).lawful
  · exact lawful_modScreen _ _ _
  · exact ((lawful_modScreen _ _ _).trans (kept_noticeOf _ _).lawful).trans (lawful_applyStaged _ _ _)

theorem kept_replaceCursor (s : State) : Kept s (replaceCursor s) := by
  unfold replaceCursor
  split
  · exact kept_relocate _
  · split
    · exact kept_centreOn _ _
    · exact kept_modCursor _ _ fun _ hc => hc

theorem lawful_applyLayout (ps : Vector Placement 6) (s : State) : Lawful s (applyLayout ps s) := by
  have h0 : Lawful s { s with cur := { s.cur with geo := ps } } := ⟨rfl, id, id, id, id, id, id⟩
  simp only [applyLayout]
  refine Lawful.trans ?_ (kept_rewriteMirror _ _).lawful
  refine Lawful.trans ?_ (kept_askFocus _ _).lawful
  refine Lawful.trans ?_ (kept_replaceCursor _).lawful
  refine Lawful.trans (h0.trans (lawful_foldl (fun s (sc : ScreenId) => screenPlacement sc ps[sc.1].enabled ps[sc.1].refresh s)
    (fun s sc => lawful_screenPlacement _ _ _ s) (ids 6) _)) ?_
  exact (kept_modCursor _ _ fun c _ => c.still_bounded).lawful

theorem lawful_ownLayoutLoad (c : CellId) (p : List Byte) (s : State) : Lawful s (ownLayoutLoad c p s) := by
  simp only [ownLayoutLoad]
  split
  · exact (kept_complete _ _ _ _).lawful
  · exact (lawful_applyLayout _ _).trans (kept_complete _ _ _ _).lawful

theorem lawful_applySettings (q : Settings) (s : State) : Lawful s (applySettings q s) := ⟨rfl, id, id, id, id, id, id⟩

theorem lawful_ownDeskSet (c : CellId) (p : List Byte) (s : State) : Lawful s (ownDeskSet c p s) := by
  simp only [ownDeskSet]
  split
  · exact (kept_complete _ _ _ _).lawful
  · exact (lawful_applySettings _ _).trans (kept_complete _ _ _ _).lawful

theorem kept_ownFocus (c : CellId) (p : List Byte) (s : State) : Kept s (ownFocus c p s) := by
  simp only [ownFocus]
  split
  · exact kept_takeFocusCommand _ _ _
  · split
    · exact kept_complete _ _ _ _
    · split
      · exact kept_takeFocusCommand _ _ _
      · exact kept_complete _ _ _ _

theorem kept_ownPin (c : CellId) (p : List Byte) (s : State) : Kept s (ownPin c p s) := by
  simp only [ownPin]
  split
  · exact kept_complete _ _ _ _
  · exact (kept_setPin _ _).trans (kept_complete _ _ _ _)

theorem kept_ownPlanSet (c : CellId) (p : List Byte) (s : State) : Kept s (ownPlanSet c p s) := by
  simp only [ownPlanSet]
  split
  · exact kept_complete _ _ _ _
  · exact kept_stage _ _ _

theorem kept_ownShare (c : CellId) (p : List Byte) (s : State) : Kept s (ownShare c p s) := by
  simp only [ownShare]
  split
  · exact kept_complete _ _ _ _
  · split
    · exact kept_complete _ _ _ _
    · exact kept_stageShare _ _ _

theorem kept_ownRestore (c : CellId) (p : List Byte) (s : State) : Kept s (ownRestore c p s) := by
  simp only [ownRestore]
  split
  · exact kept_complete _ _ _ _
  · split
    · exact kept_restoreScreen _ _ _
    · exact kept_complete _ _ _ _

theorem lawful_frameBoundary (sc : ScreenId) (s : State) : Lawful s (frameBoundary sc s) :=
  (lawful_modScreen _ _ _).trans (lawful_applyStaged _ _ _)

/-! ## The take of a cell -/

/-- A cell that is not in the in-work set joins it: the set keeps one entry per cell. -/
theorem lawful_take (c : CellId) (s : State) (h : (s.xm.entry c).isNone = true) : Lawful s (take c s) := by
  unfold take
  refine Lawful.trans ?_ (lawful_writeMem _ _ _)
  refine Lawful.trans ?_ (lawful_writeMem _ _ _)
  refine ⟨rfl, id, id, id, fun hd => ?_, id, id⟩
  have hn : ∀ e ∈ s.xm.inWork, e.cell ≠ c := by
    have := List.find?_eq_none.mp (Option.isNone_iff_eq_none.mp h)
    intro e he hc
    exact this e he (by simp [hc])
  simp only [State.inWorkDistinct] at hd ⊢
  simp only [List.map_append, List.map_cons, List.map_nil]
  rw [List.nodup_append]
  refine ⟨hd, by simp, ?_⟩
  intro x hx y hy
  obtain ⟨e, he, rfl⟩ := List.mem_map.mp hx
  simp only [List.mem_singleton] at hy
  rw [hy]
  exact hn e he

/-- A READY cell is not in the in-work set. -/
theorem cellReady_free (s : State) (c : CellId) (h : s.cellReady c = true) : (s.xm.entry c).isNone = true := by
  simp only [State.cellReady, Bool.and_eq_true] at h
  exact h.1.2

theorem lawful_handOver (o : Owner) (c : CellId) (s : State) (h : s.cellReady c = true)
    (ho : ∀ c p s, Lawful s (o c p s)) : Lawful s (handOver o c s) :=
  ((lawful_take c s (cellReady_free s c h)).trans (ho _ _ _)).trans (kept_settle _).lawful

/-! ## Restart -/

theorem lawful_noticeLines (s : State) : Lawful s (noticeLines s) :=
  lawful_foldl _ (fun s l => (kept_notice (.line l) s).lawful) _ _

theorem lawful_restartDesk (s : State) : Lawful s (restartDesk s) :=
  (((lawful_desk _ s fun l h => by simpa using h).trans (lawful_driveLineResets _)).trans (lawful_noticeLines _)).trans
    (lawful_setMatcher _ _)

theorem lawful_restartQueues (s : State) : Lawful s (restartQueues s) := by
  refine ⟨rfl, id, fun hs k => ?_, id, id, id, id⟩
  simp only [restartQueues, mapVec_get]
  split
  · exact TargetLine.releaseFlush_bounded _ (hs k)
  · exact hs k

theorem lawful_centreCursor (s : State) : Lawful s (centreCursor s) := by
  have h0 : Lawful s { s with cur := { s.cur with
      cursor := s.cur.cursor.still, deskButtons := 0, lastButtons := Vector.replicate 8 0 } } :=
    ⟨rfl, id, id, fun _ => s.cur.cursor.still_bounded, id, id, id⟩
  simp only [centreCursor]
  split
  · exact h0.trans (kept_centreOn _ _).lawful
  · refine h0.trans (Kept.lawful ?_)
    exact kept_modCursor _ _ fun _ hc => hc

/-- Step 7 of a restart is the centring, and a placing of the cursor where it makes any. -/
theorem kept_restartCursor (s : State) : Kept (centreCursor s) (restartCursor s) := by
  simp only [restartCursor]
  split
  · exact kept_placeCursor _ _
  · exact Kept.refl _
  · exact Kept.refl _

theorem lawful_restartCursor (s : State) : Lawful s (restartCursor s) :=
  (lawful_centreCursor s).trans (kept_restartCursor s).lawful

theorem lawful_restartNotices (s : State) : Lawful s (restartNotices s) :=
  ((kept_giveAll s).lawful.trans (lawful_foldl _ (fun s m => (kept_rewriteMirror m s).lawful) _ _)).trans
    (lawful_writeMem _ _ _)

theorem lawful_restartWork (k : Fin 9) (s : State) : Lawful s (restartWork k s) := by
  unfold restartWork
  split
  · exact (kept_restartWakes s).lawful
  · exact (kept_discardStaged s).lawful
  · exact lawful_restartIdentity s
  · exact lawful_restartDesk s
  · exact (kept_restartFocus s).lawful
  · exact lawful_restartQueues s
  · exact lawful_restartCursor s
  · exact lawful_restartNotices s
  · exact Lawful.refl s

/-- A restart's first step is next. -/
theorem lawful_restarting (c : CellId) (x : Exchange) (s : State) (h : x.mem = s.xm.mem ∧ x.inWork = s.xm.inWork) :
    Lawful s { s with runState := .restarting c 0, xm := x } :=
  ⟨rfl, fun hc => by simpa only [State.memoryCanonical, h.1] using hc, id, id,
    fun hd => by simpa only [State.inWorkDistinct, h.2] using hd, id, fun _ d k hr hk => by cases hr; exact absurd hk (by decide)⟩

/-- The lines of a restart's desk are in their reset condition. -/
theorem restartDesk_quiet (s : State) (l : LineId) : (restartDesk s).desk.lines[l.1].resetUntil ≠ none := by
  unfold restartDesk noticeLines
  have h (u : State) : ((ids 4).foldl (fun s l => notice (.line l) s) u).desk = u.desk :=
    (kept_foldl _ (fun s l => kept_notice (.line l) s) _ _).desk
  simp only [setMatcher, modHot_desk, h]
  exact driveLineResets_quiet _ l

/-- Steps 5 to 8 of a restart leave the desk input unit as it is. -/
theorem restartWork_desk (k : Fin 9) (s : State) (h : 4 ≤ k.1) : (restartWork k s).desk = s.desk := by
  obtain ⟨k, hk⟩ := k
  have : k = 4 ∨ k = 5 ∨ k = 6 ∨ k = 7 ∨ k = 8 := by simp only at h; omega
  rcases this with rfl | rfl | rfl | rfl | rfl
  · show (restartFocus s).desk = s.desk
    exact (kept_restartFocus s).desk
  · show (restartQueues s).desk = s.desk
    rfl
  · show (restartCursor s).desk = s.desk
    rw [(kept_restartCursor s).desk]
    simp only [centreCursor]
    split
    · exact (kept_centreOn _ _).desk
    · rfl
  · show (restartNotices s).desk = s.desk
    simp only [restartNotices, writeMem_desk]
    exact (kept_foldl _ (fun s m => kept_rewriteMirror m s) _ (giveAll s)).desk
  · show s.desk = s.desk
    rfl

/-! ## Sweeps -/

theorem lawful_ownUnknown (c : CellId) (p : List Byte) (s : State) : Lawful s (ownUnknown c p s) :=
  (kept_complete _ _ _ _).lawful

theorem lawful_ownerOf (kind : Byte) (c : CellId) (p : List Byte) (s : State) :
    Lawful s ((ownerOf kind).getD ownUnknown c p s) := by
  unfold ownerOf
  split <;> simp only [Option.getD_some, Option.getD_none]
  · exact lawful_ownLayoutLoad _ _ _
  · exact lawful_ownDeskSet _ _ _
  · exact (kept_ownFocus _ _ _).lawful
  · exact (kept_ownPin _ _ _).lawful
  · exact lawful_ownHotkeysLoad _ _ _
  · exact lawful_ownLeaderSet _ _ _
  · exact lawful_ownTargetSetup _ _ _
  · exact (kept_ownPlanSet _ _ _).lawful
  · exact (kept_ownShare _ _ _).lawful
  · exact (kept_ownRestore _ _ _).lawful
  · exact (kept_ownWake _ _ _).lawful
  · exact lawful_ownIdentReread _ _ _
  · exact lawful_ownIdentServe _ _ _
  · exact lawful_ownPanelMapLoad _ _ _
  · exact lawful_ownIndicatorSet _ _ _
  · exact lawful_ownUnknown _ _ _

theorem lawful_visit (c : CellId) (s : State) : Lawful s (visit c s) := by
  unfold visit
  split
  · rename_i h
    exact lawful_handOver _ _ _ h (lawful_ownerOf _)
  · exact Lawful.refl s

theorem lawful_startSweep (s : State) : Lawful s (startSweep s) := by
  unfold startSweep
  exact lawful_xm _ _ ⟨rfl, rfl⟩

theorem lawful_startPending (s : State) : Lawful s (startPending s) := by
  unfold startPending
  split
  · refine Lawful.trans ?_ (lawful_startSweep _)
    exact lawful_xm _ _ ⟨rfl, rfl⟩
  · exact lawful_xm _ _ ⟨rfl, rfl⟩

theorem lawful_requestSweep (s : State) : Lawful s (requestSweep s) := by
  unfold requestSweep
  split
  · exact lawful_startSweep _
  · exact lawful_xm _ _ ⟨rfl, rfl⟩

theorem lawful_sweepOn (c : CellId) (s : State) : Lawful s (sweepOn c s) := by
  unfold sweepOn
  split
  · exact lawful_startPending _
  · exact lawful_xm _ _ ⟨rfl, rfl⟩

theorem lawful_beginRestart (c : CellId) (s : State) (h : (s.xm.entry c).isNone = true) :
    Lawful s (beginRestart c s) :=
  (lawful_take c s h).trans (lawful_restarting _ _ _ ⟨rfl, rfl⟩)

theorem lawful_visitCell (c : CellId) (s : State) : Lawful s (visitCell c s) := by
  unfold visitCell
  split
  · rename_i h
    simp only [Bool.and_eq_true] at h
    exact lawful_beginRestart c s (cellReady_free s c h.1)
  · exact (lawful_visit c s).trans (lawful_sweepOn c _)

theorem lawful_restartStep (c : CellId) (k : Fin 9) (s : State) (hr : s.runState = .restarting c k) :
    Lawful s (restartStep c k s) := by
  unfold restartStep
  split
  · exact ((kept_complete c .ok [] s).lawful.trans (lawful_running _)).trans (lawful_startPending _)
  · rename_i h8
    have g := lawful_restartWork k s
    refine ⟨g.fixed, g.canonical, g.queues, g.residuals, g.distinct, g.counts, fun hq d j hj h4 l => ?_⟩
    obtain ⟨rfl, rfl⟩ : c = d ∧ k + 1 = j := by
      simpa only [RunState.restarting.injEq] using hj
    have hk : (k + 1).1 = k.1 + 1 := by
      rw [Fin.val_add]
      simp
      omega
    by_cases h3 : k.1 = 3
    · have : k = 3 := Fin.ext h3
      subst this
      exact restartDesk_quiet s l
    · show (restartWork k s).desk.lines[l.1].resetUntil ≠ none
      rw [restartWork_desk k s (by omega)]
      exact hq c k hr (by omega) l

theorem lawful_tick (s : State) : Lawful s (tick s) := by
  unfold tick
  split
  · rename_i hr
    exact (lawful_restartStep _ _ s hr).trans (kept_settle _).lawful
  · exact (lawful_visitCell _ s).trans (kept_settle _).lawful
  · exact Lawful.refl s

theorem lawful_work (n : Nat) (s : State) : Lawful s (work n s) := by
  induction n generalizing s with
  | zero => exact Lawful.refl s
  | succ n ih =>
    unfold work
    split
    · exact (lawful_tick s).trans (ih _)
    · exact Lawful.refl s

/-- The steps left of a restart bring it to RUNNING. -/
theorem work_restart (n : Nat) (c : CellId) (k : Fin 9) (s : State) (hr : s.runState = .restarting c k) (hn : n + k.1 = 9) :
    (work n s).runState = .running := by
  induction n generalizing k s with
  | zero => omega
  | succ n ih =>
    have hb : s.busy = true := by simp [State.busy, hr]
    have ht : tick s = settle (restartStep c k s) := by simp [tick, hr]
    simp only [work, hb, if_true, ht]
    by_cases h8 : k.1 = 8
    · obtain rfl : n = 0 := by omega
      show (settle (restartStep c k s)).runState = .running
      rw [(kept_settle _).runState]
      simp only [restartStep, h8, if_true, startPending, startSweep]
      split <;> rfl
    · refine ih (k + 1) _ ?_ ?_
      · rw [(kept_settle _).runState]
        simp only [restartStep, h8, if_false]
      · rw [Fin.val_add]
        simp
        omega

/-- A restart that still runs once it need not be finished has not done its step 4. -/
theorem finishRestart_early (c : CellId) (k : Fin 9) (s : State) (h : (finishRestart s).runState = .restarting c k) :
    k.1 < 4 := by
  unfold finishRestart at h
  split at h
  · rename_i d j hr
    split at h
    · rw [work_restart (9 - j.1) d j s hr (by omega)] at h
      cases h
    · rw [hr] at h
      cases h
      omega
  all_goals
    rename_i hr
    rw [hr] at h
    cases h

theorem lawful_finishRestart (s : State) : Lawful s (finishRestart s) := by
  unfold finishRestart
  split
  · split
    · exact lawful_work _ _
    · exact Lawful.refl s
  all_goals exact Lawful.refl s

theorem lawful_endLineReset (l : LineId) (s : State) : Lawful s (endLineReset l (finishRestart s)) :=
  (lawful_finishRestart s).trans ⟨rfl, id, id, id, id, id, fun _ c k hr hk => absurd hk (Nat.not_le.mpr (finishRestart_early c k s hr))⟩

/-- An effect with the actions after it keeps the laws when the effect does. -/
theorem lawful_paced (f : State → State) (s : State)
    (h : Lawful { s with paces := s.paces.tail } (f { s with paces := s.paces.tail })) : Lawful s (paced f s) :=
  Lawful.trans (t := { s with paces := s.paces.tail }) ⟨rfl, id, id, id, id, id, id⟩ (h.trans (lawful_work _ _))

theorem lawful_sweepTick (s : State) : Lawful s (sweepTick s) := by
  unfold sweepTick
  refine Lawful.trans ?_ (lawful_requestSweep _)
  exact lawful_xm _ _ ⟨rfl, rfl⟩

theorem lawful_startSweepTimer (s : State) : Lawful s (startSweepTimer s) := ⟨rfl, id, id, id, id, id, id⟩

theorem lawful_writeLineControl (v : Word16) (s : State) : Lawful s (writeLineControl v s) := by
  have h0 : Lawful s { s with xm := { s.xm with noteEnable := v.getLsbD 0 } } := ⟨rfl, id, id, id, id, id, id⟩
  simp only [writeLineControl]
  split
  · exact h0
  · split
    · exact h0
    · refine Lawful.trans ?_ (lawful_startSweepTimer _)
      refine h0.trans ?_
      exact lawful_xm _ _ ⟨rfl, rfl⟩

theorem lawful_windowWrite (a : BitVec 14) (v : Word16) (s : State) : Lawful s (windowWrite a v s) := by
  unfold windowWrite
  split
  · exact lawful_hostWrite _ _ _
  · split
    · exact lawful_requestSweep _
    · exact lawful_writeLineControl _ _
    · exact Lawful.refl s

/-! ## Start-up -/

theorem lawful_clearMemory (s : State) : Lawful s (clearMemory s) := ⟨rfl, fun _ => Memory.wf_nil, id, id, id, id, id⟩

theorem lawful_beginDebounce (s : State) : Lawful s (beginDebounce s) := ⟨rfl, id, id, id, id, id, id⟩

theorem lawful_beginTiming (s : State) : Lawful s (beginTiming s) := ⟨rfl, id, id, id, id, id, id⟩

theorem lawful_beginScan (s : State) : Lawful s (beginScan s) := ⟨rfl, id, id, id, id, id, id⟩

theorem lawful_comp (c : Composer) (s : State) : Lawful s { s with comp := c } := ⟨rfl, id, id, id, id, id, id⟩

theorem lawful_presentAll (s : State) : Lawful s (presentAll s) := by
  unfold presentAll
  exact lawful_comp _ s

theorem lawful_setUpDesk (s : State) : Lawful s (setUpDesk s) := by
  simp only [setUpDesk]
  refine Lawful.trans ?_ (lawful_foldl _ (fun s m => (kept_rewriteMirror m s).lawful) _ _)
  refine Lawful.trans ?_ (kept_giveAll _).lawful
  refine Lawful.trans ?_ (lawful_presentAll _)
  exact (((((lawful_clearMemory s).trans (lawful_driveLineResets _)).trans (lawful_noticeLines _)).trans
    (lawful_beginDebounce _)).trans (lawful_beginTiming _)).trans (lawful_beginScan _)

theorem lawful_enterRunning (s : State) : Lawful s (enterRunning s) :=
  (((lawful_running s).trans (lawful_releaseAll _)).trans (lawful_startSweepTimer _)).trans (lawful_startPending _)

end Sys2Proof.Machine
end

