-- ==== Sys2Proof/Laws/Desk.lean ====
section
/-! SUPPORT. The frame of a desk frame's work, said once for every operation of the desk input unit, the matcher and a motion. -/

namespace Sys2Proof.Machine

open Sys2Proof

/-- An update that leaves the memory, the target lines, the screens and the cursor's residuals within bounds. -/
theorem DeskKept.of {s t : State} (h : t.beyondDesk = s.beyondDesk) (hx : t.xm = s.xm) (hl : t.tlines = s.tlines)
    (hc : t.comp = s.comp) (hr : s.residualsBounded → t.residualsBounded) : DeskKept s t := by
  refine ⟨h, fun c => ?_, fun k => ?_, fun x => ?_, fun a _ => by rw [hx], fun c _ a _ _ => by rw [hx], by rw [hx], hr,
    fun c h g => absurd (by rw [hx] at g; exact g) h⟩
  · rw [hc]; exact ScreenKept.refl _
  · rw [hl]; exact LineKept.refl _
  · simpa only [State.memoryCanonical, hx] using x

theorem DeskKept.refl (s : State) : DeskKept s s := .of rfl rfl rfl rfl id

theorem DeskKept.trans {s t u : State} (h : DeskKept s t) (g : DeskKept t u) : DeskKept s u :=
  ⟨g.beyond.trans h.beyond, fun c => (h.screens c).trans (g.screens c), fun k => (h.lines k).trans (g.lines k),
    fun x => g.canonical (h.canonical x), fun a ha => (g.above a ha).trans (h.above a ha),
    fun c hc a h1 h2 => (g.cells c (entry_none_of_sublist _ _ h.inWork c hc) a h1 h2).trans (h.cells c hc a h1 h2),
    g.inWork.trans h.inWork, fun x => g.residuals (h.residuals x), fun c hc hu => by
      by_cases ht : t.xm.entry c = none
      · rw [g.cells c ht _ (by omega) (by omega)]
        exact h.done c hc ht
      · exact g.done c ht hu⟩

theorem Kept.worked {s t : State} (h : Kept s t) : DeskKept s t := by
  refine ⟨?_, h.screens, h.lines, h.canonical, h.above, h.cells, h.inWork, h.residuals, h.done⟩
  have := h.outer
  simp only [State.outer, Prod.mk.injEq] at this
  simp only [State.beyondDesk, Prod.mk.injEq]
  tauto

theorem worked_modDeskLine (l : LineId) (f : DeskLine → DeskLine) (s : State) : DeskKept s (modDeskLine l f s) :=
  .of rfl rfl rfl rfl id

theorem worked_desk (d : DeskInput) (s : State) : DeskKept s { s with desk := d } := .of rfl rfl rfl rfl id

theorem worked_modHot (f : Hotkeys → Hotkeys) (s : State) : DeskKept s (modHot f s) := .of rfl rfl rfl rfl id

theorem worked_gainAndDwell (dx dy : Int) (g h : Nat) (r q : Int) (s : State) :
    DeskKept s (gainAndDwell (gain dx g r) (gain dy h q) s) := by
  have h1 := (gain_spec dx g r).2
  have h2 := (gain_spec dy h q).2
  exact (kept_modCursor _ _ fun c _ => ⟨h1.1, h1.2, h2.1, h2.2⟩).worked

theorem worked_motion (m : MotionIn) (s : State) : DeskKept s (motion m s) := by
  have h0 : DeskKept s { s with cur := { s.cur with deskButtons := m.merged } } := DeskKept.of rfl rfl rfl rfl id
  simp only [motion]
  split
  · exact (h0.trans (worked_gainAndDwell _ _ _ _ _ _ _)).trans (kept_reportMotion _ _ _).worked
  · refine DeskKept.trans ?_ (kept_reportMotion _ _ _).worked
    refine DeskKept.trans ?_ (kept_cursorMirrorSince _ _).worked
    refine DeskKept.trans ?_ (kept_motionPoint _ _ _).worked
    exact ((h0.trans (worked_gainAndDwell _ _ _ _ _ _ _)).trans (kept_stepAxis _ _ _).worked).trans (kept_stepAxis _ _ _).worked

theorem worked_fire (i : Fin 32) (s : State) : DeskKept s (fire i s) := by
  simp only [fire]
  have h : DeskKept s (notice .hotkey (modHot (fun h => { h with
      state := .idle, table := upd h.table i (fun e => { e with fires := e.fires + 1 }), lastFired := some i })
      (maskKey s.hot.table[i.1].key s))) := by
    refine DeskKept.trans ?_ (kept_notice _ _).worked
    exact (kept_modFocus _ _).worked.trans (worked_modHot _ _)
  split
  · exact h.trans (kept_dispatchAction _ _ _ _).worked
  · exact h

theorem worked_chordTest (js : List Byte) (new : Keys) (s : State) : DeskKept s (chordTest js new s) := by
  unfold chordTest
  split
  · exact worked_fire _ _
  · exact DeskKept.refl s

theorem worked_setMatcher (m : Matcher) (s : State) : DeskKept s (setMatcher m s) := worked_modHot _ _

theorem worked_maskKey (k : Byte) (s : State) : DeskKept s (maskKey k s) := (kept_modFocus _ _).worked

theorem worked_takePair (prev new : Keys) (s : State) : DeskKept s (takePair prev new s) := by
  simp only [takePair]
  split
  · exact DeskKept.refl s
  · split
    · split
      · exact worked_setMatcher _ _
      · exact worked_chordTest _ _ _
    · split
      · exact (worked_maskKey _ _).trans (worked_setMatcher _ _)
      · exact (worked_setMatcher _ _).trans (worked_chordTest _ _ _)
    · split
      · exact worked_fire _ _
      · exact (worked_setMatcher _ _).trans (worked_chordTest _ _ _)

theorem worked_refuseFrame (l : LineId) (s : State) : DeskKept s (refuseFrame l s) := by
  simp only [refuseFrame]
  split
  · exact DeskKept.refl s
  · exact (worked_modDeskLine _ _ _).trans (kept_notice _ _).worked

theorem worked_handOff (prev new : Keys) (s : State) : DeskKept s (handOff prev new s) := by
  simp only [handOff]
  exact (((kept_modFocus _ _).worked.trans (worked_takePair prev new _)).trans (kept_takeKeyChange _ _ _).worked).trans
    (kept_settle _).worked

theorem worked_recomputeKeys (s : State) : DeskKept s (recomputeKeys s) := by
  simp only [recomputeKeys]
  split
  · exact DeskKept.refl s
  · exact (worked_desk _ _).trans (worked_handOff _ _ _)

theorem worked_recomputeButtons (s : State) : DeskKept s (recomputeButtons s) := worked_desk _ _

theorem worked_releaseLine (l : LineId) (s : State) : DeskKept s (releaseLine l s) := by
  simp only [releaseLine]
  split
  · exact DeskKept.refl s
  · exact (worked_modDeskLine _ _ _).trans (worked_recomputeKeys _)
  · have h := (worked_modDeskLine l (fun r => { r with buttons := 0 }) s).trans (worked_recomputeButtons _)
    split
    · exact h
    · exact h.trans (worked_motion _ _)

theorem worked_setClass (l : LineId) (c : LineClass) (s : State) : DeskKept s (setClass l c s) :=
  (worked_modDeskLine _ _ _).trans (kept_notice _ _).worked

theorem worked_takeFrame (l : LineId) (k : FrameKind) (p : List Byte) (s : State) : DeskKept s (takeFrame l k p s) := by
  cases k <;> simp only [takeFrame]
  · exact (worked_releaseLine _ _).trans (worked_setClass _ _ _)
  · exact (worked_modDeskLine _ _ _).trans (worked_recomputeKeys _)
  · exact ((worked_modDeskLine _ _ _).trans (worked_recomputeButtons _)).trans (worked_motion _ _)
  · exact (worked_releaseLine _ _).trans (worked_setClass _ _ _)

theorem worked_arrive (l : LineId) (f : Frame) (s : State) : DeskKept s (arrive l f s) := by
  unfold arrive
  split
  · split
    · exact worked_takeFrame _ _ _ _
    · exact worked_refuseFrame _ _
  · exact DeskKept.refl s

/-! ## What such work does to the desk's own state -/

theorem motion_desk (m s) : (motion m s).desk = s.desk ∧ (motion m s).hot = s.hot ∧ (motion m s).cur.deskButtons = m.merged := by
  simp only [motion]
  split
  · have k := kept_reportMotion m s.cur.deskButtons (gainAndDwell (gain m.dx s.cur.settings.gain s.cur.cursor.rx) (gain m.dy s.cur.settings.gain s.cur.cursor.ry) { s with cur := { s.cur with deskButtons := m.merged } })
    exact ⟨k.desk, k.hot, k.deskButtons⟩
  · have k := ((((kept_stepAxis .x (gain m.dx s.cur.settings.gain s.cur.cursor.rx).1 (gainAndDwell (gain m.dx s.cur.settings.gain s.cur.cursor.rx) (gain m.dy s.cur.settings.gain s.cur.cursor.ry) { s with cur := { s.cur with deskButtons := m.merged } })).trans
      (kept_stepAxis .y (gain m.dy s.cur.settings.gain s.cur.cursor.ry).1 _)).trans (kept_motionPoint s.cur.cursor m _)).trans (kept_cursorMirrorSince s.cur.cursor _)).trans (kept_reportMotion m s.cur.deskButtons _)
    exact ⟨k.desk, k.hot, k.deskButtons⟩

theorem fire_desk (i s) : (fire i s).desk = s.desk := by
  simp only [fire]
  have h0 : (notice .hotkey (modHot (fun h => { h with state := .idle, table := upd h.table i (fun e => { e with fires := e.fires + 1 }), lastFired := some i }) (maskKey s.hot.table[i.1].key s))).desk = s.desk := rfl
  split
  · rw [(kept_dispatchAction _ _ _ _).desk, h0]
  · exact h0

theorem chord_desk (j n s) : (chordTest j n s).desk = s.desk := by
  unfold chordTest; split
  · exact fire_desk _ _
  · rfl

theorem takePair_desk (p n s) : (takePair p n s).desk = s.desk := by
  simp only [takePair]
  split
  · rfl
  · split
    · split
      · rfl
      · exact chord_desk _ _ _
    · split
      · rfl
      · exact (chord_desk _ _ _).trans rfl
    · split
      · exact fire_desk _ _
      · exact (chord_desk _ _ _).trans rfl

theorem handOff_desk (p n s) : (handOff p n s).desk = s.desk := by
  simp only [handOff]
  rw [(kept_settle _).desk, (kept_takeKeyChange _ _ _).desk, takePair_desk]
  rfl

theorem recompute_desk (s : State) : (recomputeKeys s).desk = { s.desk with keys := if s.desk.holding then s.desk.keys else s.desk.union } := by
  simp only [recomputeKeys]
  by_cases h : s.desk.holding = true
  · simp [h]
  · simp only [Bool.not_eq_true] at h
    by_cases e : s.desk.union = s.desk.keys
    · simp [h, e]
    · simp [h, e, handOff_desk]

end Sys2Proof.Machine
end

