-- ==== Sys2Proof/Laws/PerInstr.lean ====
section
/-! SUPPORT. A law for each command: no word of the table spells it, since no row of spec/opcode_table.json gives bits. -/

namespace Sys2Proof.Laws.NoWord

open Sys2Proof

/-- No table word spells this command. -/
def Statement (i : Instr) : Prop := ∀ nbits w : Nat, decodeTableWord nbits w ≠ some i

/-- No table word spells any command. -/
theorem no_word (i : Instr) : Statement i := fun _ _ h => nomatch h

theorem announce (t : Nat) (line : LineId) (len : Byte) (payload : List Byte) (check : Byte) : Statement (.announce t line len payload check) := no_word _

theorem keys (t : Nat) (line : LineId) (len : Byte) (payload : List Byte) (check : Byte) : Statement (.keys t line len payload check) := no_word _

theorem motion (t : Nat) (line : LineId) (len : Byte) (payload : List Byte) (check : Byte) : Statement (.motion t line len payload check) := no_word _

theorem gone (t : Nat) (line : LineId) (len : Byte) (payload : List Byte) (check : Byte) : Statement (.gone t line len payload check) := no_word _

theorem lineResetEnd (t : Nat) (line : LineId) : Statement (.lineResetEnd t line) := no_word _

theorem presentRises (t : Nat) (k : TargetId) : Statement (.presentRises t k) := no_word _

theorem presentFalls (t : Nat) (k : TargetId) : Statement (.presentFalls t k) := no_word _

theorem suspendIndication (t : Nat) (k : TargetId) : Statement (.suspendIndication t k) := no_word _

theorem slotStart (t : Nat) (k : TargetId) (take : Bool) : Statement (.slotStart t k take) := no_word _

theorem transmissionComplete (t : Nat) (k : TargetId) : Statement (.transmissionComplete t k) := no_word _

theorem resumeSignalEnd (t : Nat) (k : TargetId) : Statement (.resumeSignalEnd t k) := no_word _

theorem layoutLoad (t : Nat) (cell : CellId) : Statement (.layoutLoad t cell) := no_word _

theorem deskSet (t : Nat) (cell : CellId) : Statement (.deskSet t cell) := no_word _

theorem dwellDeadlineExpiry (t : Nat) : Statement (.dwellDeadlineExpiry t) := no_word _

theorem focus (t : Nat) (cell : CellId) : Statement (.focus t cell) := no_word _

theorem pin (t : Nat) (cell : CellId) : Statement (.pin t cell) := no_word _

theorem leaderDeadlineExpiry (t : Nat) : Statement (.leaderDeadlineExpiry t) := no_word _

theorem hotkeysLoad (t : Nat) (cell : CellId) : Statement (.hotkeysLoad t cell) := no_word _

theorem leaderSet (t : Nat) (cell : CellId) : Statement (.leaderSet t cell) := no_word _

theorem frameBoundary (t : Nat) (sc : ScreenId) : Statement (.frameBoundary t sc) := no_word _

theorem planSet (t : Nat) (cell : CellId) : Statement (.planSet t cell) := no_word _

theorem share (t : Nat) (cell : CellId) : Statement (.share t cell) := no_word _

theorem restore (t : Nat) (cell : CellId) : Statement (.restore t cell) := no_word _

theorem syncEdge (t : Nat) (h : HeadId) : Statement (.syncEdge t h) := no_word _

theorem absenceDeadlineExpiry (t : Nat) (h : HeadId) : Statement (.absenceDeadlineExpiry t h) := no_word _

theorem screenPresenceInputChange (t : Nat) (sc : ScreenId) (level : Bool) : Statement (.screenPresenceInputChange t sc level) := no_word _

theorem presenceDebounceExpiry (t : Nat) (sc : ScreenId) : Statement (.presenceDebounceExpiry t sc) := no_word _

theorem readAttemptEnd (t : Nat) (sc : ScreenId) (result : ReadResult) : Statement (.readAttemptEnd t sc result) := no_word _

theorem readRetryExpiry (t : Nat) (sc : ScreenId) : Statement (.readRetryExpiry t sc) := no_word _

theorem identReread (t : Nat) (cell : CellId) : Statement (.identReread t cell) := no_word _

theorem identServe (t : Nat) (cell : CellId) : Statement (.identServe t cell) := no_word _

theorem copyEnd (t : Nat) (h : HeadId) : Statement (.copyEnd t h) := no_word _

theorem announceExpiry (t : Nat) (h : HeadId) : Statement (.announceExpiry t h) := no_word _

theorem headTransactionStart (t : Nat) (h : HeadId) (addr : BitVec 7) : Statement (.headTransactionStart t h addr) := no_word _

theorem headOffsetWrite (t : Nat) (h : HeadId) (value : Byte) : Statement (.headOffsetWrite t h value) := no_word _

theorem headByteRead (t : Nat) (h : HeadId) : Statement (.headByteRead t h) := no_word _

theorem headTransactionStop (t : Nat) (h : HeadId) : Statement (.headTransactionStop t h) := no_word _

theorem headBusIdleExpiry (t : Nat) (h : HeadId) : Statement (.headBusIdleExpiry t h) := no_word _

theorem powerSample (t : Nat) (result : Int) : Statement (.powerSample t result) := no_word _

theorem targetSetup (t : Nat) (cell : CellId) : Statement (.targetSetup t cell) := no_word _

theorem wake (t : Nat) (cell : CellId) : Statement (.wake t cell) := no_word _

theorem pulseDelayEnd (t : Nat) (k : TargetId) : Statement (.pulseDelayEnd t k) := no_word _

theorem pulseEnd (t : Nat) (k : TargetId) : Statement (.pulseEnd t k) := no_word _

theorem wakeWindowExpiry (t : Nat) (k : TargetId) : Statement (.wakeWindowExpiry t k) := no_word _

theorem panelSlot (t : Nat) (levels : BitVec 6) : Statement (.panelSlot t levels) := no_word _

theorem longPressExpiry (t : Nat) (p : PosId) : Statement (.longPressExpiry t p) := no_word _

theorem tallyPeriodEnd (t : Nat) (sc : ScreenId) : Statement (.tallyPeriodEnd t sc) := no_word _

theorem panelMapLoad (t : Nat) (cell : CellId) : Statement (.panelMapLoad t cell) := no_word _

theorem indicatorSet (t : Nat) (cell : CellId) : Statement (.indicatorSet t cell) := no_word _

theorem hostMemoryWrite (t : Nat) (addr : BitVec 14) (value : Word16) : Statement (.hostMemoryWrite t addr value) := no_word _

theorem heldAccessRelease (t : Nat) : Statement (.heldAccessRelease t) := no_word _

theorem summaryClear (t : Nat) (word : Fin 16) (value : Word16) : Statement (.summaryClear t word value) := no_word _

theorem attention (t : Nat) (value : Word16) : Statement (.attention t value) := no_word _

theorem lineControl (t : Nat) (value : Word16) : Statement (.lineControl t value) := no_word _

theorem registerWriteIgnored (t : Nat) (reg : IgnoredReg) (value : Word16) : Statement (.registerWriteIgnored t reg value) := no_word _

theorem sweepTimerExpiry (t : Nat) : Statement (.sweepTimerExpiry t) := no_word _

theorem unknownKind (t : Nat) (cell : CellId) : Statement (.unknownKind t cell) := no_word _

theorem restart (t : Nat) (cell : CellId) : Statement (.restart t cell) := no_word _

theorem powerOnReset (t : Nat) : Statement (.powerOnReset t) := no_word _

theorem clearDone (t : Nat) : Statement (.clearDone t) := no_word _

theorem resetRelease (t : Nat) (screens targets : BitVec 3) (glide : Bool) (present : BitVec 8) : Statement (.resetRelease t screens targets glide present) := no_word _

theorem deskFrameBadKind (t : Nat) (line : LineId) (kind len : Byte) (payload : List Byte) (check : Byte) : Statement (.deskFrameBadKind t line kind len payload check) := no_word _

end Sys2Proof.Laws.NoWord
end

