-- ==== Sys2Proof/Laws/Rows.lean ====
section
/-! SUPPORT. One lemma for each command but the two of RESET_N: what it does is an effect under `act` that keeps the laws. -/

namespace Sys2Proof.Machine

open Sys2Proof

/-- A command's meaning is an effect under `act` that keeps the laws. -/
def Acts (c : Instr) : Prop := ∃ f : State → State, (∀ s, exec c s = act c.time f s) ∧ ∀ s, Lawful s (f s)

/-- A command that acts so answers a next state, to which the laws carry over. -/
theorem Acts.next {c : Instr} (h : Acts c) (s : State) : ∃ u, exec c s = .next u ∧ Lawful (s.advance c.time) u := by
  obtain ⟨f, he, hl⟩ := h
  refine ⟨_, he s, ?_⟩
  split
  · exact Lawful.refl _
  · exact (hl _).trans (kept_settle _).lawful

/-- While RESET_N is asserted it only moves the count. -/
theorem Acts.inReset {c : Instr} (h : Acts c) (s : State) (hr : s.resetAsserted = true) :
    exec c s = .next (s.advance c.time) := by
  obtain ⟨f, he, _⟩ := h
  rw [he, act_reset _ _ _ hr]

/-- After it nothing is left for the focus controller to take. -/
theorem Acts.empty {c : Instr} (h : Acts c) (s u : State) (hs : s.inboxEmpty) (hu : exec c s = .next u) :
    u.inboxEmpty := by
  obtain ⟨f, he, _⟩ := h
  rw [he] at hu
  unfold act at hu
  cases hu
  split
  · exact hs
  · rfl

theorem acts_takeCell {c : Instr} {kind : Byte} {owner : Owner} {cell : CellId}
    (ho : ∀ d p s, Lawful s (owner d p s))
    (he : ∀ s, exec c s = takeCell c.time kind owner cell s := by exact fun _ => rfl) : Acts c := by
  refine ⟨_, he, fun s => ?_⟩
  split
  · rename_i h
    simp only [Bool.and_eq_true] at h
    exact lawful_handOver _ _ _ h.1 ho
  · exact Lawful.refl s

theorem acts_announce (t : Nat) (line : LineId) (len : Byte) (payload : List Byte) (check : Byte) :
    Acts (.announce t line len payload check) :=
  ⟨_, fun _ => rfl, lawful_arrive _ _⟩

theorem acts_keys (t : Nat) (line : LineId) (len : Byte) (payload : List Byte) (check : Byte) :
    Acts (.keys t line len payload check) :=
  ⟨_, fun _ => rfl, lawful_arrive _ _⟩

theorem acts_motion (t : Nat) (line : LineId) (len : Byte) (payload : List Byte) (check : Byte) :
    Acts (.motion t line len payload check) :=
  ⟨_, fun _ => rfl, lawful_arrive _ _⟩

theorem acts_gone (t : Nat) (line : LineId) (len : Byte) (payload : List Byte) (check : Byte) :
    Acts (.gone t line len payload check) :=
  ⟨_, fun _ => rfl, lawful_arrive _ _⟩

theorem acts_lineResetEnd (t : Nat) (line : LineId) :
    Acts (.lineResetEnd t line) := by
  apply Exists.intro
  apply And.intro
  · intro s
    change execLineResetEnd t line s = act t _ s
    unfold execLineResetEnd
    rfl
  intro s
  split
  · exact lawful_endLineReset _ _
  · exact Lawful.refl s

theorem acts_presentRises (t : Nat) (k : TargetId) :
    Acts (.presentRises t k) := by
  apply Exists.intro
  apply And.intro
  · intro s
    change execPresentRises t k s = act t _ s
    unfold execPresentRises onLink
    rfl
  intro s
  split
  · beta_reduce
    split
    · exact lawful_setLink _ _ _
    · exact Lawful.refl s
  · exact Lawful.refl s

theorem acts_presentFalls (t : Nat) (k : TargetId) :
    Acts (.presentFalls t k) := by
  apply Exists.intro
  apply And.intro
  · intro s
    change execPresentFalls t k s = act t _ s
    unfold execPresentFalls onLink
    rfl
  intro s
  split
  · exact lawful_setLink _ _ _
  · exact Lawful.refl s

theorem acts_suspendIndication (t : Nat) (k : TargetId) :
    Acts (.suspendIndication t k) := by
  apply Exists.intro
  apply And.intro
  · intro s
    change execSuspendIndication t k s = act t _ s
    unfold execSuspendIndication onLink
    rfl
  intro s
  split
  · beta_reduce
    split
    · exact lawful_setLink _ _ _
    · exact Lawful.refl s
  · exact Lawful.refl s

theorem acts_slotStart (t : Nat) (k : TargetId) (take : Bool) :
    Acts (.slotStart t k take) := by
  apply Exists.intro
  apply And.intro
  · intro s
    change execSlotStart t k take s = act t _ s
    unfold execSlotStart onLink
    rfl
  intro s
  split
  · exact lawful_slotStart _ _ _
  · exact Lawful.refl s

theorem acts_transmissionComplete (t : Nat) (k : TargetId) :
    Acts (.transmissionComplete t k) := by
  apply Exists.intro
  apply And.intro
  · intro s
    change execTransmissionComplete t k s = act t _ s
    unfold execTransmissionComplete onLink
    rfl
  intro s
  split
  · exact lawful_endTransmission _ _
  · exact Lawful.refl s

theorem acts_resumeSignalEnd (t : Nat) (k : TargetId) :
    Acts (.resumeSignalEnd t k) := by
  apply Exists.intro
  apply And.intro
  · intro s
    change execResumeSignalEnd t k s = act t _ s
    unfold execResumeSignalEnd
    rfl
  intro s
  split
  · exact ((below_stopResume _ _).trans (below_resumeAnswer _ _)).kept.lawful
  · exact Lawful.refl s

theorem acts_layoutLoad (t : Nat) (cell : CellId) :
    Acts (.layoutLoad t cell) :=
  acts_takeCell lawful_ownLayoutLoad

theorem acts_deskSet (t : Nat) (cell : CellId) :
    Acts (.deskSet t cell) :=
  acts_takeCell lawful_ownDeskSet

theorem acts_dwellDeadlineExpiry (t : Nat) :
    Acts (.dwellDeadlineExpiry t) := by
  apply Exists.intro
  apply And.intro
  · intro s
    change execDwellDeadlineExpiry t s = act t _ s
    unfold execDwellDeadlineExpiry
    rfl
  intro s
  split
  · split
    · refine ((kept_modCursor _ _ ?_).trans (kept_rewriteMirror _ _)).lawful
      exact fun _ h => h
    · exact Lawful.refl s
  · exact Lawful.refl s

theorem acts_focus (t : Nat) (cell : CellId) :
    Acts (.focus t cell) :=
  acts_takeCell fun c p s => (kept_ownFocus c p s).lawful

theorem acts_pin (t : Nat) (cell : CellId) :
    Acts (.pin t cell) :=
  acts_takeCell fun c p s => (kept_ownPin c p s).lawful

theorem acts_leaderDeadlineExpiry (t : Nat) :
    Acts (.leaderDeadlineExpiry t) := by
  apply Exists.intro
  apply And.intro
  · intro s
    change execLeaderDeadlineExpiry t s = act t _ s
    unfold execLeaderDeadlineExpiry
    rfl
  intro s
  split
  · exact lawful_setMatcher _ _
  · exact Lawful.refl s

theorem acts_hotkeysLoad (t : Nat) (cell : CellId) :
    Acts (.hotkeysLoad t cell) :=
  acts_takeCell lawful_ownHotkeysLoad

theorem acts_leaderSet (t : Nat) (cell : CellId) :
    Acts (.leaderSet t cell) :=
  acts_takeCell lawful_ownLeaderSet

theorem acts_frameBoundary (t : Nat) (sc : ScreenId) :
    Acts (.frameBoundary t sc) := by
  apply Exists.intro
  apply And.intro
  · intro s
    change execFrameBoundary t sc s = act t _ s
    unfold execFrameBoundary
    rfl
  intro s
  split
  · exact lawful_frameBoundary _ _
  · exact Lawful.refl s

theorem acts_planSet (t : Nat) (cell : CellId) :
    Acts (.planSet t cell) :=
  acts_takeCell fun c p s => (kept_ownPlanSet c p s).lawful

theorem acts_share (t : Nat) (cell : CellId) :
    Acts (.share t cell) :=
  acts_takeCell fun c p s => (kept_ownShare c p s).lawful

theorem acts_restore (t : Nat) (cell : CellId) :
    Acts (.restore t cell) :=
  acts_takeCell fun c p s => (kept_ownRestore c p s).lawful

theorem acts_syncEdge (t : Nat) (h : HeadId) :
    Acts (.syncEdge t h) := by
  apply Exists.intro
  apply And.intro
  · intro s
    change execSyncEdge t h s = act t _ s
    unfold execSyncEdge
    rfl
  intro s
  split
  · exact lawful_takeEdge _ _
  · exact Lawful.refl s

theorem acts_absenceDeadlineExpiry (t : Nat) (h : HeadId) :
    Acts (.absenceDeadlineExpiry t h) := by
  apply Exists.intro
  apply And.intro
  · intro s
    change execAbsenceDeadlineExpiry t h s = act t _ s
    unfold execAbsenceDeadlineExpiry
    rfl
  intro s
  split
  · exact lawful_makeAbsent _ _
  · exact Lawful.refl s

theorem lawful_inputChanged (sc : ScreenId) (level : Bool) (s : State) : Lawful s (inputChanged sc level s) := by
  unfold inputChanged
  split
  · exact Lawful.refl s
  · extract_lets
    split
    · exact (lawful_modIdent _ _ _).trans (lawful_modIdent _ _ _)
    · exact lawful_modIdent _ _ _

/-- A change of a presence input: its level alone while RESET_N is asserted, and an effect under `act` that keeps the laws otherwise. -/
theorem exec_screenPresenceInputChange (t : Nat) (sc : ScreenId) (level : Bool) (s : State) :
    (s.resetAsserted = true → exec (.screenPresenceInputChange t sc level) s = .next (setInput sc level (s.advance t))) ∧
    (s.resetAsserted = false → exec (.screenPresenceInputChange t sc level) s = act t (inputChanged sc level) s) := by
  constructor <;> intro h <;> show execScreenPresenceInputChange t sc level s = _ <;>
    simp [execScreenPresenceInputChange, h]

/-- A change of a presence input answers a next state, to which the laws carry over. -/
theorem next_screenPresenceInputChange (t : Nat) (sc : ScreenId) (level : Bool) (s : State) :
    ∃ u, exec (.screenPresenceInputChange t sc level) s = .next u ∧ Lawful (s.advance t) u := by
  obtain ⟨h1, h2⟩ := exec_screenPresenceInputChange t sc level s
  cases h : s.resetAsserted with
  | true => exact ⟨_, h1 h, lawful_modIdent _ _ _⟩
  | false =>
    refine ⟨_, h2 h, ?_⟩
    rw [h]
    exact (lawful_inputChanged sc level _).trans (kept_settle _).lawful

theorem acts_presenceDebounceExpiry (t : Nat) (sc : ScreenId) :
    Acts (.presenceDebounceExpiry t sc) := by
  apply Exists.intro
  apply And.intro
  · intro s
    change execPresenceDebounceExpiry t sc s = act t _ s
    unfold execPresenceDebounceExpiry
    rfl
  intro s
  split
  · exact (lawful_modIdent _ _ _).trans (lawful_presenceChange _ _ _)
  · exact Lawful.refl s

theorem acts_readAttemptEnd (t : Nat) (sc : ScreenId) (result : ReadResult) :
    Acts (.readAttemptEnd t sc result) := by
  apply Exists.intro
  apply And.intro
  · intro s
    change execReadAttemptEnd t sc result s = act t _ s
    unfold execReadAttemptEnd
    rfl
  intro s
  split
  · exact lawful_attemptEnd _ _ _
  · exact Lawful.refl s

theorem acts_readRetryExpiry (t : Nat) (sc : ScreenId) :
    Acts (.readRetryExpiry t sc) := by
  apply Exists.intro
  apply And.intro
  · intro s
    change execReadRetryExpiry t sc s = act t _ s
    unfold execReadRetryExpiry
    rfl
  intro s
  split
  · split
    · exact lawful_changeIdent _ _ _
    · exact Lawful.refl s
  · exact Lawful.refl s

theorem acts_identReread (t : Nat) (cell : CellId) :
    Acts (.identReread t cell) :=
  acts_takeCell lawful_ownIdentReread

theorem acts_identServe (t : Nat) (cell : CellId) :
    Acts (.identServe t cell) :=
  acts_takeCell lawful_ownIdentServe

theorem acts_copyEnd (t : Nat) (h : HeadId) :
    Acts (.copyEnd t h) := by
  apply Exists.intro
  apply And.intro
  · intro s
    change execCopyEnd t h s = act t _ s
    unfold execCopyEnd
    rfl
  intro s
  split
  · split
    · exact lawful_endCopy _ _ _
    · exact Lawful.refl s
  · exact Lawful.refl s

theorem acts_announceExpiry (t : Nat) (h : HeadId) :
    Acts (.announceExpiry t h) := by
  apply Exists.intro
  apply And.intro
  · intro s
    change execAnnounceExpiry t h s = act t _ s
    unfold execAnnounceExpiry
    rfl
  intro s
  split
  · exact lawful_endAnnounce _ _
  · exact Lawful.refl s

theorem acts_headTransactionStart (t : Nat) (h : HeadId) (addr : BitVec 7) :
    Acts (.headTransactionStart t h addr) := by
  apply Exists.intro
  apply And.intro
  · intro s
    change execHeadTransactionStart t h addr s = act t _ s
    unfold execHeadTransactionStart
    rfl
  intro s
  split
  · exact Lawful.refl s
  · exact lawful_modServed _ _ _

theorem acts_headOffsetWrite (t : Nat) (h : HeadId) (value : Byte) :
    Acts (.headOffsetWrite t h value) := by
  apply Exists.intro
  apply And.intro
  · intro s
    change execHeadOffsetWrite t h value s = act t _ s
    unfold execHeadOffsetWrite
    rfl
  intro s
  exact lawful_inOpenTransaction _ _ _ fun s => lawful_modServed _ _ _

theorem acts_headByteRead (t : Nat) (h : HeadId) :
    Acts (.headByteRead t h) := by
  apply Exists.intro
  apply And.intro
  · intro s
    change execHeadByteRead t h s = act t _ s
    unfold execHeadByteRead
    rfl
  intro s
  exact lawful_inOpenTransaction _ _ _ fun s => lawful_modServed _ _ _

theorem acts_headTransactionStop (t : Nat) (h : HeadId) :
    Acts (.headTransactionStop t h) := by
  apply Exists.intro
  apply And.intro
  · intro s
    change execHeadTransactionStop t h s = act t _ s
    unfold execHeadTransactionStop
    rfl
  intro s
  exact lawful_inOpenTransaction _ _ _ (lawful_endTransaction _)

theorem acts_headBusIdleExpiry (t : Nat) (h : HeadId) :
    Acts (.headBusIdleExpiry t h) := by
  apply Exists.intro
  apply And.intro
  · intro s
    change execHeadBusIdleExpiry t h s = act t _ s
    unfold execHeadBusIdleExpiry
    rfl
  intro s
  refine lawful_inOpenTransaction _ _ _ fun s => ?_
  split
  · exact lawful_endTransaction _ _
  · exact Lawful.refl s

theorem acts_powerSample (t : Nat) (result : Int) :
    Acts (.powerSample t result) := by
  apply Exists.intro
  apply And.intro
  · intro s
    change execPowerSample t result s = act t _ s
    unfold execPowerSample
    rfl
  intro s
  split
  · exact Lawful.refl s
  · exact lawful_takeSample _ _

theorem acts_targetSetup (t : Nat) (cell : CellId) :
    Acts (.targetSetup t cell) :=
  acts_takeCell lawful_ownTargetSetup

theorem acts_wake (t : Nat) (cell : CellId) :
    Acts (.wake t cell) :=
  acts_takeCell fun c p s => (kept_ownWake c p s).lawful

theorem acts_pulseDelayEnd (t : Nat) (k : TargetId) :
    Acts (.pulseDelayEnd t k) := by
  apply Exists.intro
  apply And.intro
  · intro s
    change execPulseDelayEnd t k s = act t _ s
    unfold execPulseDelayEnd
    rfl
  intro s
  split
  · exact (below_startPulse _ _).kept.lawful
  · exact Lawful.refl s

theorem acts_pulseEnd (t : Nat) (k : TargetId) :
    Acts (.pulseEnd t k) := by
  apply Exists.intro
  apply And.intro
  · intro s
    change execPulseEnd t k s = act t _ s
    unfold execPulseEnd
    rfl
  intro s
  split
  · exact ((below_modWake _ _ _).trans (below_enterWatching _ _)).kept.lawful
  · exact Lawful.refl s

theorem acts_wakeWindowExpiry (t : Nat) (k : TargetId) :
    Acts (.wakeWindowExpiry t k) := by
  apply Exists.intro
  apply And.intro
  · intro s
    change execWakeWindowExpiry t k s = act t _ s
    unfold execWakeWindowExpiry
    rfl
  intro s
  split
  · exact (kept_windowExpired _ _).lawful
  · exact Lawful.refl s

theorem acts_panelSlot (t : Nat) (levels : BitVec 6) :
    Acts (.panelSlot t levels) := by
  apply Exists.intro
  apply And.intro
  · intro s
    change execPanelSlot t levels s = act t _ s
    unfold execPanelSlot
    rfl
  intro s
  split
  · exact Lawful.refl s
  · exact lawful_panelSlot _ _

theorem acts_longPressExpiry (t : Nat) (p : PosId) :
    Acts (.longPressExpiry t p) := by
  apply Exists.intro
  apply And.intro
  · intro s
    change execLongPressExpiry t p s = act t _ s
    unfold execLongPressExpiry
    rfl
  intro s
  split
  · exact lawful_keyHeld _ _
  · exact Lawful.refl s

theorem acts_tallyPeriodEnd (t : Nat) (sc : ScreenId) :
    Acts (.tallyPeriodEnd t sc) := by
  apply Exists.intro
  apply And.intro
  · intro s
    change execTallyPeriodEnd t sc s = act t _ s
    unfold execTallyPeriodEnd
    rfl
  intro s
  exact lawful_panel _ s

theorem acts_panelMapLoad (t : Nat) (cell : CellId) :
    Acts (.panelMapLoad t cell) :=
  acts_takeCell lawful_ownPanelMapLoad

theorem acts_indicatorSet (t : Nat) (cell : CellId) :
    Acts (.indicatorSet t cell) :=
  acts_takeCell lawful_ownIndicatorSet

theorem acts_hostMemoryWrite (t : Nat) (addr : BitVec 14) (value : Word16) :
    Acts (.hostMemoryWrite t addr value) := by
  apply Exists.intro
  apply And.intro
  · intro s
    change execHostMemoryWrite t addr value s = act t _ s
    unfold execHostMemoryWrite
    rfl
  intro s
  exact lawful_windowWrite _ _ s

theorem acts_heldAccessRelease (t : Nat) :
    Acts (.heldAccessRelease t) := by
  apply Exists.intro
  apply And.intro
  · intro s
    change execHeldAccessRelease t s = act t _ s
    unfold execHeldAccessRelease
    rfl
  intro s
  exact lawful_releaseAccess s

theorem acts_summaryClear (t : Nat) (word : Fin 16) (value : Word16) :
    Acts (.summaryClear t word value) := by
  apply Exists.intro
  apply And.intro
  · intro s
    change execSummaryClear t word value s = act t _ s
    unfold execSummaryClear
    rfl
  intro s
  exact lawful_hostWrite _ _ s

theorem acts_attention (t : Nat) (value : Word16) :
    Acts (.attention t value) := by
  apply Exists.intro
  apply And.intro
  · intro s
    change execAttention t value s = act t _ s
    unfold execAttention
    rfl
  intro s
  exact lawful_paced _ _ (lawful_requestSweep _)

theorem acts_lineControl (t : Nat) (value : Word16) :
    Acts (.lineControl t value) := by
  apply Exists.intro
  apply And.intro
  · intro s
    change execLineControl t value s = act t _ s
    unfold execLineControl
    rfl
  intro s
  exact lawful_writeLineControl _ s

theorem acts_registerWriteIgnored (t : Nat) (reg : IgnoredReg) (value : Word16) :
    Acts (.registerWriteIgnored t reg value) := by
  apply Exists.intro
  apply And.intro
  · intro s
    change execRegisterWriteIgnored t reg value s = act t _ s
    unfold execRegisterWriteIgnored
    rfl
  intro s
  exact Lawful.refl s

theorem acts_sweepTimerExpiry (t : Nat) :
    Acts (.sweepTimerExpiry t) := by
  apply Exists.intro
  apply And.intro
  · intro s
    change execSweepTimerExpiry t s = act t _ s
    unfold execSweepTimerExpiry
    rfl
  intro s
  split
  · exact lawful_paced _ _ (lawful_sweepTick _)
  · exact Lawful.refl s

theorem acts_unknownKind (t : Nat) (cell : CellId) :
    Acts (.unknownKind t cell) := by
  apply Exists.intro
  apply And.intro
  · intro s
    change execUnknownKind t cell s = act t _ s
    unfold execUnknownKind
    rfl
  intro s
  split
  · rename_i h
    simp only [Bool.and_eq_true] at h
    exact lawful_handOver _ _ _ h.1.1 lawful_ownUnknown
  · exact Lawful.refl s

theorem acts_restart (t : Nat) (cell : CellId) :
    Acts (.restart t cell) := by
  apply Exists.intro
  apply And.intro
  · intro s
    change execRestart t cell s = act t _ s
    unfold execRestart
    rfl
  intro s
  split
  · rename_i h
    simp only [Bool.and_eq_true] at h
    exact lawful_paced _ _ (lawful_beginRestart _ _ (cellReady_free s _ h.1))
  · exact Lawful.refl s

theorem acts_clearDone (t : Nat) :
    Acts (.clearDone t) := by
  apply Exists.intro
  apply And.intro
  · intro s
    change execClearDone t s = act t _ s
    unfold execClearDone
    rfl
  intro s
  split
  · exact lawful_paced _ _ ((lawful_setUpDesk _).trans (lawful_enterRunning _))
  · exact Lawful.refl s

theorem acts_deskFrameBadKind (t : Nat) (line : LineId) (kind len : Byte) (payload : List Byte) (check : Byte) :
    Acts (.deskFrameBadKind t line kind len payload check) :=
  ⟨_, fun _ => rfl, lawful_arrive _ _⟩

/-- Every command but the two of RESET_N and the change of a presence input, which RESET_N does not hold back. -/
theorem acts_exec (c : Instr) (h1 : ∀ t, c ≠ .powerOnReset t) (h2 : ∀ t a b g p, c ≠ .resetRelease t a b g p)
    (h3 : ∀ t sc l, c ≠ .screenPresenceInputChange t sc l) : Acts c := by
  cases c with
  | announce t line len payload check => exact acts_announce t line len payload check
  | keys t line len payload check => exact acts_keys t line len payload check
  | motion t line len payload check => exact acts_motion t line len payload check
  | gone t line len payload check => exact acts_gone t line len payload check
  | lineResetEnd t line => exact acts_lineResetEnd t line
  | presentRises t k => exact acts_presentRises t k
  | presentFalls t k => exact acts_presentFalls t k
  | suspendIndication t k => exact acts_suspendIndication t k
  | slotStart t k take => exact acts_slotStart t k take
  | transmissionComplete t k => exact acts_transmissionComplete t k
  | resumeSignalEnd t k => exact acts_resumeSignalEnd t k
  | layoutLoad t cell => exact acts_layoutLoad t cell
  | deskSet t cell => exact acts_deskSet t cell
  | dwellDeadlineExpiry t => exact acts_dwellDeadlineExpiry t
  | focus t cell => exact acts_focus t cell
  | pin t cell => exact acts_pin t cell
  | leaderDeadlineExpiry t => exact acts_leaderDeadlineExpiry t
  | hotkeysLoad t cell => exact acts_hotkeysLoad t cell
  | leaderSet t cell => exact acts_leaderSet t cell
  | frameBoundary t sc => exact acts_frameBoundary t sc
  | planSet t cell => exact acts_planSet t cell
  | share t cell => exact acts_share t cell
  | restore t cell => exact acts_restore t cell
  | syncEdge t h => exact acts_syncEdge t h
  | absenceDeadlineExpiry t h => exact acts_absenceDeadlineExpiry t h
  | screenPresenceInputChange t sc level => exact absurd rfl (h3 _ _ _)
  | presenceDebounceExpiry t sc => exact acts_presenceDebounceExpiry t sc
  | readAttemptEnd t sc result => exact acts_readAttemptEnd t sc result
  | readRetryExpiry t sc => exact acts_readRetryExpiry t sc
  | identReread t cell => exact acts_identReread t cell
  | identServe t cell => exact acts_identServe t cell
  | copyEnd t h => exact acts_copyEnd t h
  | announceExpiry t h => exact acts_announceExpiry t h
  | headTransactionStart t h addr => exact acts_headTransactionStart t h addr
  | headOffsetWrite t h value => exact acts_headOffsetWrite t h value
  | headByteRead t h => exact acts_headByteRead t h
  | headTransactionStop t h => exact acts_headTransactionStop t h
  | headBusIdleExpiry t h => exact acts_headBusIdleExpiry t h
  | powerSample t result => exact acts_powerSample t result
  | targetSetup t cell => exact acts_targetSetup t cell
  | wake t cell => exact acts_wake t cell
  | pulseDelayEnd t k => exact acts_pulseDelayEnd t k
  | pulseEnd t k => exact acts_pulseEnd t k
  | wakeWindowExpiry t k => exact acts_wakeWindowExpiry t k
  | panelSlot t levels => exact acts_panelSlot t levels
  | longPressExpiry t p => exact acts_longPressExpiry t p
  | tallyPeriodEnd t sc => exact acts_tallyPeriodEnd t sc
  | panelMapLoad t cell => exact acts_panelMapLoad t cell
  | indicatorSet t cell => exact acts_indicatorSet t cell
  | hostMemoryWrite t addr value => exact acts_hostMemoryWrite t addr value
  | heldAccessRelease t => exact acts_heldAccessRelease t
  | summaryClear t word value => exact acts_summaryClear t word value
  | attention t value => exact acts_attention t value
  | lineControl t value => exact acts_lineControl t value
  | registerWriteIgnored t reg value => exact acts_registerWriteIgnored t reg value
  | sweepTimerExpiry t => exact acts_sweepTimerExpiry t
  | unknownKind t cell => exact acts_unknownKind t cell
  | restart t cell => exact acts_restart t cell
  | powerOnReset t => exact absurd rfl (h1 _)
  | clearDone t => exact acts_clearDone t
  | resetRelease t screens targets glide present => exact absurd rfl (h2 _ _ _ _ _)
  | deskFrameBadKind t line kind len payload check => exact acts_deskFrameBadKind t line kind len payload check

end Sys2Proof.Machine
end

