-- ==== Sys2Proof/Laws/Reads.lean ====
section
/-! SUPPORT. What the shared operations leave to be read: words and blocks of memory, the take of a cell, a completion, a rewritten mirror, and the outcome of a command that is taken from a cell. -/

namespace Sys2Proof.Machine

open Sys2Proof

/-! ## Memory -/

/-- A write leaves every word beside it. -/
theorem Memory.word_write_outside (m : Memory) (a b : Nat) (bs : List Byte) (h : b + 1 < a ∨ a + bs.length ≤ b) :
    (m.write a bs).word b = m.word b := by
  unfold Memory.word
  rw [Memory.read_write_outside _ _ _ _ (by omega), Memory.read_write_outside _ _ _ _ (by omega)]

/-- A word is its two bytes, the less significant one first. -/
theorem Memory.word_of_reads (m : Memory) (b : Nat) (w : Word16) (h1 : m.read b = w.extractLsb' 0 8)
    (h2 : m.read (b + 1) = w.extractLsb' 8 8) : m.word b = w := by
  unfold Memory.word
  rw [h1, h2]
  exact BitVec.extractLsb'_append_extractLsb'_eq_extractLsb' (by omega) |>.trans (by simp)

/-- A padded list reads as the list, with zeros past its end. -/
theorem padTo_getD (n : Nat) (bs : List Byte) (i : Nat) (h : i < n) : (padTo n bs).getD i 0 = bs.getD i 0 := by
  simp only [padTo, List.getD]
  rw [List.getElem?_take_of_lt h, List.getElem?_append]
  split
  · rfl
  · rename_i hlt
    rw [List.getElem?_eq_none (by omega : bs.length ≤ i), List.getElem?_replicate]
    split <;> rfl

/-- A block is the bytes read one by one. -/
theorem Memory.block_eq (m : Memory) (a n : Nat) : m.block a n = (List.range n).map fun i => m.read (a + i) := by
  unfold Memory.block Memory.from Memory.below
  apply List.map_congr_left
  intro i hi
  have hi := List.mem_range.1 hi
  rw [Memory.read_filter _ (fun x => decide (x < a + n)), if_pos (by simpa using hi),
    Memory.read_filter _ (fun x => decide (a ≤ x)), if_pos (by simp)]

theorem Memory.block_getD (m : Memory) (a n i : Nat) (h : i < n) : (m.block a n).getD i 0 = m.read (a + i) := by
  rw [Memory.block_eq]
  simp [List.getD, h]

theorem Memory.block_length (m : Memory) (a n : Nat) : (m.block a n).length = n := by
  rw [Memory.block_eq]
  simp

/-! ## Codes as sets -/

/-- Codes with the repeated ones removed: the same codes, each once. -/
theorem dedup_spec (xs seen : List Byte) (h : seen.Nodup) :
    (dedup seen xs).Nodup ∧ ∀ c, c ∈ dedup seen xs ↔ c ∈ seen ∨ c ∈ xs := by
  induction xs generalizing seen with
  | nil => simp [dedup, h]
  | cons x xs ih =>
    simp only [dedup]
    split
    · rename_i hx
      simp at hx
      refine ⟨(ih _ h).1, fun c => ?_⟩
      rw [(ih _ h).2]
      simp
      constructor
      · tauto
      · rintro (h | rfl | h) <;> tauto
    · rename_i hx
      simp at hx
      have : (seen ++ [x]).Nodup := by
        rw [List.nodup_append]
        refine ⟨h, by simp, ?_⟩
        intro a ha b hb
        simp at hb
        subst hb
        intro e
        subst e
        exact hx ha
      refine ⟨(ih _ this).1, fun c => ?_⟩
      rw [(ih _ this).2]
      simp
      tauto

/-! ## Commands that act -/

/-- The outcome of a command's effect while RESET_N is not asserted. -/
theorem act_live {t : Nat} {f : State → State} {s : State} (h : s.live) : act t f s = .next (settle (f (s.advance t))) :=
  act_next _ _ _ h.1

/-- An effect that hands the focus controller nothing needs no settling. -/
theorem act_quiet {t : Nat} {f : State → State} {s : State} (h : s.live)
    (hf : (f (s.advance t)).focus.inbox = []) : act t f s = .next (f (s.advance t)) := by
  rw [act_live h, settle_of_empty _ hf]

/-! ## Actions of the part's own -/

/-- With nothing of its own to do the part does nothing. -/
theorem tick_idle (s : State) (h : s.busy = false) : tick s = s := by
  unfold State.busy at h
  unfold tick
  split <;> simp_all

/-- The first of several actions made first. -/
theorem repeat_tick (n : Nat) (s : State) : Nat.repeat tick (n + 1) s = Nat.repeat tick n (tick s) := by
  induction n generalizing s with
  | zero => rfl
  | succ n ih =>
    show tick (Nat.repeat tick (n + 1) s) = tick (Nat.repeat tick n (tick s))
    rw [ih]

/-- So many actions of the part's own are so many ticks. -/
theorem work_eq_repeat (n : Nat) (s : State) : work n s = Nat.repeat tick n s := by
  induction n generalizing s with
  | zero => rfl
  | succ n ih =>
    rw [repeat_tick]
    unfold work
    split
    · exact ih _
    · rename_i h
      simp only [Bool.not_eq_true] at h
      rw [tick_idle s h, ← ih]
      cases n with
      | zero => rfl
      | succ n => simp [work, h]

/-- An effect with the actions after it is the effect, the pace used up, and so many ticks. -/
theorem paced_eq_repeat (f : State → State) (s : State) :
    paced f s = Nat.repeat tick s.pace (f { s with paces := s.paces.tail }) := work_eq_repeat _ _

/-- A tick leaves nothing for the focus controller to take. -/
theorem tick_inbox (s : State) (h : s.focus.inbox = []) : (tick s).focus.inbox = [] := by
  unfold tick
  split
  · rfl
  · rfl
  · exact h

/-- So do several. -/
theorem repeat_tick_inbox (n : Nat) (s : State) (h : s.focus.inbox = []) : (Nat.repeat tick n s).focus.inbox = [] := by
  induction n with
  | zero => exact h
  | succ n ih => exact tick_inbox _ ih

/-! ## The take of a cell -/

/-- The address of no field that a take writes reads as before. -/
theorem take_read (c : CellId) (s : State) (a : Nat) (h : a ≠ 64 * c.1 + 2 ∧ a ≠ 64 * c.1 + 6 ∧ a ≠ 64 * c.1 + 7) :
    (take c s).xm.mem.read a = s.xm.mem.read a := by
  simp only [take, writeMem_xm, cellBase]
  rw [Memory.read_write_outside _ _ _ _ (by simp only [le16_length]; omega),
    Memory.read_write_outside _ _ _ _ (by simp only [List.length_cons, List.length_nil]; omega)]

/-- A parameter byte as the owner is handed it. -/
theorem cellParams_at8 (s : State) (c : CellId) (i : Nat) (h : i < 52) : at8 (s.cellParams c) i = s.param c i :=
  Memory.block_getD _ _ _ _ h

/-- A two-byte parameter as the owner is handed it. -/
theorem cellParams_at16 (s : State) (c : CellId) (i : Nat) (h : i < 51) : at16 (s.cellParams c) i = s.param16 c i := by
  simp only [at16, State.param16, cellParams_at8 _ _ _ (show i < 52 by omega), cellParams_at8 _ _ _ (show i + 1 < 52 by omega)]

/-- The visit's test of a cell. -/
theorem cellReady_of {s : State} {c : CellId} {kind : Byte} (h : s.commandReady c kind) :
    s.cellReady c = true ∧ s.cellKind c = kind := by
  obtain ⟨_, h1, h2, h3, h4⟩ := h
  refine ⟨?_, h4⟩
  have h5 : s.xm.mem.read (cellBase c + 2) = 1 := h3
  simp [State.cellReady, h1, h2, h5]

/-- A cell row of a cell that is READY with its kind is its owner's handling after the take. -/
theorem takeCell_ready {t : Nat} {kind : Byte} {owner : Owner} {c : CellId} {s : State} (h : s.commandReady c kind) :
    takeCell t kind owner c s = .next (settle (owner c (s.cellParams c) (take c (s.advance t)))) := by
  obtain ⟨h1, h2⟩ := cellReady_of h
  unfold takeCell
  rw [act_live h.1]
  have e1 : (s.advance t).cellReady c = true := h1
  have e2 : (s.advance t).cellKind c = kind := h2
  have e : ((s.advance t).cellReady c && (s.advance t).cellKind c == kind) = true := by simp [e1, e2]
  simp only [e, if_true]
  rw [handOver, settle_of_empty _ (settle_inbox _)]
  rfl

/-- The same where the owner hands the focus controller nothing. -/
theorem takeCell_quiet {t : Nat} {kind : Byte} {owner : Owner} {c : CellId} {s : State} (h : s.commandReady c kind)
    (hf : (owner c (s.cellParams c) (take c (s.advance t))).focus.inbox = []) :
    takeCell t kind owner c s = .next (owner c (s.cellParams c) (take c (s.advance t))) := by
  rw [takeCell_ready h, settle_of_empty _ hf]

/-- A cell row of any other cell has no effect (log 5). -/
theorem takeCell_other {t : Nat} {kind : Byte} {owner : Owner} {c : CellId} {s : State} (hl : s.live)
    (h : ¬s.commandReady c kind) : takeCell t kind owner c s = .next (s.advance t) := by
  unfold takeCell
  have e : ((s.advance t).cellReady c && (s.advance t).cellKind c == kind) = false := by
    by_contra hn
    apply h
    have hn : ((s.advance t).cellReady c && (s.advance t).cellKind c == kind) = true := by simpa using hn
    simp only [Bool.and_eq_true, beq_iff_eq, State.cellReady, decide_eq_true_eq, Option.isNone_iff_eq_none] at hn
    exact ⟨hl, hn.1.1.1, hn.1.1.2, hn.1.2, hn.2⟩
  rw [act_quiet hl]
  · simp only [e, if_false, Bool.false_eq_true]
  · simp only [e, if_false, Bool.false_eq_true]
    exact hl.2

/-! ## Completions and mirrors -/

/-- Every byte after the completion of a cell in the in-work set. -/
theorem complete_read (c : CellId) (r : Result) (data : List Byte) (s : State) (e : InWork) (he : s.xm.entry c = some e)
    (a : Nat) :
    (complete c r data s).xm.mem.read a =
      if a = 0x0415 then 1
      else if 64 * c.1 + 8 ≤ a ∧ a < 64 * c.1 + 64 then
        (le32 (s.xm.completionNo + 1) ++ padTo 52 data).getD (a - (64 * c.1 + 8)) 0
      else if 64 * c.1 ≤ a ∧ a < 64 * c.1 + 6 then
        (le16 e.tag ++ [3, e.kind, r.code, byte data.length]).getD (a - 64 * c.1) 0
      else s.xm.mem.read a := by
  have hc := c.2
  simp only [complete, he, setSummary, writeMem_xm, cellBase, Config.noticeBase]
  have l1 : (le16 e.tag ++ [3, e.kind, r.code, byte data.length]).length = 6 := rfl
  have l2 (n : Word32) : (le32 n ++ padTo 52 data).length = 56 := by
    simp only [List.length_append, le32_length, padTo_length]
  rw [Memory.read_write, Memory.read_write, Memory.read_write, l1, l2]
  by_cases h : a = 1045
  · subst h
    simp
  · rw [if_neg (by simp; omega), if_neg h]

/-- A completed cell is no longer in the in-work set, and the others stay in it or out of it. -/
theorem complete_entry (c d : CellId) (r : Result) (data : List Byte) (s : State) :
    (complete c r data s).xm.entry d = if d = c then none else s.xm.entry d := by
  by_cases he : s.xm.entry c = none
  · rw [show complete c r data s = s by simp [complete, he]]
    split
    · subst d
      exact he
    · rfl
  · obtain ⟨e, he⟩ := Option.ne_none_iff_exists'.1 he
    simp only [complete, he, setSummary, writeMem_xm]
    unfold Exchange.entry
    by_cases h : d = c
    · subst d
      simp [List.find?_eq_none]
    · rw [if_neg h]
      exact find_filter_ne _ _ _ h

/-- The cells completed in order are not in the in-work set after. -/
theorem completeAll_entry (cells : List CellId) (r : Result) (data : State → List Byte) (s : State) (d : CellId) :
    (completeAll cells r data s).xm.entry d = if d ∈ cells then none else s.xm.entry d := by
  induction cells generalizing s with
  | nil => simp [completeAll]
  | cons c cs ih =>
    have : completeAll (c :: cs) r data s = completeAll cs r data (complete c r (data s) s) := rfl
    rw [this, ih, complete_entry]
    by_cases h1 : d ∈ cs <;> by_cases h2 : d = c <;> simp [h1, h2]

/-- The bytes of a rewritten mirror, and those beside it. -/
theorem rewriteMirror_read (m : Mirror) (s : State) (a : Nat) :
    (rewriteMirror m s).xm.mem.read a =
      if m.base ≤ a ∧ a < m.base + m.size then
        (le16 (s.xm.revision[m.index.1] + 1) ++ padTo (m.size - 2) (mirrorFields s m)).getD (a - m.base) 0
      else s.xm.mem.read a := by
  have hf := m.fits
  have L : (le16 (s.xm.revision[m.index.1] + 1) ++ padTo (m.size - 2) (mirrorFields s m)).length = m.size := by
    simp only [List.length_append, le16_length, padTo_length]
    omega
  simp only [rewriteMirror, writeMem_xm]
  rw [Memory.read_write, L]

/-- The same for a rewrite with a notice, which sets its group's summary byte. -/
theorem notice_read (m : Mirror) (s : State) (a : Nat) :
    (notice m s).xm.mem.read a = if a = 0x0400 + m.index.1 then 1 else (rewriteMirror m s).xm.mem.read a := by
  simp only [notice, setSummary, writeMem_xm, Config.noticeBase]
  rw [Memory.read_write]
  by_cases h : a = 0x0400 + m.index.1
  · subst h
    simp
  · rw [if_neg (by simp; omega), if_neg h]

/-- The bytes of a mirror rewritten in place for one of its owners, whose fields stand in it as they are. -/
theorem rewriteOf_read (p : Share) (s : State) (a : Nat) :
    (rewriteOf p s).xm.mem.read a =
      if p.mirror.base ≤ a ∧ a < p.mirror.base + p.mirror.size then
        (le16 (s.xm.revision[p.mirror.index.1] + 1) ++ padTo (p.mirror.size - 2) (mirrorFields (give p s) p.mirror)).getD
          (a - p.mirror.base) 0
      else s.xm.mem.read a :=
  rewriteMirror_read p.mirror (give p s) a

/-- The same with a notice. -/
theorem noticeOf_read (p : Share) (s : State) (a : Nat) :
    (noticeOf p s).xm.mem.read a = if a = 0x0400 + p.mirror.index.1 then 1 else (rewriteOf p s).xm.mem.read a :=
  notice_read p.mirror (give p s) a

/-- After every owner has given its fields, each rewrite shows them as they stand. -/
theorem mirrorFields_giveAll_target (s : State) (k : TargetId) :
    mirrorFields (giveAll s) (.target k) = targetFields s.gives k := rfl

theorem mirrorFields_giveAll_screen (s : State) (sc : ScreenId) :
    mirrorFields (giveAll s) (.screen sc) = screenFields s.gives sc := rfl

end Sys2Proof.Machine
end

