-- ==== Sys2Proof/Tests/Slice0.lean ====
section
/-! SUPPORT. The model's own tests: ill-formed commands that are refused, one small step of each command, and for each statement that has hypotheses a concrete state and operands that meet them, clause by clause. -/

namespace Sys2Proof.Tests

set_option Elab.async false

open Sys2Proof Sys2Proof.Machine

/-! ## Small states -/

/-- The part right after reset, with the clear done. -/
def desk : State := { State.reset with runState := .running }

/-- A state with bytes written into the exchange memory. -/
def put (a : Nat) (bs : List Byte) (s : State) : State := { s with xm := { s.xm with mem := s.xm.mem.write a bs } }

/-- A state whose cell 0 is READY with tag 7, this kind and these parameters. -/
def ask (kind : Byte) (p : List Byte) (s : State) : State := put 0 ([7, 0, 1, kind] ++ List.replicate 8 0 ++ p) s

/-- The state after a command. -/
def after (i : Instr) (s : State) : State :=
  match exec i s with
  | .next t => t
  | _ => s

/-- Cell 0 reads DONE with this result and these first data bytes. -/
def answers (r : Result) (data : List Byte) (s : State) : Bool :=
  s.xm.mem.read 2 == 3 && s.xm.mem.read 4 == r.code && s.xm.mem.read 5 == byte data.length &&
    (List.range data.length).all fun i => s.xm.mem.read (12 + i) == data.getD i 0

/-- The test of a READY cell, as a Bool. -/
def ready (s : State) (c : CellId) (kind : Byte) : Bool :=
  !s.resetAsserted && s.focus.inbox.isEmpty && s.runState == .running && (s.xm.entry c).isNone &&
    s.xm.mem.read (64 * c.1 + 2) == 1 && s.xm.mem.read (64 * c.1 + 3) == kind

theorem commandReady_of_ready {s : State} {c : CellId} {kind : Byte} (h : ready s c kind = true) : s.commandReady c kind := by
  simp only [ready, Bool.and_eq_true, Bool.not_eq_true', List.isEmpty_iff, beq_iff_eq, Option.isNone_iff_eq_none] at h
  exact ⟨⟨h.1.1.1.1.1, h.1.1.1.1.2⟩, h.1.1.1.2, h.1.1.2, h.1.2, h.2⟩

theorem live_of {s : State} (h : s.resetAsserted = false ∧ s.focus.inbox = []) : s.live := h

/-- A line of the desk with a class. -/
def classed (c : LineClass) (s : State) : State := modDeskLine 0 (fun l => { l with cls := c }) s

/-- A target's line in a state. -/
def linked (k : TargetId) (l : Link) (s : State) : State := modTLine k (fun r => { r with link := l }) s

/-- A KEYS report. -/
def tap (c : Byte) : Report := .keys { mods := 0, codes := [c] }

/-- A queue entry of the focus controller. -/
def sent (r : Report) : Entry := { report := r, origin := .focus }

/-- Only one screen and one target fitted. -/
def small (s : State) : State := { s with straps := { screens := 1, targets := 1, glide := false } }

/-- The target with focus. -/
def focusOn (f : FocusState) (s : State) : State := modFocus (fun r => { r with st := f }) s

/-! ## Well-formedness: one ill-formed command for each check -/

theorem test_announce_payload_too_long : (Instr.announce 0 0 1 (List.replicate 256 0) 0).wellFormed = false := by decide +kernel
theorem test_keys_payload_too_long : (Instr.keys 0 0 1 (List.replicate 256 0) 0).wellFormed = false := by decide +kernel
theorem test_motion_payload_too_long : (Instr.motion 0 0 6 (List.replicate 256 0) 0).wellFormed = false := by decide +kernel
theorem test_gone_payload_too_long : (Instr.gone 0 0 0 (List.replicate 256 0) 0).wellFormed = false := by decide +kernel
theorem test_payload_at_limit : (Instr.gone 0 0 0 (List.replicate 255 0) 0).wellFormed = true := by decide +kernel
theorem test_bad_kind_payload_too_long : (Instr.deskFrameBadKind 0 0 9 0 (List.replicate 256 0) 0).wellFormed = false := by decide +kernel
theorem test_bad_kind_is_no_kind :
    (∀ k : Fin 4, (Instr.deskFrameBadKind 0 0 (byte (k.1 + 1)) 0 [] 0).wellFormed = false) ∧
    (Instr.deskFrameBadKind 0 0 0 0 [] 0).wellFormed = true ∧ (Instr.deskFrameBadKind 0 0 5 0 [] 0).wellFormed = true := by decide +kernel
theorem test_memory_write_is_no_summary_write :
    (Instr.hostMemoryWrite 0 0x200 0).wellFormed = false ∧ (Instr.hostMemoryWrite 0 0x20F 0).wellFormed = false ∧
    (Instr.hostMemoryWrite 0 0x1FF 0).wellFormed = true ∧ (Instr.hostMemoryWrite 0 0x210 0).wellFormed = true := by decide +kernel
theorem test_memory_write_is_no_register_write :
    (Instr.hostMemoryWrite 0 0x3FFC 0).wellFormed = false ∧ (Instr.hostMemoryWrite 0 0x3FFB 0).wellFormed = true := by decide +kernel

/-! ## Steps and the laws of every step -/

theorem test_front_command_waits :
    ({ desk with pending := [.clearDone 5, .pulseEnd 6 0] } : State).pending = .clearDone 5 :: [.pulseEnd 6 0] ∧ State.reset.pending = [] :=
  ⟨rfl, rfl⟩

theorem test_empty_queue_idles :
    desk.pending = [] ∧ (∀ c k, desk.runState ≠ .restarting c k) ∧ desk.xm.sweepState = .idle ∧ step desk = .next desk :=
  ⟨rfl, fun _ _ h => (nomatch h), rfl, rfl⟩

/-- A state at the limits of the laws: a full queue with a saturated count, residuals of −7 and 7, a PRESENT head, a cell IN_WORK, memory that is not empty. -/
def brim : State :=
  let s := put 9 [1] (modTLine 3 (fun l => { l with link := .up, queue := List.replicate 4 (sent (tap 4)), collapsed := 255 }) desk)
  let s := modHead 5 (fun h => { h with presence := .present, good := 8 }) (modCursor (fun c => { c with rx := -7, ry := 7 }) s)
  { s with xm := { s.xm with inWork := [{ cell := 3, tag := 1, kind := 8 }] }, pending := [.slotStart 9 3 false] }

theorem test_laws_hold_at_the_limits :
    brim.memoryCanonical ∧ brim.queuesBounded ∧ brim.residualsBounded ∧ brim.goodCounts ∧ brim.strapsLegal ∧
      brim.inWorkDistinct ∧ brim.inboxEmpty ∧ ∃ t, step brim = .next t := by
  refine ⟨(by decide +kernel : brim.xm.mem.wf = true), ?_, ?_, ?_, ?_, ?_, rfl, ?_⟩
  · exact (by decide +kernel : ∀ k : TargetId, brim.tlines[k.1].queue.length ≤ 4 ∧ brim.tlines[k.1].collapsed ≤ 255)
  · exact (by decide +kernel : -7 ≤ brim.cur.cursor.rx ∧ brim.cur.cursor.rx ≤ 7 ∧ -7 ≤ brim.cur.cursor.ry ∧ brim.cur.cursor.ry ≤ 7)
  · exact (by decide +kernel : ∀ h : HeadId, brim.heads[h.1].good ≤ 8 ∧ (brim.heads[h.1].presence = .present ↔ brim.heads[h.1].good = 8))
  · exact (by decide +kernel : 1 ≤ brim.straps.screens ∧ brim.straps.screens ≤ 6 ∧ 1 ≤ brim.straps.targets ∧ brim.straps.targets ≤ 8)
  · exact (by decide +kernel : (brim.xm.inWork.map InWork.cell).Nodup)
  · exact ⟨_, rfl⟩

/-! ## Cells -/

theorem test_completion_of_a_cell_in_work :
    brim.xm.entry 3 = some { cell := 3, tag := 1, kind := 8 } ∧ (List.replicate 52 (0 : Byte)).length ≤ 52 ∧ brim.xm.entry 4 = none := by
  decide +kernel

theorem test_take_then_completion :
    let t := complete 0 .ok [1] (take 0 (ask 4 [1] desk))
    t.xm.mem.read 2 = 3 ∧ t.xm.mem.word 0 = 7 ∧ t.xm.mem.read 0x0415 = 1 ∧ t.xm.completionNo = 1 := by decide +kernel

/-! ## Desk input lines -/

theorem test_refused_frame_meets_its_clauses :
    (∀ n : Fin 2, let s := modDeskLine 0 (fun l => { l with bad := 254 + n.1 }) desk
      deskFrame (.deskFrameBadKind 1 0 9 0 [] 247) = some (0, { kind := 9, len := 0, payload := [], check := 247 }) ∧
      s.resetAsserted = false ∧ s.focus.inbox = [] ∧ s.runState ≠ .starting ∧ s.desk.lines[0].resetUntil = none ∧
      ({ kind := 9, len := 0, payload := [], check := 247 } : Frame).accepted s.desk.lines[0].cls = none) ∧
    State.reset.runState = .starting ∧ (modDeskLine 0 (fun l => { l with resetUntil := some 9 }) desk).desk.lines[0].resetUntil ≠ none := by
  decide +kernel

theorem test_refused_frame_counts_to_255 :
    let s (n : Nat) := modDeskLine 0 (fun l => { l with bad := n }) desk
    (after (.deskFrameBadKind 1 0 9 0 [] 247) (s 254)).desk.lines[0].bad = 255 ∧
    (after (.deskFrameBadKind 1 0 9 0 [] 247) (s 254)).xm.mem.read 0x040F = 1 ∧
    (after (.deskFrameBadKind 1 0 9 0 [] 247) (s 255)).desk.lines[0].bad = 255 ∧
    (after (.deskFrameBadKind 1 0 9 0 [] 247) (s 255)).xm.mem = [] := by decide +kernel

theorem test_announce_and_gone_are_accepted :
    desk.live ∧ desk.runState ≠ .starting ∧ desk.desk.lines[0].resetUntil = none ∧
    (∀ cls : Fin 3, ({ kind := 1, len := 1, payload := [2], check := 252 } : Frame).accepted
      (match cls with | 0 => .silent | 1 => .keyboard | 2 => .pointer) = some .announce) ∧
    ({ kind := 4, len := 0, payload := [], check := 252 } : Frame).accepted .keyboard = some .gone ∧
    ({ kind := 4, len := 0, payload := [], check := 252 } : Frame).accepted .pointer = some .gone :=
  ⟨⟨rfl, rfl⟩, by decide +kernel⟩

theorem test_announce_names_the_class :
    (after (.announce 1 0 1 [1] 253) desk).desk.lines[0].cls = .keyboard ∧
    (after (.announce 1 0 1 [2] 252) desk).desk.lines[0].cls = .pointer := by decide +kernel

theorem test_gone_makes_the_line_silent :
    (after (.gone 1 0 0 [] 252) (classed .keyboard desk)).desk.lines[0].cls = .silent := by decide +kernel

/-- Target 7's line UP with focus on it, or lost on it while it sleeps. -/
def lostOn (power : Power) (f : FocusState) (s : State) : State :=
  modFocus (fun r => { r with st := f, view := upd r.view 7 fun e => { e with power := power } }) (linked 7 .up s)

/-- R7, R9: a line that goes SILENT lets go of its key or its button: the desk key state is handed on, and a motion that moves nothing carries the buttons. -/
theorem test_release_of_a_line_clauses :
    let held : Keys := { mods := 0, codes := [4] }
    let on (f : DeskLine → DeskLine) (d : DeskInput) : State :=
      { modTLine 7 (fun l => { l with lastSent := held }) (lostOn .on (.focused 7) desk) with desk := { d with lines := upd d.lines 0 f } }
    let pressed (s : State) : State := { s with cur := { s.cur with deskButtons := 1, lastButtons := s.cur.lastButtons.set 7 1 } }
    let typing (d : DeskInput) := on (fun l => { l with cls := .keyboard, lastKeys := held }) { d with keys := held }
    let clicking (d : DeskInput) := pressed (on (fun l => { l with cls := .pointer, buttons := 1 }) { d with merged := 1 })
    let other (f : DeskLine → DeskLine) : DeskInput := { desk.desk with lines := upd desk.desk.lines 1 f }
    let gone (s : State) := after (.gone 1 0 0 [] 252) s
    let out (s : State) := (gone s).tlines[7].queue.map Entry.report
    out (typing desk.desk) = [.keys Keys.empty] ∧ (gone (typing desk.desk)).desk.keys = Keys.empty ∧
    out (typing (other fun l => { l with cls := .keyboard, rollover := true })) = [] ∧
    (gone (typing (other fun l => { l with cls := .keyboard, rollover := true }))).desk.keys = held ∧
    out (clicking desk.desk) = [.point 0 16384 16384 0] ∧ (gone (clicking desk.desk)).cur.deskButtons = 0 ∧
    out (clicking (other fun l => { l with cls := .pointer, buttons := 1 })) = [] := by decide +kernel

theorem test_keys_frames_are_accepted :
    let s := classed .keyboard desk
    s.live ∧ s.runState ≠ .starting ∧ s.desk.lines[0].resetUntil = none ∧
    ({ kind := 2, len := 7, payload := [2, 4, 5, 6, 7, 8, 9], check := 206 } : Frame).accepted s.desk.lines[0].cls = some .keys ∧
    ({ kind := 2, len := 1, payload := [0], check := 253 } : Frame).accepted s.desk.lines[0].cls = some .keys ∧
    ({ kind := 2, len := 2, payload := [0, 0], check := 252 } : Frame).accepted s.desk.lines[0].cls = some .keys :=
  ⟨⟨rfl, rfl⟩, by decide +kernel⟩

/-- The matcher's leader key is 0x47; entry 8 of the default table is the leader key 0x1A that toggles pin, and entry 31 a chord. -/
def chorded (m : Matcher) : State :=
  modHot (fun h => { h with
    state := m, table := upd h.table 31 fun e => { e with enabled := true, kind := 0, mods := 2, key := 5, action := 2 } }) desk

theorem test_pair_clauses :
    let one (c : Byte) (m : BitVec 8) : Keys := { mods := m, codes := [c] }
    (takePair Keys.empty (one 0x47 0) (chorded .idle)).hot.state = .leaderOne 750000 ∧
    (takePair Keys.empty (one 0x47 0) (chorded (.leaderOne 9))).hot.state = .armed 750000 ∧
    (takePair Keys.empty (one 0x47 0) (chorded (.leaderOne 9))).focus.masked.codes = [0x47] ∧
    (takePair Keys.empty (one 0x1A 1) (chorded (.armed 9))).focus.pin = true ∧
    (takePair Keys.empty (one 0x1A 1) (chorded (.armed 9))).hot.lastFired = some 8 ∧
    (takePair Keys.empty (one 5 2) (chorded (.armed 9))).hot.lastFired = some 31 ∧
    (takePair Keys.empty (one 5 2) (chorded .idle)).focus.st = .pending 0 ∧
    (takePair Keys.empty (one 5 3) (chorded (.leaderOne 9))).hot = (chorded .idle).hot ∧
    (takePair (one 5 0) (one 5 2) (chorded (.leaderOne 9))) = chorded (.leaderOne 9) := by decide +kernel

theorem test_key_change_clauses :
    let new : Keys := { mods := 0, codes := [4] }
    let s := lostOn .asleep (.pending 7) desk
    s.focus.wakeOut = false ∧ s.focus.bringOut = none ∧ s.focus.view[7].power = .asleep ∧ s.wakes[7].state = .idle ∧
    (takeKeyChange Keys.empty new (modSetup 7 (fun q => { q with policy := { q.policy with pulse := true } }) s)).wakes[7].state = .watching ∧
    takeKeyChange new new s = s ∧ takeKeyChange Keys.empty new desk = desk ∧
    ((takeKeyChange Keys.empty new { lostOn .on (.focused 7) desk with desk := { desk.desk with keys := new } }).tlines[7].queue.map
      Entry.report) = [tap 4] := by decide +kernel

/-- R6: lines are joined DIN0 first, each list in its own order, and later repeats are removed. -/
theorem test_union_keeps_the_order_of_the_lines :
    let typing (codes : List Byte) (l : DeskLine) : DeskLine := { l with cls := .keyboard, lastKeys := { mods := 0, codes := codes } }
    ({ desk.desk with lines := upd (upd desk.desk.lines 3 (typing [9, 5, 7])) 1 (typing [7, 4]) } : DeskInput).union.codes = [7, 4, 9, 5] := by
  decide +kernel

theorem test_keys_become_the_desk_key_state :
    (after (.keys 1 0 2 [2, 4] 246) (classed .keyboard desk)).desk.keys = { mods := 2, codes := [4] } ∧
    (after (.keys 1 0 2 [0, 0] 252) (classed .keyboard desk)).desk.lines[0].rollover = true := by decide +kernel

theorem test_motion_frame_is_accepted :
    let s := classed .pointer desk
    s.live ∧ s.runState ≠ .starting ∧ s.desk.lines[0].resetUntil = none ∧
    ({ kind := 3, len := 6, payload := [31, 0, 0xF8, 0xFF, 7, 0xF8], check := 226 } : Frame).accepted s.desk.lines[0].cls = some .motion :=
  ⟨⟨rfl, rfl⟩, by decide +kernel⟩

theorem test_motion_moves_the_cursor :
    let t := after (.motion 1 0 6 [1, 16, 0, 0xFF, 0xFF, 0] 232) (classed .pointer desk)
    t.cur.cursor.x = 976 ∧ t.cur.cursor.y = 539 ∧ t.cur.deskButtons = 1 := by decide +kernel

theorem test_motion_stages_clauses :
    let m : MotionIn := { dx := 3, dy := 0, wheel := 1, merged := 1 }
    let hold (positive : Bool) : Hold := { axis := .x, positive := positive, dest := 1, due := 9 }
    let at' (d : Dwell) : State := modCursor (fun c => { c with dwell := d }) (lostOn .on (.focused 7) desk)
    (at' .clear).cur.cursor.screen ≠ none ∧ gain 3 8 0 = (3, 0) ∧
    (motion m (at' (.ready (hold true)))).cur.cursor.dwell = .ready (hold true) ∧
    (motion m (at' (.ready (hold false)))).cur.cursor.dwell = .clear ∧
    ((motion m (at' .clear)).tlines[7].queue.map Entry.report) = [.point 1 16435 16384 1] ∧
    (motion { m with dx := 0, wheel := 0, merged := 0 } (at' .clear)).tlines[7].queue = [] ∧
    (motion m (modCursor (fun c => { c with screen := none }) desk)).cur.cursor.x = 960 := by decide +kernel

theorem test_line_reset_end :
    let s := modDeskLine 0 (fun l => { l with resetUntil := some 10000 }) desk
    (after (.lineResetEnd 10000 0) s).desk.lines[0].resetUntil = none ∧
    (after (.lineResetEnd 9999 0) s).desk.lines[0].resetUntil = some 10000 := by decide +kernel

theorem test_input_wake_and_mapping_clauses :
    let s := modSetup 7 (fun q => { q with policy := { q.policy with pulse := true } }) (lostOn .asleep (.pending 7) desk)
    let bringing := modFocus (fun f => { f with bringOut := some 0 }) s
    let blank := modScreen 0 (fun r => { r with active := Plan.fullOf none }) desk
    (wakeOnInput s).wakes[7].state = .watching ∧ (wakeOnInput s).focus.wakeOut = true ∧ wakeOnInput bringing = bringing ∧
    wakeOnInput desk = desk ∧
    (desk.cur.cursor.screen = some 0 ∧ desk.tileRect 0 0 = some ⟨0, 0, 1920, 1080⟩ ∧ desk.tileSource 0 0 = some 0) ∧
    desk.mapCursor = some (16384, 16384) ∧ blank.tileSource 0 0 = none ∧ blank.mapCursor = none ∧
    (modCursor (fun c => { c with screen := none }) desk).mapCursor = none := by decide +kernel

/-! ## Target lines -/

theorem test_present_clauses :
    desk.live ∧ desk.fittedTarget 7 = true ∧ desk.tlines[7].link = .down ∧ (small desk).fittedTarget 1 = false ∧
      (linked 7 .suspended desk).tlines[7].link ≠ .down :=
  ⟨⟨rfl, rfl⟩, by decide +kernel⟩

theorem test_present_rises : (after (.presentRises 1 7) desk).tlines[7].link = .up := by decide +kernel

theorem test_leaving_up_clauses :
    desk.live ∧ desk.fittedTarget 0 = true ∧ (linked 0 .up desk).tlines[0].link = .up ∧
      (linked 0 .suspended desk).tlines[0].link = .suspended ∧ desk.tlines[0].link = .down :=
  ⟨⟨rfl, rfl⟩, by decide +kernel⟩

theorem test_present_falls :
    let t := after (.presentFalls 1 0) (modTLine 0 (fun l => { l with link := .up, queue := [sent (tap 4)] }) desk)
    t.tlines[0].link = .down ∧ t.tlines[0].queue = [] ∧ t.tlines[0].collapsed = 0 := by decide +kernel

theorem test_suspend_indication : (after (.suspendIndication 1 0) (linked 0 .up desk)).tlines[0].link = .suspended := by decide +kernel

/-- R13, R16: a resume signal that is cut short lets a SIGNALLING operation watch; the composer and the focus controller take the change. -/
theorem test_link_change_clauses :
    let s (w : WakeState) : State :=
      modWake 0 (fun r => { r with state := w }) (modTLine 0 (fun l => { l with link := .suspended, resumeUntil := some 9 }) desk)
    setLink 0 .suspended (s .idle) = s .idle ∧ (setLink 0 .up (s .signalling)).wakes[0].state = .watching ∧
    (setLink 0 .up (s .idle)).wakes[0].state = .idle ∧ (setLink 0 .up (s .idle)).tlines[0].resumeUntil = none ∧
    (setLink 0 .up (s .idle)).focus.inbox = [.link 0 .up] ∧ (setLink 0 .up (s .idle)).comp.view[0].link = .up ∧
    (setLink 0 .up (linked 0 .suspended desk)).xm.revision[1] = 1 ∧ (setLink 0 .up (s .idle)).xm.revision[1] = 2 := by decide +kernel

theorem test_slot_clauses :
    let s := modTLine 0 (fun l => { l with link := .up, queue := [sent (tap 4), sent (tap 5)] }) desk
    s.live ∧ s.tlines[0].inTx = none ∧ s.fittedTarget 0 = true ∧ s.tlines[0].link = .up ∧
      s.tlines[0].queue = sent (tap 4) :: [sent (tap 5)] ∧
      (linked 0 .suspended desk).tlines[0].link = .suspended ∧ desk.tlines[0].link = .down ∧
      (linked 0 .up desk).tlines[0].link = .up ∧ (linked 0 .up desk).tlines[0].queue = [] :=
  ⟨⟨rfl, rfl⟩, by decide +kernel⟩

theorem test_slot_sends_the_oldest_report :
    let t := after (.slotStart 1 0 true) (modTLine 0 (fun l => { l with link := .up, queue := [sent (tap 4), sent (tap 5)] }) desk)
    t.tlines[0].inTx = some (tap 4) ∧ t.tlines[0].queue = [sent (tap 5)] ∧
    (after (.transmissionComplete 2 0) t).tlines[0].onLine = { mods := 0, codes := [4] } := by decide +kernel

theorem test_resume_signal_end :
    let s := modTLine 0 (fun l => { l with resumeUntil := some 20000 }) desk
    s.live ∧ s.tlines[0].resumeUntil = some 20000 ∧
      (after (.resumeSignalEnd 20000 0) s).tlines[0].resumeUntil = none ∧
      (after (.resumeSignalEnd 19999 0) s).tlines[0].resumeUntil = some 20000 :=
  ⟨⟨rfl, rfl⟩, by decide +kernel⟩

/-- A queue of the model's tests on an UP line. -/
def queued (q : List Entry) : State := modTLine 0 (fun l => { l with link := .up, queue := q, lastSent := { mods := 0, codes := [4, 5] } }) desk

theorem test_report_is_discarded :
    desk.tlines[0].link ≠ .up ∧ (∀ c : Byte, c ∈ ([5, 4] : List Byte) ↔ c ∈ (queued []).tlines[0].lastSent.codes) ∧
    (handIn 0 (.keys { mods := 0, codes := [5, 4] }) .focus (queued [])).tlines[0].queue = [] ∧
    (handIn 0 (.keys { mods := 0, codes := [5, 4] }) .release (queued [])).tlines[0].queue.length = 1 := by decide +kernel

theorem test_report_merges_up_to_the_wheel_limit :
    (handIn 0 (.point 1 9 9 4) .focus (queued [sent (.point 1 8 8 3)])).tlines[0].queue = [sent (.point 1 9 9 7)] ∧
    (handIn 0 (.point 1 9 9 5) .focus (queued [sent (.point 1 8 8 3)])).tlines[0].queue.length = 2 := by decide +kernel

theorem test_report_meets_a_full_queue :
    let points := (List.range 4).map fun i => sent (.point (BitVec.ofNat 5 i) i i 0)
    (handIn 0 (tap 9) .focus (queued (List.replicate 3 (sent (tap 4))))).tlines[0].queue.length = 4 ∧
    (handIn 0 (tap 9) .focus (queued (sent (tap 4) :: points.take 3))).tlines[0].queue = sent (tap 9) :: points.take 3 ∧
    (handIn 0 (tap 9) .focus (queued points)).tlines[0].queue = points.tail ++ [sent (tap 9)] ∧
    (handIn 0 (.point 0 1 1 0) .focus (queued (List.replicate 4 (sent (tap 4))))).tlines[0].queue = List.replicate 4 (sent (tap 4)) ∧
    (handIn 0 (tap 9) .focus (queued points)).tlines[0].collapsed = 1 := by decide +kernel

/-- R19, R23: a change of the count of collapsed reports rewrites the TARGET mirror, with its summary byte; another report does not. -/
theorem test_collapsed_count_gives_a_notice :
    let full := queued (List.replicate 4 (sent (.point 1 0 0 0)))
    let t := handIn 0 (tap 9) .focus full
    t.tlines[0].collapsed ≠ full.tlines[0].collapsed ∧ t.xm.revision[(Mirror.target 0).index.1] = 1 ∧
    t.xm.mem.read (0x0400 + (Mirror.target 0).index.1) = 1 ∧ (handIn 0 (tap 9) .focus (queued [])).xm.mem = [] := by decide +kernel

/-! ## The cursor engine -/

theorem test_gain_at_its_limits :
    (-2048 ≤ (-2048 : Int) ∧ (32 : Nat) ≤ 32 ∧ -7 ≤ (-7 : Int)) ∧ gain (-2048) 32 (-7) = (-8192, -7) ∧ gain 2047 32 7 = (8188, 7) ∧
      gain (-3) 5 0 = (-1, -7) := by decide +kernel

theorem test_smallest_tiles :
    (320 : Nat) ≤ 320 ∧ (200 : Nat) ≤ 200 ∧ tileOf .quad 320 200 3 = some ⟨160, 100, 160, 100⟩ ∧
      (⟨160, 100, 160, 100⟩ : Rect).contains 319 199 = true ∧ (⟨160, 100, 160, 100⟩ : Rect).contains 320 199 = false ∧
      desk.cur.geo[5].w = 1920 ∧ desk.tileRect 5 0 = some ⟨9600, 0, 1920, 1080⟩ := by decide +kernel

theorem test_mapping_at_the_corner :
    let r : Rect := ⟨100, 50, 320, 200⟩
    let q : Setup := { Setup.initial with headB := true, under := true }
    r.contains 419 249 = true ∧ q.headB = true ∧ 0 < q.wA ∧ 0 < q.hA ∧ 0 < q.wB ∧ 0 < q.hB ∧
      mapPoint r q false 100 50 = (0, 0) ∧ mapPoint r q true 419 249 = (32665, 32676) := by decide +kernel

/-- A desk whose every tile is live, with glide as given, the cursor at x and the dwell as given. -/
def gliding (glide : Bool) (dwell x : Nat) (d : Dwell) : State :=
  let lit : TargetView := { link := .up, power := .on, headA := .present, headB := .absent, excluded := false }
  let s : State := { desk with comp := { desk.comp with view := Vector.replicate 8 lit } }
  let s := modCursor (fun c => { c with x := x, dwell := d }) s
  { s with cur := { s.cur with settings := { s.cur.settings with glide := glide, dwell := dwell } } }

/-- A dwell toward target 1 across the right edge of screen 0. -/
def toOne : Hold := { axis := .x, positive := true, dest := 1, due := 500 }

theorem test_step_clauses :
    (∀ r, (gliding true 0 1919 .clear).currentRect = some r → 0 < r.w ∧ 0 < r.h) ∧
    (gliding true 0 0 .clear).locate (0 - 1) 540 = none ∧
    (gliding true 0 960 .clear).locate (960 + 1) 540 = some (0, 0) ∧ (gliding true 0 960 .clear).cur.cursor.screen = some 0 ∧
    (gliding true 0 1919 .clear).locate (1919 + 1) 540 = some (1, 0) ∧ (gliding true 0 1919 .clear).focus.st.target = none ∧
    (gliding true 0 1919 .clear).tileCond 1 0 = .live ∧ (gliding true 0 1919 .clear).tileTarget 1 0 = some 1 ∧
    (gliding true 0 1919 .clear).focus.pin = false ∧ (gliding false 0 1919 .clear).cur.settings.glide = false := by
  refine ⟨?_, by decide +kernel⟩
  intro r h
  have e : (gliding true 0 1919 .clear).currentRect = some ⟨0, 0, 1920, 1080⟩ := by decide +kernel
  rw [e] at h
  cases h
  decide

theorem test_step_outcomes :
    (stepAxis .x (-1) (gliding true 0 0 .clear)).cur.cursor.x = 0 ∧
    (stepAxis .x 1 (gliding true 0 960 .clear)).cur.cursor.x = 961 ∧
    (stepAxis .x 1 (gliding false 0 1919 .clear)).cur.cursor.x = 1919 ∧
    (stepAxis .x 1 (gliding true 0 1919 .clear)).cur.cursor.x = 1920 ∧
    (stepAxis .x 1 (gliding true 0 1919 .clear)).focus.st.target = some 1 ∧
    (stepAxis .x 1 (gliding true 500 1919 (.ready toOne))).cur.cursor.x = 1920 ∧
    (stepAxis .x 1 (gliding true 500 1919 (.holding toOne))).cur.cursor.dwell = .holding toOne ∧
    (stepAxis .x 1 (gliding true 500 1919 .clear)).cur.cursor.dwell = .holding { toOne with due := 500000 } := by decide +kernel

theorem test_dwell_deadline_expiry :
    let s := gliding true 500 1919 (.holding toOne)
    s.live ∧ s.cur.cursor.dwell = .holding toOne ∧
      (after (.dwellDeadlineExpiry 500) s).cur.cursor.dwell = .ready toOne ∧
      (after (.dwellDeadlineExpiry 499) s).cur.cursor.dwell = .holding toOne :=
  ⟨⟨rfl, rfl⟩, by decide +kernel⟩

/-- A placement entry. -/
def place (enabled refresh x : Nat) : List Byte := [byte enabled, byte refresh] ++ le16n x ++ le16n 0 ++ le16n 320 ++ le16n 200

/-- LAYOUT_LOAD asked for with six entries. -/
def layout (es : List (List Byte)) (s : State) : State := put 0x0C00 es.flatten (ask 1 [] s)

/-- Six good entries, the last at the edge of the plane. -/
def places : List (List Byte) := [place 1 24 0, place 1 240 320, place 0 60 0, place 0 60 0, place 0 60 0, place 1 60 32448]

theorem test_layout_load_clauses :
    (layout places desk).commandReady 0 0x01 ∧
    answers .badParam [0, 0xFF] (after (.layoutLoad 9 0) (ask 1 [] desk)) = true ∧
    answers .badParam [5, 0xFF] (after (.layoutLoad 9 0) (layout (places.take 5 ++ [place 1 60 32449]) desk)) = true ∧
    answers .notFitted [1, 0xFF] (after (.layoutLoad 9 0) (layout places (small desk))) = true ∧
    answers .overlap [0, 1] (after (.layoutLoad 9 0) (layout (place 1 60 0 :: place 1 60 319 :: places.drop 2) desk)) = true :=
  ⟨commandReady_of_ready (by decide +kernel), by decide +kernel⟩

/-- A field of a placement entry, of one byte and of two. -/
def lay8 (s : State) (i : Fin 6) (j : Nat) : Nat := (s.xm.mem.read (0x0C00 + 10 * i.1 + j)).toNat
def lay16 (s : State) (i : Fin 6) (j : Nat) : Nat := lay8 s i j + 256 * lay8 s i (j + 1)

theorem test_layout_load_passes_clauses :
    let s := layout places desk
    let bad := layout (place 1 60 0 :: place 1 60 319 :: places.drop 2) desk
    lay16 (ask 1 [] desk) 0 6 < 320 ∧
    (∀ i : Fin 6, 320 ≤ lay16 s i 6 ∧ 200 ≤ lay16 s i 8 ∧ 24 ≤ lay8 s i 1 ∧ lay8 s i 1 ≤ 240 ∧ lay16 s i 2 + lay16 s i 6 ≤ 32768 ∧
      lay16 s i 4 + lay16 s i 8 ≤ 32768 ∧ lay8 s i 0 ≤ 1) ∧
    ((small desk).straps.screens ≤ 1 ∧ lay8 s 1 0 = 1 ∧ 0 < (small desk).straps.screens) ∧
    (lay16 bad 1 2 < lay16 bad 0 2 + lay16 bad 0 6 ∧ lay8 bad 0 0 = 1 ∧ lay8 bad 1 0 = 1) ∧
    (∀ i j : Fin 6, i < j → lay8 s i 0 = 1 → lay8 s j 0 = 1 → lay16 s i 2 + lay16 s i 6 ≤ lay16 s j 2) := by decide +kernel

theorem test_layout_load_applies :
    let t := after (.layoutLoad 9 0) (layout places desk)
    t.xm.mem.read 4 = 0 ∧ t.cur.geo[5].x = 32448 ∧ t.comp.screens[0].state = .running ∧ t.comp.screens[2].state = .disabled := by
  decide +kernel

/-- R26, R91: a RUNNING screen that becomes DISABLED has its staged plan applied; one that stays enabled keeps its own. -/
theorem test_layout_load_applies_staged_plans :
    let waits : ScreenRec → ScreenRec := fun r =>
      { r with staged := some { plan := Plan.fullOf (some 4), purpose := .host, home := true, loansAfter := [], cells := [] } }
    let s := modScreen 0 waits (modScreen 2 waits (layout places desk))
    let t := after (.layoutLoad 9 0) s
    s.commandReady 0 0x01 ∧ t.comp.screens[2].active = Plan.fullOf (some 4) ∧ t.comp.screens[2].state = .disabled ∧
    t.comp.screens[2].staged = none ∧ t.comp.screens[0].active = s.comp.screens[0].active ∧
    t.comp.screens[0].staged = s.comp.screens[0].staged ∧ t.comp.screens[3].active = s.comp.screens[3].active := by
  refine ⟨commandReady_of_ready (by decide +kernel), ?_⟩
  decide +kernel

theorem test_layout_load_places_cursor :
    let off (x : Nat) : List Byte := place 0 60 x
    let none' := List.replicate 6 (off 0)
    let big := (([1, 60] ++ le16n 100 ++ le16n 0 ++ le16n 1920 ++ le16n 1080 : List Byte))
    let at' (es : List (List Byte)) : Cursor := (after (.layoutLoad 9 0) (layout es (modCursor (fun c => { c with rx := 3 }) desk))).cur.cursor
    ((at' places).x = 160 ∧ (at' places).y = 100 ∧ (at' places).screen = some 0 ∧ (at' places).rx = 0) ∧
    ((at' (off 0 :: off 0 :: big :: none'.take 3)).x = 960 ∧ (at' (off 0 :: off 0 :: big :: none'.take 3)).y = 540 ∧
      (at' (off 0 :: off 0 :: big :: none'.take 3)).screen = some 2) ∧
    ((at' none').x = 960 ∧ (at' none').y = 540 ∧ (at' none').screen = none) := by decide +kernel

theorem test_desk_set_clauses :
    (ask 2 [0, 231, 3, 1, 0, 1, 255, 0] desk).commandReady 0 0x02 ∧
    (ask 2 [0, 231, 3, 1, 0, 1, 255, 0] desk).param16 0 1 = 999 ∧ (ask 2 [0, 231, 3, 1, 0, 1, 255, 0] desk).param 0 3 = 1 ∧
    (ask 2 [0, 232, 3, 1] desk).param16 0 1 = 1000 ∧ (ask 2 [0, 0, 0, 2] desk).param 0 3 = 2 :=
  ⟨commandReady_of_ready (by decide +kernel), by decide +kernel⟩

theorem test_desk_set :
    let t := after (.deskSet 9 0) (ask 2 [0, 231, 3, 1, 0, 1, 255, 0] desk)
    t.cur.settings = { gain := 1, dwell := 990, glide := true, focusDuty := 255, idleDuty := 255 } ∧
    answers .badParam [] (after (.deskSet 9 0) (ask 2 [0, 232, 3, 1] desk)) = true := by decide +kernel

/-! ## The focus controller -/

/-- FOCUS asked for with its byte. -/
def askFocusOf (b : Byte) (s : State) : State := ask 3 [b] s

theorem test_focus_clauses :
    (askFocusOf 8 desk).commandReady 0 0x03 ∧ ((8 : Byte) ≠ 0xFF ∧ (askFocusOf 8 desk).param 0 0 = 8) ∧
    ((askFocusOf 0xFF desk).param 0 0 = 0xFF ∧ (askFocusOf 0xFF desk).focus.st = .nobody) ∧
    ((askFocusOf 1 (small desk)).param 0 0 = 1 ∧ (small desk).straps.targets ≤ 1) ∧
    ((focusOn (.focused 7) desk).focus.st = .focused 7 ∧ 7 < desk.straps.targets) ∧
    (focusOn (.pending 7) desk).focus.st = .pending 7 ∧
    (∀ sc : ScreenId, ({ desk with cur := { desk.cur with geo := desk.cur.geo.map fun p => { p with enabled := false } } } : State).cur.geo[sc.1].enabled = false) ∧
    (desk.focus.st.target ≠ some 7 ∧ ∃ sc : ScreenId, desk.cur.geo[sc.1].enabled = true) ∧
    (focusOn (.pending 7) desk).focus.st ≠ .nobody :=
  ⟨commandReady_of_ready (by decide +kernel), by decide +kernel⟩

theorem test_focus_command :
    (after (.focus 9 0) (askFocusOf 7 desk)).focus.st = .pending 7 ∧ (after (.focus 9 0) (askFocusOf 7 desk)).focus.waiting = [0] ∧
    answers .badParam [] (after (.focus 9 0) (askFocusOf 8 desk)) = true ∧
    answers .ok [0xFF, 0, 0, 1, 0] (after (.focus 9 0) (askFocusOf 0xFF (focusOn (.focused 7) desk))) = true := by decide +kernel

theorem test_focus_change_clauses :
    let s := modFocus (fun f => { f with view := Vector.replicate 8 { link := .up, power := .on, headA := .present } }) desk
    (focusChange .hotkey none .superseded none desk).focus.st = .nobody ∧
    (focusChange .hotkey (some 1) .superseded none s).focus.st = .focused 1 ∧
    (focusChange .hotkey (some 1) .superseded (some 0) desk).focus.st = .pending 1 := by decide +kernel

/-- Every target eligible to the focus controller. -/
def allEligible (s : State) : State := modFocus (fun f => { f with view := Vector.replicate 8 { link := .up, power := .on, headA := .present } }) s

/-- R52, R53, R66: the requests taken and dropped; pin drops none. -/
theorem test_focus_request_clauses :
    let goes (r : FocusReq) (s : State) : FocusState := (takeFocusMsg (.request .hotkey r) s).focus.st
    let blank : State := { desk with cur := { desk.cur with geo := desk.cur.geo.map fun p => { p with enabled := false } } }
    let at' (k : TargetId) : State := modFocus (fun f => { f with previous := some 3 }) (focusOn (.pending k) desk)
    goes (.target 1) desk = .pending 1 ∧ goes (.target 1) (modFocus (fun f => { f with pin := true }) desk) = .pending 1 ∧
    goes (.target 1) (small desk) = .nobody ∧ goes (.target 1) blank = .nobody ∧
    takeFocusMsg (.request .panel (.target 2)) (at' 2) = at' 2 ∧
    goes .next desk = .pending 0 ∧ goes .next (at' 2) = .pending 3 ∧ goes .next (at' 7) = .pending 0 ∧
    goes .prev desk = .pending 7 ∧ goes .prev (at' 2) = .pending 1 ∧ goes .prev (at' 0) = .pending 7 ∧
    goes .toggle (at' 2) = .pending 3 ∧ takeFocusMsg (.request .hotkey .toggle) desk = desk := by decide +kernel

theorem test_plan_in_load_clauses :
    let s := modFocus (fun f => { f with bringOut := some 2 }) (focusOn (.pending 7) desk)
    (takeFocusMsg (.planInLoad 2) s).focus.bringOut = none ∧ (takeFocusMsg (.planInLoad 2) s).focus.st = .pending 7 ∧
    (takeFocusMsg (.planInLoad 2) s).focus.cause = some .lost ∧ takeFocusMsg (.planInLoad 1) s = s := by decide +kernel

/-- R45, R46: the placing by head A, by head B and not at all, and a POINT asked for only while FOCUSED. -/
theorem test_placing_clauses :
    let showsB := modScreen 2 (fun r => { r with active := Plan.fullOf (some 15) }) desk
    desk.cursorOn 0 = true ∧ placeCursor 0 desk = (true, desk) ∧
    (desk.cursorOn 1 = false ∧ desk.cur.geo[1].enabled = true ∧ desk.tileSource 1 0 = some (headAOf 1) ∧ desk.tileRect 1 0 = some ⟨1920, 0, 1920, 1080⟩) ∧
    ((placeCursor 1 desk).1 = true ∧ (placeCursor 1 desk).2.cur.cursor.x = 2880 ∧ (placeCursor 1 desk).2.cur.cursor.screen = some 1) ∧
    (showsB.tileSource 2 0 = some (headBOf 7) ∧ (placeCursor 7 showsB).2.cur.cursor.screen = some 2 ∧ showsB.findHead (headAOf 7) = none) ∧
    placeCursor 7 desk = (false, desk) ∧ requestPoint desk = desk ∧
    ((requestPoint (lostOn .on (.focused 7) desk)).tlines[7].queue.map Entry.report) = [.point 0 16384 16384 0] := by decide +kernel

theorem test_eligibility_clauses :
    let s := allEligible (focusOn (.focused 1) desk)
    let off (e : Eligibility) : Eligibility := { e with power := .off }
    let on (e : Eligibility) : Eligibility := { e with power := .on }
    let lost := takeEligibility 1 off s
    s.focus.eligible 1 = true ∧ lost.focus.st = .pending 1 ∧ lost.focus.eligible 1 = false ∧ lost.focus.bringOut = none ∧ lost.shown 1 = true ∧
    (takeEligibility 1 on lost).focus.st = .focused 1 ∧
    (takeEligibility 1 on (modFocus (fun f => { f with bringOut := some 0 }) lost)).focus.st = .pending 1 ∧
    (takeEligibility 2 off s).focus.st = .focused 1 := by decide +kernel

theorem test_wake_answer_clauses :
    let s (p : Option TargetId) := modFocus (fun f => { f with wakeOut := true, previous := p, waiting := [3] })
      (allEligible (focusOn (.pending 1) brim))
    (s none).focus.st.target = some 1 ∧ (s none).focus.wakeOut = true ∧ desk.focus.wakeOut = false ∧ (s (some 7)).shown 7 = false ∧
    (takeWakeAnswer 1 .ok (s none)).focus.st = .focused 1 ∧
    (takeWakeAnswer 1 .ok (modFocus (fun f => { f with bringOut := some 0 }) (s none))).focus.st = .pending 1 ∧
    (takeWakeAnswer 1 .wakeFailed (s (some 2))).focus.st = .focused 2 ∧
    (takeWakeAnswer 1 .wakeFailed (s (some 2))).xm.mem.read 0xC4 = Result.notReachable.code ∧
    (takeWakeAnswer 1 .wakeFailed (s none)).focus.st = .pending 1 ∧
    (takeWakeAnswer 1 .wakeFailed (s (some 7))).xm.mem.read 0xC4 = Result.wakeFailed.code := by decide +kernel

theorem test_plan_report_clauses :
    let s (f : FocusState) := allEligible (focusOn f desk)
    let bringing (f : FocusState) := modFocus (fun r => { r with bringOut := some 0 }) (s f)
    desk.focus.st = .nobody ∧ (s (.focused 7)).shown 7 = false ∧ (s (.focused 0)).cursorOn 0 = true ∧ (s (.focused 1)).cursorOn 1 = false ∧
    (takePlanReport (fun _ => true) (s (.focused 7))).focus.source = some .replan ∧
    takePlanReport (fun x => decide (x = 1)) (bringing (.focused 7)) = bringing (.focused 7) ∧
    takePlanReport (fun _ => true) (s (.focused 0)) = s (.focused 0) ∧
    (takePlanReport (fun _ => true) (s (.focused 1))).cur.cursor.screen = some 1 ∧
    (takePlanReport (fun _ => true) (bringing (.pending 1))).focus.st = .focused 1 ∧
    (takePlanReport (fun x => decide (x = 1)) (bringing (.pending 1))).focus.st = .pending 1 := by decide +kernel

theorem test_pin_clauses :
    (ask 4 [2] desk).commandReady 0 0x04 ∧ ((ask 4 [2] desk).param 0 0).toNat ≤ 2 ∧ 2 < ((ask 4 [3] desk).param 0 0).toNat :=
  ⟨commandReady_of_ready (by decide +kernel), by decide +kernel⟩

theorem test_pin :
    (after (.pin 9 0) (ask 4 [2] desk)).focus.pin = true ∧ answers .ok [1] (after (.pin 9 0) (ask 4 [2] desk)) = true ∧
    answers .badParam [] (after (.pin 9 0) (ask 4 [3] desk)) = true := by decide +kernel

/-! ## The hotkey matcher -/

/-- HOTKEYS_LOAD asked for with a last entry. -/
def hotkeys (e : List Byte) (s : State) : State := put 0x0FF0 e (ask 5 [] s)

theorem test_hotkeys_load_clauses :
    (hotkeys [1, 1, 0, 4, 1, 7] desk).commandReady 0 0x05 ∧
    (∀ i : Fin 32, hotEntryInRange ((hotkeys [1, 1, 0, 4, 1, 7] desk).xm.mem.block (0x0E00 + 16 * i.1) 16) = true ∧
      hotEntryFitted desk ((hotkeys [1, 1, 0, 4, 1, 7] desk).xm.mem.block (0x0E00 + 16 * i.1) 16) = true) ∧
    hotEntryInRange ((hotkeys [1, 1, 0, 4, 1, 8] desk).xm.mem.block 0x0FF0 16) = false ∧
    hotEntryFitted (small desk) ((hotkeys [1, 1, 0, 4, 1, 7] desk).xm.mem.block 0x0FF0 16) = false ∧
    answers .badParam [31] (after (.hotkeysLoad 9 0) (hotkeys [1, 1, 0, 4, 1, 8] desk)) = true ∧
    answers .notFitted [31] (after (.hotkeysLoad 9 0) (hotkeys [1, 1, 0, 4, 1, 7] (small desk))) = true ∧
    answers .ok [0, 1] (after (.hotkeysLoad 9 0) (hotkeys [1, 1, 0, 4, 1, 7] desk)) = true ∧
    (after (.hotkeysLoad 9 0) (hotkeys [1, 1, 0, 4, 1, 7] desk)).hot.table[31].key = 4 :=
  ⟨commandReady_of_ready (by decide +kernel), by decide +kernel⟩

/-- A byte of a table entry, as a number. -/
def entryByte (base size : Nat) (s : State) (i j : Nat) : Nat := (s.xm.mem.read (base + size * i + j)).toNat

theorem test_hotkeys_load_passes_clauses :
    let n := entryByte 0x0E00 16 (hotkeys [1, 1, 0, 4, 1, 8] desk)
    let m := entryByte 0x0E00 16 (hotkeys [1, 1, 0, 4, 1, 7] desk)
    let share := entryByte 0x0E00 16 (hotkeys [1, 0, 0, 4, 5, 7, 5, 2, 4, 1] desk)
    (∀ i < 31, n i 0 = 0) ∧ (n 31 0 = 1 ∧ n 31 4 = 1 ∧ 8 ≤ n 31 5) ∧ (∀ i < 31, m i 0 = 0) ∧
    (m 31 0 = 1 ∧ m 31 1 < 2 ∧ m 31 3 ≠ 0 ∧ m 31 4 = 1 ∧ m 31 5 < 8 ∧ (small desk).straps.targets ≤ m 31 5 ∧ m 31 5 < desk.straps.targets) ∧
    (share 31 4 = 5 ∧ share 31 5 = 7 ∧ share 31 6 = 5 ∧ share 31 7 < [1, 2, 2, 4, 3].getD (share 31 8) 0 ∧ share 31 9 = 1 ∧
      desk.setups[7].headB = false) ∧
    answers .notFitted [31] (after (.hotkeysLoad 9 0) (hotkeys [1, 0, 0, 4, 5, 7, 5, 2, 4, 1] desk)) = true ∧
    answers .badParam [31] (after (.hotkeysLoad 9 0) (hotkeys [1, 0, 0, 4, 5, 7, 5, 3, 4, 1] desk)) = true := by decide +kernel

theorem test_leader_set_clauses :
    (ask 6 [4, 0, 200, 0] desk).commandReady 0 0x06 ∧ (ask 6 [4, 0, 200, 0] desk).param16 0 2 = 200 ∧
    (ask 6 [4, 0, 199, 0] desk).param16 0 2 - (ask 6 [4, 0, 199, 0] desk).param16 0 2 % 10 < 200 ∧
    (ask 6 [4, 0, 0xD9, 7] desk).param16 0 2 = 2009 ∧ (ask 6 [4, 0, 0xDA, 7] desk).param16 0 2 = 2010 :=
  ⟨commandReady_of_ready (by decide +kernel), by decide +kernel⟩

theorem test_leader_set :
    answers .ok [4, 0xD0, 7] (after (.leaderSet 9 0) (ask 6 [4, 0, 0xD9, 7] desk)) = true ∧
    (after (.leaderSet 9 0) (ask 6 [4, 0, 0xD9, 7] desk)).hot.leaderWindow = 2000 ∧
    answers .badParam [] (after (.leaderSet 9 0) (ask 6 [4, 0, 0xDA, 7] desk)) = true := by decide +kernel

theorem test_leader_deadline_expiry :
    let s := modHot (fun h => { h with state := .armed 500 }) desk
    (after (.leaderDeadlineExpiry 500) s).hot.state = .idle ∧ (after (.leaderDeadlineExpiry 499) s).hot.state = .armed 500 := by
  decide +kernel

/-! ## The screen composer -/

/-- A plan of the model's tests. -/
def planOf (h : HeadId) : Plan := Plan.fullOf (some h)

/-- A staged host plan with the cell that staged it. -/
def staged (p : Purpose) : Staged := { plan := planOf 4, purpose := p, home := true, loansAfter := [], cells := [3] }

/-- The desk with screen 0 timed from 0 and a staged plan as given. -/
def timed (g : Option Staged) : State := modScreen 0 (fun r => { r with timingStart := some 0, boundary := 3, staged := g }) desk

theorem test_frame_boundary_clauses :
    (timed none).live ∧ (timed none).comp.screens[0].state = .running ∧ (timed none).comp.screens[0].timingStart = some 0 ∧
    0 + (timed none).comp.screens[0].boundary * 1000000 / (timed none).comp.screens[0].refresh = 50000 ∧
    (timed none).comp.screens[0].staged = none ∧ (timed (some (staged .host))).comp.screens[0].staged = some (staged .host) :=
  ⟨⟨rfl, rfl⟩, by decide +kernel⟩

theorem test_frame_boundary :
    (after (.frameBoundary 50000 0) (timed (some (staged .host)))).comp.screens[0].active = planOf 4 ∧
    (after (.frameBoundary 50000 0) (timed (some (staged .host)))).comp.screens[0].home = planOf 4 ∧
    (after (.frameBoundary 50000 0) (timed (some (staged .host)))).comp.screens[0].boundary = 4 ∧
    (after (.frameBoundary 49999 0) (timed (some (staged .host)))).comp.screens[0].boundary = 3 := by decide +kernel

/-- R54 to R57, R105: what a focus change does beside the record. -/
theorem test_focus_change_parts_clauses :
    let lent : ScreenRec → ScreenRec := fun r =>
      { r with loans := [{ tile := 0, kind := .bring, lender := 14 }], ret := some (Plan.fullOf (some 2)) }
    let from7 := modFocus (fun f => { f with waiting := [3] }) (modScreen 4 lent { lostOn .on (.focused 7) desk with xm := brim.xm })
    let offered := modScreen 5 (fun r => { r with staged := some { staged .host with plan := Plan.fullOf (some 14) } })
      (modScreen 3 (fun r => { r with staged := some { staged .host with plan := Plan.fullOf (some 15) } }) desk)
    let u := focusChange .hotkey (some 1) .superseded none from7
    let off (p : Power) (s : State) : State := modFocus (fun f => { f with view := upd f.view 7 fun e => { e with power := p } }) s
    u.tlines[7].queue = [{ report := .keys Keys.empty, origin := .release }, { report := .point 0 16384 16384 0, origin := .release }] ∧
    u.xm.mem.read 0xC4 = Result.superseded.code ∧ (u.comp.screens[4].staged.map Staged.purpose) = some .giveBack ∧
    (u.cur.cursor.screen = some 1 ∧ u.cur.cursor.x = 2880) ∧ (focusChange .glide (some 1) .superseded none from7).cur.cursor.screen = some 0 ∧
    (desk.shown 7 = false ∧ (desk.shown 1 = true ∧ bring 1 desk = desk)) ∧ (bring 7 offered).focus.bringOut = some 3 ∧
    (bring 7 desk).focus.bringOut = some 0 ∧ (bring 7 desk).comp.screens[0].staged.map Staged.plan = some (Plan.fullOf (some 14)) ∧
    bring 7 (modCursor (fun c => { c with screen := none }) desk) = modCursor (fun c => { c with screen := none }) desk ∧
    wakeForFocus 7 desk = desk ∧ (wakeForFocus 7 (off .asleep desk)).focus.wakeOut = true ∧
    (wakeForFocus 7 (off .asleep desk)).focus.inbox = [.wakeAnswer 7 .noMethod] := by decide +kernel

theorem test_presentation_clauses :
    let s := gliding true 0 0 .clear
    desk.comp.xpoint[0] = desk.comp.presented 0 ∧ (desk.comp.present 0).strobes = (ids 4).map (fun i => { addr := ⟨i.1 + 1, by omega⟩, data := 0xFF }) ∧
    (presentScreen 0 (presentScreen 0 desk)).comp.strobes.length = 4 ∧ (presentScreen 1 s).comp.xpoint[6] = 2 ∧
    (presentScreen 1 s).comp.strobes.length = 4 ∧ (small s).comp.screens[0].state ≠ .unfitted ∧ s.comp.screens[0].active.src[1] = none ∧
    s.comp.screens[0].active.src[0] = some 0 ∧
    (State.powerOn { screens := 1, targets := 1, glide := false } 0).comp.screens[1].state = .unfitted := by decide +kernel

theorem test_applied_cells_clauses :
    let s := modScreen 0 (fun r => { r with staged := some (staged .host) }) brim
    s.comp.screens[0].staged = some (staged .host) ∧ s.xm.entry 3 ≠ none ∧ (applyStaged 0 false s).xm.mem.read 0xC2 = 3 ∧
    (applyStaged 0 false s).xm.mem.read 0xC4 = Result.ok.code ∧ (applyStaged 0 true s).focus.inbox = [.planInLoad 0] := by decide +kernel

/-- Screen 0 disabled. -/
def dark (s : State) : State := modScreen 0 (fun r => { r with state := .disabled }) s

theorem test_plan_set_clauses :
    (ask 8 [5, 3, 1, 0, 14, 0xFF, 2] desk).commandReady 0 0x08 ∧
    answers .badParam [6, 0xFF] (after (.planSet 9 0) (ask 8 [6, 0, 0, 0] desk)) = true ∧
    answers .badParam [0, 0xFF] (after (.planSet 9 0) (ask 8 [0, 5, 0, 0] desk)) = true ∧
    answers .badParam [0, 1] (after (.planSet 9 0) (ask 8 [0, 1, 0, 0, 16] desk)) = true ∧
    answers .notFitted [1, 0xFF] (after (.planSet 9 0) (ask 8 [1, 0, 0, 0] (small desk))) = true ∧
    answers .notFitted [0, 1] (after (.planSet 9 0) (ask 8 [0, 1, 0, 0, 15] desk)) = true ∧
    desk.comp.screens[5].state = .running ∧ (dark desk).comp.screens[0].state = .disabled ∧ (dark desk).comp.screens[0].staged = none :=
  ⟨commandReady_of_ready (by decide +kernel), by decide +kernel⟩

theorem test_plan_set :
    ((after (.planSet 9 0) (ask 8 [5, 3, 1, 0, 14, 0xFF, 2] desk)).comp.screens[5].staged.map fun g => (g.cells, g.home)) = some ([0], true) ∧
    answers .ok [0, 0, 2, 0xFF, 0xFF, 0xFF, 0] (after (.planSet 9 0) (ask 8 [0, 0, 0, 2] (dark desk))) = true := by decide +kernel

theorem test_share_clauses :
    (ask 9 [0, 1, 1, 2, 0, 1] desk).commandReady 0 0x09 ∧
    answers .badParam [6] (after (.share 9 0) (ask 9 [6, 1, 1, 2, 0, 1] desk)) = true ∧
    answers .badParam [0] (after (.share 9 0) (ask 9 [0, 1, 2, 2, 0, 1] desk)) = true ∧
    answers .notFitted [0] (after (.share 9 0) (ask 9 [0, 1, 1, 2, 1, 1] desk)) = true ∧
    answers .notReachable [0] (after (.share 9 0) (ask 9 [0, 1, 1, 2, 0, 1] (dark desk))) = true ∧
    desk.watched 4 = true ∧ desk.comp.screens[0].state = .running :=
  ⟨commandReady_of_ready (by decide +kernel), by decide +kernel⟩

theorem test_share_lends_a_tile :
    (after (.share 9 0) (ask 9 [0, 1, 1, 2, 0, 1] desk)).comp.screens[0].staged =
      some { plan := { layout := .pair, src := #v[some 0, some 4, none, none] }, purpose := .loan, home := false,
             loansAfter := [{ tile := 1, kind := .share, lender := 4 }], cells := [0] } := by decide +kernel

theorem test_restore_clauses :
    (ask 10 [0] desk).commandReady 0 0x0A ∧ (timed (some (staged .giveBack))).comp.screens[0].staged = some (staged .giveBack) ∧
    answers .badParam [6] (after (.restore 9 0) (ask 10 [6] desk)) = true ∧
    answers .notFitted [1] (after (.restore 9 0) (ask 10 [1] (small desk))) = true ∧
    answers .ok [0, 0, 0, 0xFF, 0xFF, 0xFF, 0] (after (.restore 9 0) (ask 10 [0] (dark desk))) = true :=
  ⟨commandReady_of_ready (by decide +kernel), by decide +kernel⟩

theorem test_restore :
    ((after (.restore 9 0) (ask 10 [0] desk)).comp.screens[0].staged.map Staged.purpose) = some .giveBack ∧
    ((after (.restore 9 0) (ask 10 [0] (timed (some (staged .giveBack))))).comp.screens[0].staged.map Staged.cells) = some [3, 0] := by
  decide +kernel

/-! ## The head signal monitor -/

/-- Head 2 in a state. -/
def headed (p : Presence) (period good : Nat) : State :=
  modHead 2 (fun _ => { presence := p, lastPeriod := period, good := good, rate := 0, lastEdge := some 100000, absenceDue := some 200000 }) desk

theorem test_edge_clauses :
    desk.live ∧ desk.watched 2 = true ∧ desk.watched 3 = false ∧ desk.heads[2].presence = .absent ∧ desk.runState ≠ .starting ∧
    (headed .acquiring 20000 7).heads[2].lastEdge = some 100000 ∧ (120100 : Nat) ≤ 100000 + 100000 ∧
    (headed .acquiring 20000 7).heads[2].absenceDue = some 200000 :=
  ⟨⟨rfl, rfl⟩, by decide +kernel⟩

theorem test_sync_edge :
    let after' (p : Presence) (good t : Nat) : Presence × Nat × Nat :=
      let r := (after (.syncEdge t 2) (headed p 20000 good)).heads[2]
      (r.presence, r.good, r.rate)
    (after (.syncEdge 5 2) desk).heads[2].presence = .acquiring ∧
    after' .acquiring 7 120100 = (.present, 8, 4975) ∧ after' .acquiring 7 120101 = (.acquiring, 1, 0) ∧
    after' .acquiring 6 119900 = (.acquiring, 7, 0) ∧ after' .acquiring 7 109999 = (.acquiring, 0, 0) ∧
    after' .present 8 120400 = (.present, 8, 4901) ∧ after' .present 8 120401 = (.unstable, 0, 0) ∧
    after' .present 8 200001 = (.acquiring, 0, 0) := by decide +kernel

theorem test_head_report_clauses :
    let r : HeadRec := desk.heads[2]
    let late := headed .present 20000 8
    (setHead 2 { r with presence := .acquiring } desk).focus.inbox = [.headA 1 .acquiring] ∧
    (setHead 3 { r with presence := .acquiring } desk).focus.inbox = [] ∧ (setHead 3 { r with presence := .acquiring } desk).xm.mem.read 0x0402 = 1 ∧
    (setHead 2 { r with lastPeriod := 9 } desk).xm.revision[2] = 1 ∧ (setHead 2 { r with lastPeriod := 9 } desk).xm.mem.read 0x0402 = 0 ∧
    (setHead 2 { r with lastEdge := some 9 } desk).xm = desk.xm ∧
    (late.watched 2 = true ∧ late.heads[2].lastEdge = some 100000 ∧ (after (.syncEdge 200001 2) late).heads[2].presence = .acquiring ∧
      (after (.syncEdge 200001 2) late).xm.revision[2] = 2) := by decide +kernel

theorem test_absence_deadline_expiry :
    (after (.absenceDeadlineExpiry 200000 2) (headed .present 20000 8)).heads[2] = HeadRec.initial ∧
    (after (.absenceDeadlineExpiry 199999 2) (headed .present 20000 8)).heads[2].presence = .present := by decide +kernel

/-! ## The display identity unit -/

/-- Screen 1 with its presence and its input, and a debounce to 50,000. -/
def bouncing (presence input : Bool) : State :=
  modIdent 1 (fun i => { i with presence := presence, input := input, debounceDue := some 50000, waiting := [3] }) desk

theorem test_presence_clauses :
    desk.live ∧ desk.idents[1].input = false ∧ desk.fittedScreen 1 = true ∧ (small desk).fittedScreen 1 = false ∧
    (bouncing false true).idents[1].presence ≠ (bouncing false true).idents[1].input ∧
    (bouncing true false).idents[1].presence ≠ (bouncing true false).idents[1].input ∧ State.reset.runState = .starting :=
  ⟨⟨rfl, rfl⟩, by decide +kernel⟩

theorem test_screen_presence_input_change :
    (after (.screenPresenceInputChange 7 1 true) desk).idents[1].debounceDue = some 50007 ∧
    (after (.screenPresenceInputChange 7 1 true) (small desk)).idents[1].debounceDue = none := by decide +kernel

theorem test_presence_debounce_expiry :
    (after (.presenceDebounceExpiry 50000 1) (bouncing false true)).idents[1].state = .reading ∧
    (after (.presenceDebounceExpiry 50000 1) (bouncing true false)).idents[1].state = .noScreen ∧
    (after (.presenceDebounceExpiry 49999 1) (bouncing false true)).idents[1].state = .noScreen := by decide +kernel

/-- Screen 1 being read at an attempt. -/
def reading (attempts : Nat) (phase : ReadPhase) : State :=
  modIdent 1 (fun i => { i with state := .reading, presence := true, attempts := attempts, phase := phase, waiting := [0] }) (ask 12 [1] desk)

/-- A block that arrives slowly but whole and is intact, one whose sum is 1, and one whose clock is held too long at its byte 2. -/
def goodBlock : BlockAnswer :=
  { address := { ack := true, low := 10000 }, offset := { ack := true, low := 0 },
    bytes := ((Vector.replicate 128 (0, 10000)).set 0 (1, 0)).set 1 (255, 0) }
def badBlock : BlockAnswer := { goodBlock with bytes := goodBlock.bytes.set 127 (1, 0) }
def slowBlock : BlockAnswer := { goodBlock with bytes := goodBlock.bytes.set 2 (7, 10001) }

theorem test_read_attempt_clauses :
    (reading 2 .attempting).live ∧
    (goodBlock.address.ack = true ∧ goodBlock.address.low ≤ 10000 ∧ goodBlock.offset.ack = true ∧ goodBlock.offset.low ≤ 10000) ∧
    (∀ i : Fin 128, goodBlock.bytes[i.1].2 ≤ 10000 ∧ badBlock.bytes[i.1].2 ≤ 10000) ∧
    byteSum (goodBlock.bytes.toList.map Prod.fst) = 0 ∧ byteSum (badBlock.bytes.toList.map Prod.fst) ≠ 0 ∧
    (∀ i : Fin 128, (i.1 < 2 → slowBlock.bytes[i.1].2 ≤ 10000) ∧ (i.1 = 2 → 10000 < slowBlock.bytes[i.1].2)) ∧
    (reading 3 .attempting).idents[1].phase = .attempting ∧ (reading 3 .attempting).idents[1].state = .reading ∧
    (reading 2 (.retryAt 500)).idents[1].phase = .retryAt 500 ∧ desk.idents[1].phase ≠ .attempting ∧ desk.idents[1].held = false :=
  ⟨⟨rfl, rfl⟩, by decide +kernel⟩

theorem test_read_attempt_end :
    let ends (attempts : Nat) (b0 b1 : BlockAnswer) : ScreenIdent :=
      (after (.readAttemptEnd 9 1 { block0 := b0, block1 := b1 }) (reading attempts .attempting)).idents[1]
    (ends 2 { goodBlock with address := { ack := false, low := 0 } } goodBlock).phase = .retryAt 100009 ∧
    (ends 2 { goodBlock with offset := { ack := true, low := 10001 } } goodBlock).buffer[0] = 0 ∧
    (ends 3 goodBlock badBlock).state = .invalid ∧ (ends 3 goodBlock goodBlock).state = .valid ∧
    (ends 3 goodBlock goodBlock).held = true ∧ (ends 3 goodBlock goodBlock).image[129] = 255 := by decide +kernel

/-- R123: what arrived before a fault of the bus is in the read buffer. -/
theorem test_bus_fault_keeps_what_arrived :
    let r := (after (.readAttemptEnd 9 1 { block0 := goodBlock, block1 := slowBlock }) (reading 2 .attempting)).idents[1]
    r.phase = .retryAt 100009 ∧ r.held = false ∧ r.buffer[0] = 1 ∧ r.buffer[1] = 255 ∧ r.buffer[128] = 1 ∧ r.buffer[129] = 255 ∧
    r.buffer[130] = 0 := by decide +kernel

theorem test_read_retry_expiry :
    (after (.readRetryExpiry 500 1) (reading 2 (.retryAt 500))).idents[1].attempts = 3 ∧
    (after (.readRetryExpiry 499 1) (reading 2 (.retryAt 500))).idents[1].attempts = 2 := by decide +kernel

theorem test_ident_reread_clauses :
    (ask 12 [1] desk).commandReady 0 0x0C ∧ (reading 1 .attempting).commandReady 0 0x0C ∧
    answers .badParam [] (after (.identReread 9 0) (ask 12 [6] desk)) = true ∧
    answers .notFitted [] (after (.identReread 9 0) (ask 12 [1] (small desk))) = true ∧
    answers .notReachable [] (after (.identReread 9 0) (ask 12 [1] desk)) = true :=
  ⟨commandReady_of_ready (by decide +kernel), commandReady_of_ready (by decide +kernel), by decide +kernel⟩

theorem test_ident_reread :
    let s := ask 12 [1] (modIdent 1 (fun i => { i with state := .invalid, presence := true }) desk)
    (after (.identReread 9 0) s).idents[1].state = .reading ∧ (after (.identReread 9 0) s).idents[1].waiting = [0] := by decide +kernel

/-- Head 2 serving, as changed. -/
def serving (f : Served → Served) (s : State) : State :=
  modServed 2 (fun v => f { v with state := .serving, source := .slot, answering := true, hotplug := true }) s

/-- A replacement that asks for the slot with an announce. -/
def slotRep : Replacement := { source := .slot, announce := true, follow := false, cell := none }

/-- R124, R130, R134: a cell that waits for a read is completed with it, and a served image is reported when a mirrored field of it changes. -/
theorem test_waiting_read_and_served_report_clauses :
    let s : State := { reading 2 .attempting with xm := { (reading 2 .attempting).xm with inWork := [{ cell := 0, tag := 7, kind := 12 }] } }
    let serves := serving id (take 0 (ask 13 [] desk))
    s.xm.entry 0 ≠ none ∧ answers .ok [1, 2, 2, 1] (after (.readAttemptEnd 9 1 { block0 := goodBlock, block1 := goodBlock }) s) = true ∧
    answers .superseded [1, 0, 1, 2, 0xFF, 3, 4] (completeServe 2 (some 0) .superseded [3, 4] serves) = true ∧
    completeServe 2 none .ok [] serves = serves ∧ sumsFor .slot (Vector.replicate 256 1) = [128, 128] ∧ sumsFor .nothing (Vector.replicate 256 1) = [0, 0] ∧
    (changeServed 2 (fun v => { v with hotplug := !v.hotplug }) desk).xm.revision[2] = 1 ∧
    (changeServed 2 (fun v => { v with offset := 9 }) desk).xm = desk.xm := by decide +kernel

theorem test_ident_serve_clauses :
    (ask 13 [1, 0, 2, 0, 1, 0] desk).commandReady 0 0x0D ∧ desk.watched 2 = true ∧ desk.watched 3 = false ∧
    answers .badParam [] (after (.identServe 9 0) (ask 13 [8, 0, 0, 0, 0, 0] desk)) = true ∧
    answers .badParam [] (after (.identServe 9 0) (ask 13 [1, 0, 1, 6, 0, 0] desk)) = true ∧
    answers .notFitted [] (after (.identServe 9 0) (ask 13 [1, 1, 2, 0, 0, 0] desk)) = true ∧
    answers .notFitted [] (after (.identServe 9 0) (ask 13 [0, 0, 1, 1, 0, 0] (small desk))) = true ∧
    answers .identBad [] (after (.identServe 9 0) (ask 13 [1, 0, 1, 1, 0, 0] desk)) = true ∧
    answers .identBad [] (after (.identServe 9 0) (put 0x2800 [1] (ask 13 [1, 0, 2, 0, 1, 0] desk))) = true ∧
    (serving (fun v => { v with pending := some slotRep }) desk).served[2].pending = some slotRep ∧
    (serving (fun v => { v with inTransaction := true }) desk).served[2].pending = none ∧
    desk.served[2].inTransaction = false ∧ desk.served[2].state ≠ .replacing ∧
    (modIdent 1 (fun i => { i with held := true }) desk).idents[1].held = true :=
  ⟨commandReady_of_ready (by decide +kernel), by decide +kernel⟩

theorem test_ident_serve :
    ((after (.identServe 9 0) (ask 13 [1, 0, 2, 0, 1, 0] desk)).served[2].copy.map Copy.due) = some 1009 ∧
    ((after (.identServe 9 0) (ask 13 [1, 0, 2, 0, 1, 0] (serving (fun v => { v with inTransaction := true }) desk))).served[2].pending.map
      Replacement.cell) = some (some 0) ∧
    answers .ok [1, 0, 0, 0, 0xFF, 0, 0] (after (.identServe 9 0) (ask 13 [1, 0, 0, 0, 0, 0] (serving id desk))) = true := by decide +kernel

/-- Head 2 with a copy that ends at 1000, found in a state. -/
def copying (before : ServedState) (f : Served → Served) : State :=
  serving (fun v => f { v with
    state := .replacing, copy := some { rep := slotRep, image := Vector.replicate 256 5, due := 1000, before := before } }) desk

theorem test_copy_and_announce_clauses :
    (copying .serving id).live ∧ ((copying .serving id).served[2].copy.map Copy.due) = some 1000 ∧
    (copying .serving id).served[2].pending = none ∧ (copying .serving id).served[2].inTransaction = false ∧
    (copying .serving fun v => { v with pending := some slotRep }).served[2].pending = some slotRep ∧
    (serving (fun v => { v with state := .announcing, announceUntil := some 700 }) desk).served[2].announceUntil = some 700 :=
  ⟨⟨rfl, rfl⟩, by decide +kernel⟩

theorem test_copy_end :
    (after (.copyEnd 1000 2) (copying .serving id)).served[2].announceUntil = some 201000 ∧
    (after (.copyEnd 1000 2) (copying .silent id)).served[2].state = .serving ∧
    (after (.copyEnd 999 2) (copying .serving id)).served[2].state = .replacing ∧
    (after (.copyEnd 1000 2) (copying .silent id)).served[2].store[255] = 5 := by decide +kernel

theorem test_announce_expiry :
    let s := serving (fun v => { v with state := .announcing, hotplug := false, announceUntil := some 700 }) desk
    (after (.announceExpiry 700 2) s).served[2].hotplug = true ∧ (after (.announceExpiry 699 2) s).served[2].hotplug = false := by
  decide +kernel

/-- Two stretched writes: to head 2's slot, and to the byte after it. -/
def stretched (s : State) : State :=
  { s with xm := { s.xm with waiting := [{ addr := 0x1400, value := 0x0101 }, { addr := 0x0700, value := 3 }] } }

theorem test_stretched_writes_come_before_a_slot_hold :
    let ends := after (.copyEnd 1000 2) (stretched (copying .silent fun v => { v with pending := some slotRep }))
    ends.xm.waiting = [] ∧ ends.xm.mem.word 0x0E00 = 3 ∧ ends.xm.mem.word 0x2800 = 0x0101 ∧
    (ends.served[2].copy.map fun c => (c.image[0], c.image[1], c.image[2])) = some (1, 1, 0) ∧
    (stretched (copying .silent id)).xm.waiting ≠ [] ∧ releaseReady (stretched (copying .silent id)) = stretched (copying .silent id) ∧
    answers .identBad [] (after (.identServe 9 0) (stretched (ask 13 [1, 0, 2, 0, 1, 0] desk))) = true ∧
    (after (.identServe 9 0) (stretched (ask 13 [1, 0, 2, 0, 1, 0] desk))).xm.waiting = [] := by decide +kernel

/-- R127 to R129: a pending replacement of each source begins at the end of a copy, and supersedes the cell that was completing. -/
theorem test_pending_replacement_of_each_source_begins :
    let pending (src : ServedSource) (v : Served) : Served := { v with pending := some { slotRep with source := src } }
    let t (src : ServedSource) := after (.copyEnd 1000 2)
      (modIdent 1 (fun i => { i with image := Vector.replicate 256 9 }) (copying .silent (pending src)))
    let begun (src : ServedSource) := beginReplacement 2 { slotRep with source := src }
      (serving (fun v => { v with completing := some 3 }) { desk with xm := brim.xm })
    ((t .nothing).served[2].state = .silent ∧ (t .nothing).served[2].pending = none ∧ (t .nothing).served[2].answering = false) ∧
    ((t (.screen 1)).served[2].state = .replacing ∧ (t (.screen 1)).served[2].pending = none ∧
      ((t (.screen 1)).served[2].copy.map fun c => (c.image[0], c.due, c.before)) = some (9, 2000, .serving)) ∧
    ((t .slot).served[2].copy.map Copy.before) = some .serving ∧
    (∀ src ∈ ([.nothing, .screen 1, .slot] : List ServedSource),
      (begun src).xm.mem.read 0xC4 = Result.superseded.code ∧ (begun src).served[2].completing = none) := by decide +kernel

theorem test_serve_nothing_takes_the_follow_flag :
    let t := after (.identServe 9 0) (ask 13 [1, 0, 0, 0, 0, 1] (serving id desk))
    t.served[2].state = .silent ∧ t.served[2].follow = true ∧ t.xm.mem.read (0x0460 + 64 * 1 + 23) = 1 ∧
    (desk.served[2].state = .silent ∧ desk.served[2].source = .nothing ∧ desk.served[2].follow = false ∧ desk.served[2].hotplug = false) := by
  decide +kernel

/-- Head 2 in a transaction. -/
def talking (f : Served → Served) : State := serving (fun v => f { v with inTransaction := true, addressed := true, lastActivity := 100 }) desk

theorem test_head_bus_clauses :
    (talking id).live ∧ (serving id desk).served[2].answering = true ∧ (serving id desk).served[2].inTransaction = false ∧
    (talking id).served[2].addressed = true ∧ (talking id).served[2].offsetTaken = false ∧ (talking id).served[2].state ≠ .replacing ∧
    (talking fun v => { v with addressed := false }).served[2].addressed = false ∧ (talking id).served[2].pending = none ∧
    (talking fun v => { v with pending := some slotRep }).served[2].pending = some slotRep ∧
    (talking fun v => { v with state := .replacing }).served[2].state = .replacing ∧
    (talking id).served[2].lastActivity + 25000 ≤ 25100 :=
  ⟨⟨rfl, rfl⟩, by decide +kernel⟩

theorem test_head_transaction_start_and_stop :
    (after (.headTransactionStart 9 2 0x50) (serving id desk)).served[2].inTransaction = true ∧
    (after (.headTransactionStart 9 2 0x51) (serving id desk)).served[2].inTransaction = false ∧
    (after (.headTransactionStop 9 2) (talking id)).served[2].inTransaction = false ∧
    (after (.headTransactionStop 9 2) (talking fun v => { v with pending := some slotRep })).served[2].state = .replacing := by decide +kernel

theorem test_head_offset_write_and_byte_read :
    let s := after (.headOffsetWrite 9 2 255) (talking fun v => { v with store := Vector.replicate 256 6 })
    s.served[2].offset = 255 ∧ (after (.headByteRead 9 2) s).served[2].lastByte = some 6 ∧
    (after (.headByteRead 9 2) s).served[2].offset = 0 := by decide +kernel

theorem test_head_bus_idle_expiry :
    (after (.headBusIdleExpiry 25100 2) (talking id)).served[2].inTransaction = false ∧
    (after (.headBusIdleExpiry 25099 2) (talking id)).served[2].inTransaction = true := by decide +kernel

/-! ## The power supervisor -/

/-- R92, R93: the conditions of a tile, and a report that changes one on a screen that is RUNNING and on one that is DISABLED. -/
theorem test_view_report_clauses :
    let s := dark (gliding true 0 0 .clear)
    let t := viewReport 1 (fun v => { v with power := .off }) s
    (modScreen 0 (fun r => { r with active := Plan.fullOf none }) s).tileCond 0 0 = .dark ∧ s.tileSource 1 0 = some 2 ∧
    s.tileCond 1 0 = .live ∧ t.tileCond 1 0 = .inert ∧ (viewReport 1 (fun v => { v with excluded := true }) s).tileCond 1 0 = .excluded ∧
    t.xm.mem.read 0x040A = 1 ∧ t.xm.mem.read 0x0409 = 0 ∧ t.comp.strobes = [] ∧
    (s.comp.screens[0].state = .disabled ∧ (viewReport 0 (fun v => { v with excluded := true }) s).comp.strobes.length = 3) ∧
    viewReport 1 (fun v => v) s = s ∧ planData 0 desk = [0, 0, 0, 0xFF, 0xFF, 0xFF, 0] := by decide +kernel

/-- Target 0 ON with a run, at its slot. -/
def powered (p : Power) (run : Option Power) (n : Nat) : State :=
  modPower 0 (fun _ => { state := p, sample := 0, runLevel := run, runCount := n }) desk

theorem test_power_sample_clauses :
    desk.live ∧ State.reset.runState = .starting ∧ desk.fittedTarget 0 = true ∧ desk.senseSlot = 0 ∧
    ({ small desk with senseSlot := 1 } : State).fittedTarget 1 = false ∧ (powered .on (some .asleep) 2).power[0].runCount + 1 = 3 :=
  ⟨⟨rfl, rfl⟩, by decide +kernel⟩

theorem test_power_sample_at_the_band_edges :
    let level (p : Power) (v : Int) : Power := (after (.powerSample 9 v) (powered p none 0)).power[0].runLevel.getD p
    [283, 284, 683, 684].map (level .on) = [.off, .asleep, .asleep, .on] ∧
    [283, 284, 699, 700].map (level .asleep) = [.off, .asleep, .asleep, .on] ∧
    [299, 300, 699, 700].map (level .off) = [.off, .asleep, .asleep, .on] ∧
    (after (.powerSample 9 682) (powered .on (some .asleep) 2)).power[0].state = .asleep ∧
    (after (.powerSample 9 682) (powered .on (some .asleep) 1)).power[0].state = .on ∧
    (after (.powerSample 9 (-5)) desk).power[0].sample = 0 ∧ (after (.powerSample 9 1024) desk).power[0].sample = 1023 := by decide +kernel

/-- Screen 0 with a loan of head 0, its return plan and a staged plan as given. -/
def lending (ret : Option Plan) (g : Option Staged) : State :=
  modScreen 0 (fun r => { r with loans := [{ tile := 0, kind := .share, lender := 0 }], ret := ret, staged := g }) brim

theorem test_return_clauses :
    let lent (l : Loan) : Bool := decide (l.lender = 0)
    let loan : Staged := { staged .loan with loansAfter := [{ tile := 0, kind := .share, lender := 0 }] }
    ((powerToComposer 0 .on .off (lending (some (planOf 2)) none)).comp.screens[0].staged.map Staged.purpose) = some .giveBack ∧
    ((powerToComposer 0 .off .asleep (lending (some (planOf 2)) none)).comp.screens[0].staged) = none ∧
    ((presenceToComposer 0 .absent (lending (some (planOf 2)) none)).comp.screens[0].staged.map Staged.plan) = some (planOf 2) ∧
    (presenceToComposer 0 .unstable (lending (some (planOf 2)) none)).comp.screens[0].staged = none ∧
    returnOn lent (lending none none) 0 = lending none none ∧
    (returnOn lent (lending none (some loan)) 0).comp.screens[0].staged = none ∧
    (returnOn lent (lending none (some loan)) 0).focus.inbox = [.withdrawn 0] ∧
    (returnOn lent (lending none (some loan)) 0).xm.mem.read 0xC4 = Result.aborted.code ∧
    returnOn lent (lending none (some (staged .host))) 0 = lending none (some (staged .host)) := by decide +kernel

theorem test_stage_clauses :
    (stage 0 (staged .host) (lending none (some (staged .loan)))).xm.mem.read 0xC4 = Result.superseded.code ∧
    (stage 0 (staged .host) (modScreen 0 (fun r => { r with state := .disabled }) brim)).comp.screens[0].active = planOf 4 ∧
    stage 0 (staged .host) (modScreen 0 (fun r => { r with state := .unfitted }) brim) =
      modScreen 0 (fun r => { r with state := .unfitted }) brim ∧ brim.comp.screens[0].state = .running := by decide +kernel

/-- A good setup block of target 0. -/
def setupBlock (heads : Byte) (low : Nat) : List Byte :=
  [heads, 0] ++ le16n 1920 ++ le16n 1080 ++ le16n 320 ++ le16n 200 ++ [0, 1, 1, 7, 60, 1] ++ le16n 2559 ++ le16n 2010 ++ [1, 16] ++
    le16n low ++ le16n 700

/-- TARGET_SETUP asked for with a block. -/
def setup (b : List Byte) (s : State) : State := put 0x0D00 b (ask 7 [0] s)

theorem test_target_setup_clauses :
    (setup (setupBlock 2 300) desk).commandReady 0 0x07 ∧
    answers .badParam [0xFF] (after (.targetSetup 9 0) (ask 7 [8] desk)) = true ∧
    answers .notFitted [0xFF] (after (.targetSetup 9 0) (ask 7 [1] (small desk))) = true ∧
    (setupFailure (setupBlock 2 300) false = none ∧ setupFailure (setupBlock 1 300) false = none ∧ setupFailure (setupBlock 2 15) false = some 21) ∧
    answers .badParam [21] (after (.targetSetup 9 0) (setup (setupBlock 2 15) desk)) = true ∧
    answers .badParam [22] (after (.targetSetup 9 0) (setup (setupBlock 2 684) desk)) = true ∧
    desk.setups[0].headB = false ∧ (modSetup 0 (fun q => { q with headB := true }) desk).setups[0].headB = true ∧
    desk.served[1].pending = none ∧ (modServed 1 (fun v => { v with inTransaction := true }) desk).served[1].inTransaction = true :=
  ⟨commandReady_of_ready (by decide +kernel), by decide +kernel⟩

theorem test_target_setup_order_clauses :
    let b (blk : List Byte) (i : Nat) : Nat := ((setup blk desk).xm.mem.read (0x0D00 + i)).toNat
    let n (blk : List Byte) (i : Nat) : Nat := b blk i + 256 * b blk (i + 1)
    let good := setupBlock 2 300
    let low := setupBlock 2 15
    (b good 11 ≤ 1 ∧ b good 12 ≤ 1 ∧ b good 15 ≤ 1 ∧ b good 13 = 7 ∧ b good 14 = 60 ∧ n good 16 - n good 16 % 10 = 2550 ∧
      n good 18 = 2010 ∧ b good 20 ≤ 1 ∧ b good 21 = 16 ∧ n good 22 = 300 ∧ n good 24 = 700 ∧ b good 10 ≤ 1 ∧ b good 0 = 2 ∧ b good 1 ≤ 1 ∧
      n good 2 = 1920 ∧ n good 4 = 1080 ∧ n good 6 = 320 ∧ n good 8 = 200) ∧
    (n low 22 < b low 21 ∧ b low 21 ≤ 63 ∧ n low 24 ≤ 1023 ∧ (∀ i < 22, b low i = b good i)) := by decide +kernel

theorem test_target_setup :
    let t := after (.targetSetup 9 0) (setup (setupBlock 2 300) desk)
    t.xm.mem.read 4 = 0 ∧ t.setups[0].headB = true ∧ t.setups[0].policy.delay = 2550 ∧ t.setups[0].policy.width = 2000 ∧
      t.setups[0].falling = true ∧ t.wakes[0].outHigh = true := by decide +kernel

/-- Target 0 OFF under a policy. -/
def sleepy (p : Policy) (l : Link) (s : State) : State :=
  modSetup 0 (fun q => { q with policy := p }) (modPower 0 (fun r => { r with state := .off }) (linked 0 l s))

/-- A policy that allows the pulse. -/
def pulsePolicy (delay : Nat) : Policy := { Policy.initial with pulse := true, delay := delay }

/-- A wake operation in a phase that ends at 900. -/
def waking (st : WakeState) (attempts : Nat) (delay : Nat) : State :=
  modWake 0 (fun w => { w with state := st, attempts := attempts, method := some .pulse, policy := some (pulsePolicy delay), due := some 900 })
    (sleepy (pulsePolicy delay) .down desk)

theorem test_wake_clauses :
    (ask 11 [0] (sleepy (pulsePolicy 10) .down desk)).commandReady 0 0x0B ∧
    answers .badParam [] (after (.wake 9 0) (ask 11 [8] desk)) = true ∧
    answers .notFitted [] (after (.wake 9 0) (ask 11 [1] (small desk))) = true ∧
    answers .ok [0, 0, 0, 0, 3] (after (.wake 9 0) (ask 11 [0] (powered .on none 0))) = true ∧
    answers .noMethod [0, 8, 0, 0, 0] (after (.wake 9 0) (ask 11 [0] desk)) = true ∧
    (sleepy Policy.initial .suspended desk).tlines[0].link = .suspended ∧ Policy.initial.signal = true ∧
    desk.wakes[0].state = .idle ∧ desk.power[0].state = .unknown ∧ (waking .watching 1 0).wakes[0].state ≠ .idle ∧
    (0 : CellId) ∉ (waking .watching 1 0).wakes[0].joined :=
  ⟨commandReady_of_ready (by decide +kernel), by decide +kernel⟩

theorem test_wake :
    (after (.wake 9 0) (ask 11 [0] (sleepy (pulsePolicy 10) .down desk))).wakes[0].state = .delaying ∧
    (after (.wake 9 0) (ask 11 [0] (sleepy (pulsePolicy 0) .down desk))).wakes[0].outHigh = true ∧
    (after (.wake 9 0) (ask 11 [0] (sleepy Policy.initial .suspended desk))).tlines[0].resumeUntil = some 20009 ∧
    (after (.wake 9 0) (ask 11 [0] (waking .watching 1 0))).wakes[0].joined = [0] := by decide +kernel

/-- R144: the focus controller's request starts an operation, joins one, and is answered at once where none starts. -/
theorem test_focus_wake_clauses :
    let v (s : State) : State := requestWake 0 .focus s
    (v (waking .watching 1 0)).wakes[0].answerFocus = true ∧ (v (powered .on none 0)).focus.inbox = [.wakeAnswer 0 .ok] ∧
    (v desk).focus.inbox = [.wakeAnswer 0 .noMethod] ∧
    ((v (sleepy Policy.initial .suspended desk)).wakes[0].state = .signalling ∧ (v (sleepy Policy.initial .suspended desk)).wakes[0].answerFocus = true) ∧
    (v (sleepy (pulsePolicy 10) .down desk)).wakes[0].state = .delaying ∧ (v (sleepy (pulsePolicy 0) .down desk)).wakes[0].state = .pulsing ∧
    (v (modPower 0 (fun r => { r with state := .unknown }) (sleepy (pulsePolicy 0) .down desk))).wakes[0].state = .watching := by decide +kernel

theorem test_wake_deadline_clauses :
    (waking .delaying 1 10).live ∧ (waking .delaying 1 10).wakes[0].due = some 900 ∧ (waking .delaying 1 10).power[0].state = .off ∧
    (modPower 0 (fun r => { r with state := .on }) (waking .delaying 1 10)).power[0].state = .on ∧
    (waking .watching 2 10).wakes[0].attempts < (pulsePolicy 10).retry ∧ (pulsePolicy 10).retry ≤ (waking .watching 3 10).wakes[0].attempts ∧
    (linked 0 .suspended desk).tlines[0].link = .suspended ∧ Policy.initial.pulse = false ∧ Policy.initial.signal = true :=
  ⟨⟨rfl, rfl⟩, by decide +kernel⟩

/-- A wake operation that cell 3, which is IN_WORK, has joined. -/
def joinedWake (attempts : Nat) : State :=
  { waking .watching attempts 10 with xm := brim.xm, wakes := upd (waking .watching attempts 10).wakes 0 fun w => { w with joined := [3] } }

theorem test_wake_end_clauses :
    let fails := after (.wakeWindowExpiry 900 0) (joinedWake 3)
    let rises := modPower 0 (fun r => { r with runLevel := some .on, runCount := 2 }) (joinedWake 2)
    let on := after (.powerSample 9 700) rises
    (joinedWake 3).live ∧ (joinedWake 3).wakes[0].joined = [3] ∧ (joinedWake 3).xm.entry 3 ≠ none ∧ (joinedWake 3).wakes[0].answerFocus = false ∧
    fails.wakes[0].state = .idle ∧ fails.xm.mem.read 0xC2 = 3 ∧ fails.xm.mem.block 0xC4 1 = [Result.wakeFailed.code] ∧
    fails.xm.mem.block 0xCC 5 = [0, Result.wakeFailed.code, 3, methodCode (some .pulse), Power.off.code] ∧
    (rises.senseSlot = 0 ∧ rises.runState ≠ .starting ∧ rises.fittedTarget 0 = true ∧ rises.power[0].state ≠ .on ∧
      rises.power[0].runLevel = some .on ∧ 2 ≤ rises.power[0].runCount ∧ rises.setups[0].high ≤ sampleOf rises.setups[0].falling 700 ∧
      rises.wakes[0].state ≠ .idle) ∧
    on.power[0].state = .on ∧ on.wakes[0].state = .idle ∧ on.xm.mem.block 0xC4 1 = [Result.ok.code] ∧
    on.xm.mem.block 0xCC 5 = [0, Result.ok.code, 2, methodCode (some .pulse), Power.on.code] :=
  ⟨⟨rfl, rfl⟩, by decide +kernel⟩

theorem test_next_attempt_clauses :
    let noPulse : State := modWake 0 (fun w => { w with policy := some Policy.initial }) (waking .watching 1 10)
    (after (.wakeWindowExpiry 900 0) (waking .watching 1 0)).wakes[0].state = .pulsing ∧
    (after (.wakeWindowExpiry 900 0) (modPower 0 (fun r => { r with state := .unknown }) (waking .watching 1 0))).wakes[0].state = .watching ∧
    (after (.wakeWindowExpiry 900 0) (linked 0 .suspended noPulse)).wakes[0].state = .signalling ∧
    (after (.wakeWindowExpiry 900 0) noPulse).wakes[0].state = .idle := by decide +kernel

theorem test_pulse_delay_end_and_pulse_end :
    (after (.pulseDelayEnd 900 0) (waking .delaying 1 10)).wakes[0].state = .pulsing ∧
    (after (.pulseDelayEnd 899 0) (waking .delaying 1 10)).wakes[0].state = .delaying ∧
    (after (.pulseEnd 900 0) (waking .pulsing 1 10)).wakes[0].due = some 15000900 ∧
    (after (.pulseEnd 899 0) (waking .pulsing 1 10)).wakes[0].state = .pulsing := by decide +kernel

theorem test_wake_window_expiry :
    (after (.wakeWindowExpiry 900 0) (waking .watching 2 10)).wakes[0].attempts = 3 ∧
    (after (.wakeWindowExpiry 900 0) (waking .watching 3 10)).wakes[0].state = .idle ∧
    (after (.wakeWindowExpiry 899 0) (waking .watching 3 10)).wakes[0].state = .watching := by decide +kernel

/-! ## The panel scanner -/

/-- Key 7 in a state. -/
def keyed (f : PanelKey → PanelKey) : State :=
  modPanelKey 7 f { desk with panel := { desk.panel with nextDrive := 1 } }

theorem test_panel_clauses :
    desk.live ∧ desk.runState ≠ .starting ∧ State.reset.runState = .starting ∧
    (keyed fun k => { k with state := .down, longDue := some 600 }).panel.keys[7].longDue = some 600 ∧
    (keyed id).panel.keys[7].action = .focus ∧ (keyed id).panel.keys[7].ops.target.toNat = 7 ∧
    (keyed fun k => { k with action := .host }).panel.keys[7].action ≠ .focus ∧ desk.power[7].state ≠ .on ∧ desk.wakes[7].state = .idle ∧
    (modSetup 7 (fun q => { q with policy := pulsePolicy 10 }) desk).setups[7].policy.pulse = true :=
  ⟨⟨rfl, rfl⟩, by decide +kernel⟩

theorem test_panel_slot :
    (after (.panelSlot 9 2) (keyed fun k => { k with debounce := 1 })).panel.keys[7].debounce = 2 ∧
    (after (.panelSlot 9 2) (keyed fun k => { k with debounce := 2 })).panel.keys[7].state = .down ∧
    (after (.panelSlot 9 2) (keyed fun k => { k with debounce := 2 })).panel.keys[7].longDue = some 1000009 ∧
    (after (.panelSlot 9 2) (keyed fun k => { k with debounce := 2 })).focus.st = .pending 7 ∧
    (after (.panelSlot 9 0) (keyed fun k => { k with state := .down, debounce := 2, action := .host })).panel.keys[7].events = 1 := by
  decide +kernel

theorem test_panel_slot_lights_before_it_reads :
    let focusInd : Indicator := { source := .focus, operand := 7, intensity := 9, pattern := .steady, hostLevel := false }
    let s := keyed fun k => { k with debounce := 2 }
    let t := after (.panelSlot 9 2) (allEligible { s with panel := { s.panel with inds := s.panel.inds.set 7 focusInd } })
    t.focus.st.target = some 7 ∧ t.panel.lit[7] = 0 ∧
    (after (.panelSlot 9 2) { t with panel := { t.panel with nextDrive := 1, view := { t.panel.view with focus := .focused 7 } } }).panel.lit[7] = 9 := by
  decide +kernel

theorem test_long_press_expiry :
    (after (.longPressExpiry 600 7) (keyed fun k => { k with state := .down, longDue := some 600 })).panel.keys[7].state = .held ∧
    (after (.longPressExpiry 599 7) (keyed fun k => { k with state := .down, longDue := some 600 })).panel.keys[7].state = .down := by
  decide +kernel

/-- Key 7 about to become DOWN with an action. -/
def pressing (a : Action) (s : State) : State := modPanelKey 7 (fun k => { k with debounce := 2, action := a }) s

theorem test_panel_key_clauses :
    (keyed id).panel.keys[7].state = .up ∧ (keyed id).panel.keys[7].debounce < 2 ∧
    (∀ a ∈ [Action.focus, .focusNext, .focusPrev, .focusToggle, .share, .restore, .wake, .pinToggle, .notify, .host, .nothing],
      (pressing a desk).panel.keys[7].action = a ∧ 2 ≤ (pressing a desk).panel.keys[7].debounce ∧ (pressing a desk).panel.keys[7].state = .up) ∧
    (pressing .focus desk).panel.keys[7].ops.target.toNat = 7 ∧
    (modPanelKey 7 (fun k => { k with state := .held }) (pressing .host desk)).panel.keys[7].state ≠ .up := by decide +kernel

theorem test_panel_key_actions :
    let down (a : Action) (s : State) : State := readKey 7 true (pressing a s)
    (down .focus desk).focus.st = .pending 7 ∧ (down .focusNext desk).focus.st = .pending 0 ∧
    (down .focusPrev desk).focus.st = .pending 7 ∧ (down .pinToggle desk).focus.pin = true ∧
    (down .restore desk).comp.screens[0].staged.map Staged.purpose = some .giveBack ∧
    (down .share desk).comp.screens[0].staged.map Staged.purpose = some .loan ∧
    (down .wake (modSetup 7 (fun q => { q with policy := pulsePolicy 10 }) desk)).wakes[7].state = .delaying ∧
    (down .notify desk).panel.lastEvent = some (7, false) ∧ (down .notify desk).xm.mem.read 0x0413 = 1 ∧
    (down .host desk).panel.keys[7].events = 1 ∧ (down .nothing desk).panel.lastEvent = none ∧
    (readKey 7 false (modPanelKey 7 (fun k => { k with state := .held }) (pressing .host desk))).panel.lastEvent = some (7, true) := by
  decide +kernel

theorem test_request_clauses :
    let o : Operands := { target := 7, screen := 2, tile := 1, layout := 1, head := 0 }
    (o.screen.toNat = (2 : ScreenId).1 ∧ o.layout = Layout.pair.code ∧ o.target.toNat = (7 : TargetId).1 ∧ o.tile.toNat = (1 : Fin 4).1 ∧
      (1 : Fin 4).1 < Layout.pair.tiles ∧ o.head.toNat < 2) ∧
    (desk.watched 14 = true ∧ desk.comp.screens[2].state = .running ∧ (2 : ScreenId).1 < desk.straps.screens ∧ (7 : TargetId).1 < desk.straps.targets) ∧
    (shareRequest o desk).comp.screens[2].staged.map (fun g => g.loansAfter) = some [{ tile := 1, kind := .share, lender := 14 }] ∧
    shareRequest { o with tile := 2 } desk = desk ∧ shareRequest { o with head := 1 } desk = desk ∧
    shareRequest { o with layout := 5 } desk = desk ∧ shareRequest o (small desk) = small desk ∧
    (restoreRequest o desk).comp.screens[2].staged.map Staged.cells = some [] ∧ restoreRequest o (small desk) = small desk ∧
    restoreRequest o (restoreRequest o desk) = restoreRequest o desk := by decide +kernel

theorem test_wake_request_clauses :
    let o : Operands := { target := 7, screen := 0, tile := 0, layout := 0, head := 0 }
    let asks (p : Policy) (s : State) : State := modSetup 7 (fun q => { q with policy := p }) s
    desk.wakes[7].state = .idle ∧ desk.power[7].state = .unknown ∧ wakeRequest o desk = desk ∧ wakeRequest o (small desk) = small desk ∧
    (linked 7 .suspended desk).tlines[7].link = .suspended ∧ desk.setups[7].policy.signal = true ∧
    (wakeRequest o (linked 7 .suspended desk)).wakes[7].state = .signalling ∧
    (wakeRequest o (linked 7 .suspended desk)).tlines[7].resumeUntil = some 20000 ∧
    (wakeRequest o (asks (pulsePolicy 10) desk)).wakes[7].state = .delaying ∧
    (wakeRequest o (asks (pulsePolicy 0) desk)).wakes[7].state = .watching ∧
    (wakeRequest o (asks (pulsePolicy 0) (modPower 7 (fun r => { r with state := .off }) desk))).wakes[7].state = .pulsing := by
  decide +kernel

/-- R159 to R161: what the panel scanner does at each report. -/
theorem test_panel_report_clauses :
    let ind (src : IndSource) : Indicator := { source := src, operand := 2, intensity := 9, pattern := .steady, hostLevel := true }
    let s (src : IndSource) : State := { desk with panel := { desk.panel with inds := Vector.replicate 24 (ind src) } }
    let v : PanelView := { desk.panel.view with
      focus := .pending 2, pin := true, power := desk.panel.view.power.set 2 .on
      waking := desk.panel.view.waking.set 2 true, loaned := desk.panel.view.loaned.set 2 true }
    let blank := (s .nothing).xm.revision[19]
    (powerToPanel 2 .on (s .power)).xm.revision[19] = blank + 1 ∧ (powerToPanel 3 .on (s .power)).xm.revision[19] = blank ∧
    (powerToPanel 2 .on (s .power)).panel.view.power[2] = .on ∧ (wakingToPanel 2 true (s .waking)).xm.revision[19] = blank + 1 ∧
    (focusToPanel (focusOn (.focused 2) desk)).panel.tallies[2].buffered = desk.panel.focusDuty ∧
    (focusToPanel (focusOn (.focused 2) (small desk))).panel.tallies[2].buffered = 0 ∧
    (planToPanel 2 (modScreen 2 (fun r => { r with loans := [{ tile := 0, kind := .bring, lender := 2 }] }) (s .screenLoaned))).panel.view.loaned[2] = true ∧
    ([IndSource.nothing, .focus, .power, .waking, .screenLoaned, .pin, .host].map fun c => (ind c).condition v) =
      [false, true, true, true, true, true, true] ∧
    ([499, 500].map fun n => Pattern.gate n .slow) = [true, false] ∧ ([124, 125, 374, 375].map fun n => Pattern.gate n .fast) = [true, false, true, false] := by
  decide +kernel

theorem test_long_press_signals :
    let s := linked 7 .suspended (keyed fun k => { k with state := .down, longDue := some 600 })
    let t := after (.longPressExpiry 600 7) s
    (s.tlines[7].link = .suspended ∧ s.setups[7].policy.signal = true ∧ s.wakes[7].state = .idle ∧ s.power[7].state ≠ .on ∧
      desk.setups[7].policy.pulse = false) ∧
    t.wakes[7].state = .signalling ∧ t.wakes[7].method = some .signal ∧ t.tlines[7].resumeUntil ≠ none := by decide +kernel

theorem test_tally_period_end :
    let t := after (.tallyPeriodEnd 256 2) { desk with panel := { desk.panel with tallies := upd desk.panel.tallies 2 fun c => { c with buffered := 200 } } }
    desk.live ∧ desk.resetAsserted = false ∧ t.panel.tallies[2].working = 200 ∧ ({ t with now := 455 } : State).tallyLit 2 = true ∧
      ({ t with now := 456 } : State).tallyLit 2 = false :=
  ⟨⟨rfl, rfl⟩, by decide +kernel⟩

/-- PANEL_MAP_LOAD asked for with a last entry. -/
def panelMap (e : List Byte) (s : State) : State := put 0x1114 e (ask 14 [] s)

theorem test_panel_map_load_clauses :
    (panelMap [1, 7, 0, 0, 0, 0, 6, 0, 15, 2] desk).commandReady 0 0x0E ∧
    (∀ i : PosId, panelEntryInRange ((panelMap [1, 7, 0, 0, 0, 0, 6, 0, 15, 2] desk).xm.mem.block (0x1000 + 12 * i.1) 12) = true ∧
      panelEntryFitted desk ((panelMap [1, 7, 0, 0, 0, 0, 6, 0, 15, 2] desk).xm.mem.block (0x1000 + 12 * i.1) 12) = true) ∧
    answers .badParam [23] (after (.panelMapLoad 9 0) (panelMap [1, 7, 0, 0, 0, 0, 6, 0, 16, 2] desk)) = true ∧
    answers .notFitted [23] (after (.panelMapLoad 9 0) (panelMap [1, 7, 0, 0, 0, 0, 6, 0, 15, 2] (small desk))) = true :=
  ⟨commandReady_of_ready (by decide +kernel), by decide +kernel⟩

theorem test_panel_map_load_passes_clauses :
    let n := entryByte 0x1000 12 (panelMap [1, 7, 0, 0, 0, 0, 6, 0, 16, 2] desk)
    let m := entryByte 0x1000 12 (panelMap [1, 7, 0, 0, 0, 0, 6, 0, 15, 2] desk)
    (∀ i < 23, ∀ j < 12, n i j = 0 ∧ m i j = 0) ∧ (n 23 0 < 11 ∧ 15 < n 23 8) ∧
    (m 23 0 = 1 ∧ m 23 1 < 8 ∧ m 23 6 = 6 ∧ m 23 8 = 15 ∧ m 23 9 < 3) ∧
    ((small desk).straps.targets ≤ m 23 1 ∧ m 23 1 < desk.straps.targets) := by decide +kernel

theorem test_panel_map_load :
    let t := after (.panelMapLoad 9 0) (panelMap [1, 7, 0, 0, 0, 0, 6, 0, 15, 2] desk)
    answers .ok [1] t = true ∧ t.panel.keys[23].action = .focus ∧ t.panel.keys[0].action = .nothing ∧ t.panel.inds[23].pattern = .fast := by
  decide +kernel

theorem test_indicator_set_clauses :
    (ask 15 [23, 6, 0, 15, 2, 1] desk).commandReady 0 0x0F ∧ ((23 : Byte).toNat = 23 ∧ (6 : Byte) = IndSource.host.code ∧ (2 : Byte) = Pattern.fast.code) ∧
    answers .badParam [] (after (.indicatorSet 9 0) (ask 15 [24, 6, 0, 15, 2, 1] desk)) = true ∧
    answers .badParam [] (after (.indicatorSet 9 0) (ask 15 [23, 1, 8, 15, 2, 1] desk)) = true ∧
    answers .notFitted [] (after (.indicatorSet 9 0) (ask 15 [23, 1, 7, 15, 2, 1] (small desk))) = true ∧
    answers .notFitted [] (after (.indicatorSet 9 0) (ask 15 [23, 4, 1, 15, 2, 1] (small desk))) = true :=
  ⟨commandReady_of_ready (by decide +kernel), by decide +kernel⟩

theorem test_indicator_set :
    let t := after (.indicatorSet 9 0) (ask 15 [23, 6, 0, 15, 2, 1] desk)
    answers .ok [23, 6, 0, 15, 2, 1] t = true ∧
    t.panel.inds[23] = { source := .host, operand := 0, intensity := 15, pattern := .fast, hostLevel := true } := by decide +kernel

/-! ## The exchange port and the sweeper -/

/-- A copy of head 2's slot runs. -/
def slotCopy : State := copying .serving id

theorem test_host_write_clauses :
    desk.live ∧ State.reset.runState = .starting ∧ desk.xm.waiting = [] ∧ (0x3FFB * 2 : Nat) < 0x7FF8 ∧
    (0x2600 + 256 * 2 ≤ 2 * 0x1400 ∧ 2 * 0x147F < 0x2600 + 256 * 2 + 256) ∧
    ((slotCopy.served[2].copy.map fun c => c.rep.source) = some .slot) ∧ 2 * 0x200 = 0x0400 + 2 * (0 : Fin 16).1 ∧
    2 * 0x20F = 0x0400 + 2 * (15 : Fin 16).1 :=
  ⟨⟨rfl, rfl⟩, by decide +kernel⟩

theorem test_host_memory_write :
    (after (.hostMemoryWrite 9 0x3FFB 0x1234) desk).xm.mem = [⟨0x7FF6, 0x34⟩, ⟨0x7FF7, 0x12⟩] ∧
    (after (.hostMemoryWrite 9 0x1400 1) slotCopy).xm.waiting = [{ addr := 0x1400, value := 1 }] ∧
    (after (.hostMemoryWrite 9 0x1480 1) slotCopy).xm.waiting = [] ∧
    (after (.hostMemoryWrite 9 0 1) State.reset).xm.waiting = [{ addr := 0, value := 1 }] := by decide +kernel

theorem test_summary_clear :
    (after (.summaryClear 9 0 0xFF00) (put 0x0400 [1, 1] desk)).xm.mem = [⟨0x0401, 1⟩] ∧
    (after (.summaryClear 9 15 0xFFFF) desk).xm.mem = [] := by decide +kernel

theorem test_held_access_release :
    let waits (s : State) : State := { s with xm := { s.xm with waiting := [{ addr := 0x1400, value := 1 }] } }
    (waits desk).xm.waiting = { addr := 0x1400, value := 1 } :: [] ∧
    (after (.heldAccessRelease 9) (waits desk)).xm.mem = [⟨0x2800, 1⟩] ∧
    (after (.heldAccessRelease 9) (waits slotCopy)).xm.waiting.length = 1 := by decide +kernel

theorem test_release_clauses :
    releaseReady desk = desk ∧ (releaseReady (stretched desk)).xm.waiting = [] ∧
    (after (.heldAccessRelease 9) (stretched desk)).xm.waiting = [{ addr := 0x0700, value := 3 }] ∧
    releaseReady (after (.heldAccessRelease 9) (stretched desk)) = releaseReady ((stretched desk).advance 9) ∧
    releaseReady (stretched State.reset) = stretched State.reset ∧
    (after (.hostMemoryWrite 9 0x048A 0x55AA) desk).xm.mem.word 0x0914 = 0x55AA := by decide +kernel

theorem test_sweep_clauses :
    desk.live ∧ (∀ c : CellId, desk.xm.entry c = none → desk.xm.mem.read (64 * c.1 + 2) ≠ 1) ∧
    cellRow (.wake 9 3) = some (3, 0x0B) ∧ (ask 0x11 [] desk).commandReady 0 0x11 ∧ (ask 0 [] desk).commandReady 0 0 ∧
    ¬(ask 0x11 [] desk).commandReady 0 0x0B ∧ (∀ kind : Byte, kind = 0 ∨ 0x10 < kind.toNat → ¬(ask 4 [] desk).commandReady 0 kind) := by
  refine ⟨⟨rfl, rfl⟩, by decide +kernel, by decide +kernel, commandReady_of_ready (by decide +kernel), commandReady_of_ready (by decide +kernel), ?_, ?_⟩
  · intro h
    exact absurd h.2.2.2.2 (by decide +kernel)
  · intro kind hk h
    have h4 : (ask 4 [] desk).xm.mem.read (64 * (0 : CellId).1 + 3) = 4 := by decide +kernel
    rw [← h.2.2.2.2, h4] at hk
    revert hk
    decide

/-- The next command that sets off actions of the part's own has this pace. -/
def atPace (n : Nat) (s : State) : State := { s with paces := [n] }

theorem test_attention :
    (after (.attention 9 0) (atPace 1 (ask 4 [2] desk))).focus.pin = true ∧ (after (.attention 9 0) (atPace 1 (ask 4 [2] desk))).xm.sweepCount = 1 ∧
    (after (.attention 9 0) (atPace 1 (ask 4 [2] desk))).xm.sweepState = .sweeping 1 ∧
    (after (.attention 9 0) (atPace 0 (ask 4 [2] desk))).focus.pin = false ∧
    after (.attention 9 0) desk = { desk with now := 9, xm := { desk.xm with sweepCount := 1 } } ∧
    (after (.attention 9 0) (atPace 0 State.reset)).xm.pendingSweep = true := by decide +kernel

theorem test_attention_while_sweeping :
    let s := after (.attention 9 0) (atPace 5 desk)
    let t := after (.attention 10 0) (atPace 0 s)
    s.xm.sweepState = .sweeping 5 ∧ s.live ∧ (∀ c k, s.runState ≠ .restarting c k) ∧ s.runState = .running ∧
    t.xm.pendingSweep = true ∧ t.xm.sweepState = .sweeping 5 ∧ t.xm.sweepCount = 1 ∧
    (after (.attention 10 0) (atPace 11 s)).xm.sweepState = .sweeping 0 ∧ (after (.attention 10 0) (atPace 11 s)).xm.pendingSweep = false ∧
    (after (.attention 10 0) (atPace 11 s)).xm.sweepCount = 2 ∧ (after (.attention 10 0) (atPace 99 s)).xm.sweepState = .idle := by
  refine ⟨by decide +kernel, live_of (by decide +kernel), fun _ _ h => ?_, by decide +kernel⟩
  have e : (after (.attention 9 0) (atPace 5 desk)).runState = .running := by decide +kernel
  rw [e] at h
  cases h

/-- A sweep that comes to a cell next. -/
def sweepingAt (c : CellId) (s : State) : State := { s with xm := { s.xm with sweepState := .sweeping c } }

theorem test_visit_clauses :
    (sweepingAt 0 (ask 4 [2] desk)).commandReady 0 4 ∧ (sweepingAt 0 (ask 0x11 [] desk)).commandReady 0 0x11 ∧
    (sweepingAt 0 (ask 16 [] desk)).commandReady 0 0x10 ∧
    (Instr.pin 0 0).time = desk.now ∧ cellRow (.pin 0 0) = some (0, 4) ∧
    (tick (sweepingAt 0 (ask 4 [2] desk))).focus.pin = true ∧ (tick (sweepingAt 0 (ask 4 [2] desk))).xm.sweepState = .sweeping 1 ∧
    answers .unknownKind [] (tick (sweepingAt 0 (ask 0x11 [] desk))) = true ∧
    (tick (sweepingAt 0 (ask 16 [] desk))).runState = .restarting 0 0 ∧
    tick (sweepingAt 3 desk) = sweepingAt 4 desk ∧ tick (sweepingAt 15 desk) = desk :=
  ⟨commandReady_of_ready (by decide +kernel), commandReady_of_ready (by decide +kernel), commandReady_of_ready (by decide +kernel),
    rfl, rfl, by decide +kernel⟩

theorem test_sweep_timer_expiry :
    let s : State := { desk with xm := { desk.xm with sweepDue := some 2000 } }
    s.xm.sweepDue = some 2000 ∧ (after (.sweepTimerExpiry 2000) (atPace 0 s)).xm.sweepDue = some 4000 ∧
    (after (.sweepTimerExpiry 2000) s).xm.sweepCount = 1 ∧ (after (.sweepTimerExpiry 1999) s).xm.sweepCount = 0 := by decide +kernel

theorem test_unknown_kind :
    answers .unknownKind [] (after (.unknownKind 9 0) (ask 0x11 [] desk)) = true ∧
    answers .unknownKind [] (after (.unknownKind 9 0) (ask 0 [] desk)) = true ∧
    (after (.unknownKind 9 0) (ask 4 [] desk)).xm.mem.read 2 = 1 := by decide +kernel

theorem test_line_control :
    (after (.lineControl 9 0x0401) desk).xm.sweepPeriod = .ms10 ∧ (after (.lineControl 9 0x0401) desk).xm.sweepDue = some 10009 ∧
    (after (.lineControl 9 0x0401) desk).xm.noteEnable = true ∧ (after (.lineControl 9 0x0501) desk).xm.sweepPeriod = .ms2 ∧
    ((4 : Nat) = SweepPeriod.ms10.code.toNat ∧ SweepPeriod.ms10 ≠ desk.xm.sweepPeriod) := by decide +kernel

theorem test_register_write_ignored :
    (after (.registerWriteIgnored 9 .status 0xFFFF) desk).xm.mem = [] ∧ (after (.registerWriteIgnored 9 .ident 0xFFFF) desk).now = 9 := by
  decide +kernel

theorem test_port_outputs :
    let s : State := put 0x0415 [1] { desk with xm := { desk.xm with noteEnable := true } }
    desk.statusWord = 0x0861 ∧ (sweepingAt 3 (small desk)).statusWord = 0x0115 ∧ State.reset.statusWord &&& 0xF = 0 ∧
    s.noteN = true ∧ (put 0x0415 [1] desk).noteN = false ∧ s.lineControlWord = 0x0201 ∧ desk.waitN = false ∧
    (stretched desk).waitN = true := by decide +kernel

theorem test_host_read_clauses :
    ({ desk with resetAsserted := true } : State).hostRead 0 = .unanswered ∧ desk.hostRead 0x3FFC = .word desk.statusWord ∧
    desk.hostRead 0x3FFD = .word 0 ∧ desk.hostRead 0x3FFE = .word 0x0200 ∧ desk.hostRead 0x3FFF = .word 0x0186 ∧
    (put 0x7FF6 [1, 2] desk).hostRead 0x3FFB = .word 0x0201 ∧ slotCopy.hostRead 0x1400 = .waits ∧ slotCopy.hostRead 0x1480 = .word 0 ∧
    (stretched desk).hostRead 0 = .waits ∧ State.reset.hostRead 0 = .waits := by decide +kernel

/-! ## Reset, start-up and restart -/

/-- A restart asked for in cell 0. -/
def restarting (n : Nat) (s : State) : State := after (.restart 9 0) (ask 16 [] (atPace n s))

theorem test_restart_clauses :
    desk.live ∧ (ask 16 [] desk).commandReady 0 0x10 ∧ ¬(ask 4 [] desk).commandReady 0 0x10 ∧
    ((∀ k : TargetId, (0 : CellId) ∉ (ask 16 [] desk).wakes[k.1].joined) ∧ (0 : CellId) ∉ (ask 16 [] desk).focus.waiting ∧
      (∀ sc : ScreenId, (0 : CellId) ∉ (ask 16 [] desk).idents[sc.1].waiting ∧ (ask 16 [] desk).comp.screens[sc.1].staged = none) ∧
      ∀ h : HeadId, (ask 16 [] desk).served[h.1].completing ≠ some 0 ∧ (ask 16 [] desk).served[h.1].pending = none ∧
        (ask 16 [] desk).served[h.1].copy = none) ∧
    (restarting 7 desk).live ∧ (restarting 7 desk).runState = .restarting 0 7 ∧ (restarting 8 desk).runState = .restarting 0 8 := by
  refine ⟨⟨rfl, rfl⟩, commandReady_of_ready (by decide +kernel), ?_, by decide +kernel, live_of (by decide +kernel), by decide +kernel⟩
  intro h
  exact absurd h.2.2.2.2 (by decide +kernel)

theorem test_restart :
    let t := restarting 9 (focusOn (.focused 1) (classed .keyboard desk))
    t.focus.st = .nobody ∧ t.desk.lines[0].cls = .silent ∧ t.desk.lines[0].resetUntil = some 10009 ∧ t.xm.sweepCount = 1 ∧
      t.xm.sweepState = .sweeping 0 ∧ t.runState = .running ∧ answers .ok [] t = true ∧
      (restarting 9 (allEligible desk)).xm.mem.block 0x0400 23 = List.replicate 22 1 ++ [0] := by decide +kernel

/-- Every kind of work with a cell of its own in work. -/
def occupied : State :=
  let rep (c : CellId) : Replacement := { source := .slot, announce := true, follow := false, cell := some c }
  let cp (c : CellId) : Copy := { rep := rep c, image := Vector.replicate 256 0, due := 2000, before := .serving }
  let s := serving (fun v => { v with pending := some (rep 6), copy := some (cp 7), completing := some 8, state := .replacing }) desk
  let s := modWake 0 (fun w => { w with state := .watching, joined := [3] }) s
  let s := modScreen 0 (fun r => { r with staged := some { staged .host with cells := [4] } }) s
  let s := modIdent 0 (fun i => { i with waiting := [5] }) s
  let s := modFocus (fun f => { f with st := .pending 1, waiting := [9] }) s
  { s with xm := { s.xm with inWork := [3, 4, 5, 6, 7, 8, 9].map fun c => { cell := c, tag := 0, kind := 1 } } }

theorem test_restart_aborts_cells :
    let t := restarting 8 occupied
    (occupied.wakes[0].state ≠ .idle ∧ occupied.live ∧ ready (ask 16 [] occupied) 0 0x10 = true) ∧
    (∀ c ∈ [3, 4, 5, 6, 7, 8, 9], occupied.xm.entry c ≠ none ∧ t.xm.entry c = none ∧ t.xm.mem.read (64 * c.1 + 2) = 3 ∧
      t.xm.mem.read (64 * c.1 + 4) = Result.aborted.code) := by
  refine ⟨⟨by decide +kernel, live_of (by decide +kernel), by decide +kernel⟩, by decide +kernel⟩

theorem test_restart_step_by_step :
    let s (k : Nat) : State := restarting k occupied
    (s 0).wakes[0].joined = [3] ∧ (s 1).wakes[0].joined = [] ∧ (s 1).comp.screens[0].staged ≠ none ∧ (s 2).comp.screens[0].staged = none ∧
    (s 2).idents[0].waiting = [5] ∧ (s 3).idents[0].waiting = [] ∧ (s 3).focus.waiting = [9] ∧ (s 5).focus.waiting = [] ∧
    (s 6).xm.mem.read 0x0400 = 0 ∧ (s 8).xm.mem.read 0x0400 = 1 ∧
    (∀ k ∈ ids 9, (s k.1).runState = .restarting 0 k) := by decide +kernel

theorem test_restart_centres_cursor :
    let moved := modCursor (fun c => { c with x := 5, y := 6, screen := some 3, rx := 2 })
    let blank (s : State) : State := { s with cur := { s.cur with geo := s.cur.geo.map fun p => { p with enabled := false } } }
    let q := (restarting 8 (moved desk)).cur.cursor
    let r := (restarting 8 (blank (moved desk))).cur.cursor
    (desk.cur.geo[0].enabled = true ∧ 0 < desk.cur.geo[0].w ∧ 0 < desk.cur.geo[0].h) ∧
    (q.x = 960 ∧ q.y = 540 ∧ q.screen = some 0 ∧ q.rx = 0) ∧ (r.x = 5 ∧ r.y = 6 ∧ r.screen = none) := by decide +kernel

/-- R51: a focus gained after step 5 has its cursor placed for it, unless the centre lies in a tile of its target. -/
theorem test_restart_places_cursor_for_focus :
    let s (k : TargetId) : State := focusOn (.focused k) (restarting 6 (allEligible desk))
    let q (k : TargetId) : Cursor := (tick (s k)).cur.cursor
    (s 1).live ∧ ((s 1).runState = .restarting 0 6 ∧ (centreCursor (s 1)).cursorOn 1 = false ∧ (s 1).placementTile 1 = some (1, 0) ∧
    (s 7).placementTile 7 = none ∧ (centreCursor (s 0)).cursorOn 0 = true ∧
    ((q 1).x = 2880 ∧ (q 1).y = 540 ∧ (q 1).screen = some 1 ∧ (tick (s 1)).cursorOn 1 = true) ∧ (q 0).x = 960 ∧ (q 7).x = 960) :=
  ⟨live_of (by decide +kernel), by decide +kernel⟩

/-- R181: a rewrite for a screen's identity between steps 2 and 8 shows the staged plan as the composer last gave it. -/
theorem test_identity_rewrite_keeps_given_plan :
    let g : Staged := { staged .host with cells := [] }
    let s := restarting 2 (noticeOf (.plans 1) (modScreen 1 (fun r => { r with staged := some g }) (bouncing false true)))
    let t := after (.presenceDebounceExpiry 50000 1) s
    let u := Nat.repeat tick 6 t
    s.comp.screens[1].staged = none ∧ t.idents[1].state = .reading ∧
    t.xm.mem.read 0x06AC = 1 ∧ t.xm.mem.read 0x06CC = 1 ∧ u.runState = .restarting 0 8 ∧
    u.xm.mem.read 0x06AC = 0 ∧ u.xm.mem.read 0x06CC = 1 := by decide +kernel

/-- R186: a line reset condition that ends finds the restart at its end, and its device's ANNOUNCE is taken while RUNNING. -/
theorem test_line_reset_end_ends_restart :
    let s := restarting 4 desk
    let t := after (.lineResetEnd 10009 0) s
    s.live ∧ s.runState = .restarting 0 4 ∧ (∀ l : LineId, s.desk.lines[l.1].resetUntil = some 10009) ∧
    t.runState = .running ∧ t.desk.lines[0].resetUntil = none ∧ t.desk.lines[1].resetUntil = some 10009 ∧ answers .ok [] t = true ∧
    (after (.lineResetEnd 10008 0) s).runState = .restarting 0 4 ∧
    (after (.announce 10009 0 1 [1] 0xFD) s).desk.lines[0].cls = .silent ∧
    (after (.announce 10009 0 1 [1] 0xFD) t).desk.lines[0].cls = .keyboard ∧
    (let early := restarting 2 (modDeskLine 0 (fun l => { l with resetUntil := some 9 }) desk)
     (after (.lineResetEnd 9 0) early).runState = .restarting 0 2 ∧ (after (.lineResetEnd 9 0) early).desk.lines[0].resetUntil = none) := by
  refine ⟨live_of (by decide +kernel), by decide +kernel⟩

theorem test_restart_lines_driven : ∀ l : LineId, (restarting 4 desk).desk.lines[l.1].resetUntil ≠ none := by decide +kernel

theorem test_restart_quiet_holds : (restarting 4 desk).restartQuiet := fun _ _ _ _ l => test_restart_lines_driven l

/-- R186: what a panel key asks between steps 2 and 5 of a restart is left running, with focus NONE. -/
theorem test_events_between_restart_steps :
    let asleep (s : State) : State :=
      modSetup 7 (fun q => { q with policy := pulsePolicy 0 })
        (modPower 7 (fun r => { r with state := .asleep }) (lostOn .asleep .nobody s))
    let t := after (.panelSlot 10 2) (restarting 2 (asleep (keyed fun k => { k with debounce := 2 })))
    let u := Nat.repeat tick 7 t
    t.runState = .restarting 0 2 ∧ t.focus.st = .pending 7 ∧ t.focus.bringOut = some 0 ∧ t.wakes[7].state = .pulsing ∧
    u.runState = .running ∧ u.focus.st = .nobody ∧ u.focus.bringOut = none ∧ u.focus.wakeOut = false ∧ u.wakes[7].state = .pulsing ∧
    (u.comp.screens[0].staged.map Staged.purpose) = some .loan := by decide +kernel

theorem test_reset_clauses :
    ({ desk with resetAsserted := true } : State).resetAsserted = true ∧ (∀ t, Instr.clearDone 9 ≠ .powerOnReset t) ∧
    (∀ t a b g p, Instr.clearDone 9 ≠ .resetRelease t a b g p) ∧
    (∀ t sc l, Instr.clearDone 9 ≠ .screenPresenceInputChange t sc l) :=
  ⟨rfl, fun _ h => (nomatch h), fun _ _ _ _ _ h => (nomatch h), fun _ _ _ h => (nomatch h)⟩

theorem test_power_on_reset :
    (after (.powerOnReset 9) (classed .keyboard desk)).resetAsserted = true ∧
    (after (.powerOnReset 9) (classed .keyboard desk)).desk.lines[0].cls = .silent ∧
    (after (.clearDone 9) { desk with resetAsserted := true }).now = 9 := by decide +kernel

theorem test_reset_release :
    let t := after (.resetRelease 9 6 1 true 3) (after (.screenPresenceInputChange 8 1 true) { desk with resetAsserted := true })
    t.straps = { screens := 6, targets := 2, glide := true } ∧ t.runState = .starting ∧ t.tlines[1].link = .up ∧ t.tlines[2].link = .down ∧
      t.resetAsserted = false ∧ t.idents[1].input = true ∧ t.idents[0].input = false ∧
      (after (.clearDone 9) t).idents[1].debounceDue = some 50009 ∧ (after (.clearDone 9) t).idents[0].debounceDue = none := by
  decide +kernel

/-- The default hotkey table and panel map at the number of targets and screens (R71, R163). -/
theorem test_default_tables_of_two_targets_and_one_screen :
    let t := after (.resetRelease 9 0 1 false 0) desk
    t.straps = { screens := 1, targets := 2, glide := false } ∧
    (List.range 10).map (fun i => t.hot.table.toList[i]?.map fun e => (e.enabled, e.kind, e.key, e.action, e.ops.target)) =
      ((List.range 8).map fun i => some (decide (i < 2), 1, byte (0x1E + i), 1, byte i)) ++
        [some (true, 1, 0x1A, 8, 0), some (false, 0, 1, 9, 0)] ∧
    t.panel.inds.toList.map (fun q => (q.source, q.operand)) =
      [(.focus, 0), (.focus, 1)] ++ List.replicate 6 (.nothing, 0) ++ [(.screenLoaned, 0)] ++ List.replicate 7 (.nothing, 0) ++
        [(.power, 0), (.power, 1)] ++ List.replicate 6 (.nothing, 0) ∧
    t.panel.keys.toList.map (fun k => (k.action, k.ops.target, k.ops.screen)) =
      [(.focus, 0, 0), (.focus, 1, 0)] ++ List.replicate 6 (.nothing, 0, 0) ++ [(.restore, 0, 0)] ++
        List.replicate 15 (.nothing, 0, 0) := by decide +kernel

theorem test_clear_done_clauses :
    State.reset.live ∧ State.reset.runState = .starting ∧ State.reset.xm.waiting = [] ∧ State.reset.xm.pendingSweep = false ∧
      desk.runState ≠ .starting :=
  ⟨⟨rfl, rfl⟩, by decide +kernel⟩

theorem test_clear_done :
    let t := after (.clearDone 9) State.reset
    t.runState = .running ∧ t.xm.sweepDue = some 2009 ∧ t.desk.lines[3].resetUntil = some 10009 ∧ t.xm.mem.read 0x040F = 1 ∧
      t.xm.mem.read 0x0400 = 0 ∧ t.comp.strobes.map (fun b => b.addr) = ids 30 ∧ t.comp.strobes.map Strobe.data = t.comp.xpoint.toList ∧
      (after (.clearDone 9) (atPace 1 { State.reset with xm := { State.reset.xm with pendingSweep := true } })).xm.sweepState = .sweeping 1 := by
  decide +kernel

theorem test_no_table_word_spells_a_command : State.reset.withFetchWord 16 5 = State.reset ∧ decodeTableWord 16 5 = none := ⟨rfl, rfl⟩

end Sys2Proof.Tests
end

section
/-! PROOFS. A KEYS frame's way through the part (R5 to R7): the line's last key state, the desk key state, the hotkey matcher (R72 to R80), and the focus controller (R63, R65). -/

namespace Sys2Proof.Machine

open Sys2Proof

/-! ## Codes of one state that another lacks -/

theorem exists_mem_and_not_mem_iff_without_ne_nil (a b : List Byte) : (∃ c ∈ a, c ∉ b) ↔ without a b ≠ [] := by
  simp [without, List.filter_eq_nil_iff]

theorem Keys.adds_iff (prev new : Keys) :
    prev.adds new = true ↔ (∃ c ∈ new.codes, c ∉ prev.codes) ∨ new.mods &&& ~~~prev.mods ≠ 0 := by
  rw [exists_mem_and_not_mem_iff_without_ne_nil]
  simp [Keys.adds]

/-! ## The accepted frame (R5, R6, R7) -/

/-- A line's record with the key state of a KEYS payload (R5). -/
def DeskLine.withKeys (p : List Byte) (r : DeskLine) : DeskLine :=
  { r with lastKeys := { mods := at8 p 0, codes := if isRollover p then [] else p.tail }, rollover := isRollover p }

theorem takeFrame_keys (l : LineId) (p : List Byte) (s : State) :
    takeFrame l .keys p s = recomputeKeys (modDeskLine l (DeskLine.withKeys p) s) := rfl

theorem arrive_of_accepted {l : LineId} {f : Frame} {k : FrameKind} {s : State} (hrun : s.runState ≠ .starting)
    (hline : s.desk.lines[l.1].resetUntil = none) (hf : f.accepted s.desk.lines[l.1].cls = some k) :
    arrive l f s = takeFrame l k f.payload s := by
  simp [arrive, State.lineDelivers, hrun, hline, hf]

/-- The unit with the desk key state that R6 gives it: the union, unless the unit is holding. -/
def DeskInput.recomputed (d : DeskInput) : DeskInput := { d with keys := if d.holding then d.keys else d.union }

theorem recomputeKeys_of_same {s : State} (h : s.desk.recomputed.keys = s.desk.keys) :
    recomputeKeys s = { s with desk := s.desk.recomputed } := by
  have hdesk : s.desk.recomputed = s.desk := by simp only [DeskInput.recomputed] at h ⊢; rw [h]
  rw [hdesk, recomputeKeys, if_pos]
  cases hold : s.desk.holding with
  | true => rfl
  | false => simpa [DeskInput.recomputed, hold] using h

theorem recomputeKeys_of_change {s : State} (h : s.desk.recomputed.keys ≠ s.desk.keys) :
    recomputeKeys s = handOff s.desk.keys s.desk.recomputed.keys { s with desk := s.desk.recomputed } := by
  cases hold : s.desk.holding with
  | true => exact absurd (by simp [DeskInput.recomputed, hold]) h
  | false =>
    have hne : s.desk.union ≠ s.desk.keys := by simpa [DeskInput.recomputed, hold] using h
    simp [recomputeKeys, DeskInput.recomputed, hold, hne]

theorem settle_settle (s : State) : settle (settle s) = settle s := settle_of_empty _ (settle_inbox s)

theorem settle_handOff (prev new : Keys) (s : State) : settle (handOff prev new s) = handOff prev new s := settle_settle _

theorem exec_keys_of_accepted {t : Nat} {l : LineId} {len check : Byte} {p : List Byte} {s : State} (hs : s.live)
    (hrun : s.runState ≠ .starting) (hline : s.desk.lines[l.1].resetUntil = none)
    (hf : ({ kind := 2, len := len, payload := p, check := check } : Frame).accepted s.desk.lines[l.1].cls = some .keys) :
    exec (.keys t l len p check) s =
      .next (settle (recomputeKeys (modDeskLine l (DeskLine.withKeys p) (s.advance t)))) := by
  have harrive : arrive l { kind := 2, len := len, payload := p, check := check } (s.advance t) =
      recomputeKeys (modDeskLine l (DeskLine.withKeys p) (s.advance t)) := by
    rw [arrive_of_accepted (s := s.advance t) hrun hline hf, takeFrame_keys]
  calc exec (.keys t l len p check) s
      = act t (arrive l { kind := 2, len := len, payload := p, check := check }) s := rfl
    _ = _ := by rw [act_live hs, harrive]

theorem deskKept_settle_recomputeKeys (l : LineId) (f : DeskLine → DeskLine) (s : State) :
    DeskKept s (settle (recomputeKeys (modDeskLine l f s))) :=
  ((worked_modDeskLine l f s).trans (worked_recomputeKeys _)).trans (kept_settle _).worked

theorem settle_recomputeKeys_desk (s : State) : (settle (recomputeKeys s)).desk = s.desk.recomputed := by
  rw [(kept_settle _).desk, recompute_desk]
  rfl

/-! ## The matcher's tests (R73, R75, R77) -/

theorem Hotkeys.isTap_iff (h : Hotkeys) (joined : List Byte) (new : Keys) :
    h.isTap joined new = true ↔
      h.leaderKey ≠ 0 ∧ joined = [h.leaderKey] ∧ new.codes = [h.leaderKey] ∧ new.mods = 0 := by
  simp [Hotkeys.isTap, and_assoc]

/-- Entry `i` is a chord entry that matches a joined code under a modifier set (R73). -/
def Hotkeys.Chord (h : Hotkeys) (mods : BitVec 8) (i : Fin 32) (c : Byte) : Prop :=
  h.table[i.1].enabled = true ∧ h.table[i.1].kind = 0 ∧ h.table[i.1].key = c ∧ h.table[i.1].mods = mods

/-- Entry `i` is a leader entry that matches a joined code (R77). -/
def Hotkeys.Leader (h : Hotkeys) (i : Fin 32) (c : Byte) : Prop :=
  h.table[i.1].enabled = true ∧ h.table[i.1].kind = 1 ∧ h.table[i.1].key = c

theorem chordMatch_iff_chord (h : Hotkeys) (mods : BitVec 8) (i : Fin 32) (c : Byte) :
    h.table[i.1].chordMatch mods c = true ↔ h.Chord mods i c := by
  simp [HotEntry.chordMatch, Hotkeys.Chord, and_assoc]

theorem leaderMatch_iff_leader (h : Hotkeys) (i : Fin 32) (c : Byte) :
    h.table[i.1].leaderMatch c = true ↔ h.Leader i c := by
  simp [HotEntry.leaderMatch, Hotkeys.Leader, and_assoc]

/-- Entry `i` is the first that matches: the first joined code that any entry matches, and the lowest entry for it (R74). -/
def IsFirstMatch (joined : List Byte) (m : Fin 32 → Byte → Prop) (i : Fin 32) : Prop :=
  ∃ before c after, joined = before ++ c :: after ∧ m i c ∧ (∀ d ∈ before, ∀ j, ¬m j d) ∧ ∀ j < i, ¬m j c

theorem find_ids_eq_some {n : Nat} {p : Fin n → Bool} {i : Fin n} (hi : p i = true) (hlt : ∀ j < i, ¬p j = true) :
    (ids n).find? p = some i := by
  rw [List.find?_eq_some_iff_getElem]
  refine ⟨hi, i.1, by simp [ids], by simp [ids], fun j hj => ?_⟩
  simpa [ids] using hlt ⟨j, hj.trans i.2⟩ hj

theorem find_ids_eq_none {n : Nat} {p : Fin n → Bool} (h : ∀ i, ¬p i = true) : (ids n).find? p = none :=
  List.find?_eq_none.2 fun i _ => h i

section FirstMatch

variable {h : Hotkeys} {test : HotEntry → Byte → Bool} {m : Fin 32 → Byte → Prop} {joined : List Byte}

theorem firstMatch_eq_some (hm : ∀ j c, test h.table[j.1] c = true ↔ m j c) {i : Fin 32} (hi : IsFirstMatch joined m i) :
    h.firstMatch test joined = some i := by
  obtain ⟨before, c, after, rfl, hic, hbefore, hlower⟩ := hi
  have hskip : before.findSome? (fun d => (ids 32).find? fun j => test h.table[j.1] d) = none :=
    List.findSome?_eq_none_iff.2 fun d hd => find_ids_eq_none fun j => mt (hm j d).1 (hbefore d hd j)
  have hfound : (ids 32).find? (fun j => test h.table[j.1] c) = some i :=
    find_ids_eq_some ((hm i c).2 hic) fun j hj => mt (hm j c).1 (hlower j hj)
  simp only [Hotkeys.firstMatch, List.findSome?_append, List.findSome?_cons, hskip, hfound, Option.none_or]

theorem firstMatch_eq_none (hm : ∀ j c, test h.table[j.1] c = true ↔ m j c) (hno : ∀ i, ∀ c ∈ joined, ¬m i c) :
    h.firstMatch test joined = none :=
  List.findSome?_eq_none_iff.2 fun c hc => find_ids_eq_none fun j => mt (hm j c).1 (hno j c hc)

end FirstMatch

theorem chordTest_of_first {joined : List Byte} {new : Keys} {s : State} {i : Fin 32}
    (hi : IsFirstMatch joined (s.hot.Chord new.mods) i) : chordTest joined new s = fire i s := by
  rw [chordTest, firstMatch_eq_some (chordMatch_iff_chord s.hot new.mods) hi]

theorem chordTest_of_none {joined : List Byte} {new : Keys} {s : State}
    (hno : ∀ i, ∀ c ∈ joined, ¬s.hot.Chord new.mods i c) : chordTest joined new s = s := by
  rw [chordTest, firstMatch_eq_none (chordMatch_iff_chord s.hot new.mods) hno]

/-! ## A pair taken by the matcher (R72 to R77) -/

theorem leaderDue_eq (s : State) : s.leaderDue = s.now + 1000 * s.hot.leaderWindow :=
  congrArg (s.now + ·) (Nat.mul_comm _ _)

section TakePair

variable {prev new : Keys} {s : State}

theorem takePair_of_none_joined (hj : without new.codes prev.codes = []) : takePair prev new s = s := by
  simp [takePair, hj]

variable (hj : without new.codes prev.codes ≠ [])
include hj

theorem takePair_idle (hs : s.hot.state = .idle) :
    takePair prev new s =
      if s.hot.isTap (without new.codes prev.codes) new then setMatcher (.leaderOne s.leaderDue) s
      else chordTest (without new.codes prev.codes) new s := by
  simp [takePair, hj, hs]

theorem takePair_leaderOne {d : Nat} (hs : s.hot.state = .leaderOne d) :
    takePair prev new s =
      if s.hot.isTap (without new.codes prev.codes) new then
        setMatcher (.armed s.leaderDue) (maskKey s.hot.leaderKey s)
      else chordTest (without new.codes prev.codes) new (setMatcher .idle s) := by
  simp [takePair, hj, hs]

theorem takePair_armed_of_first {d : Nat} (hs : s.hot.state = .armed d) {i : Fin 32}
    (hi : IsFirstMatch (without new.codes prev.codes) s.hot.Leader i) : takePair prev new s = fire i s := by
  simp [takePair, hj, hs, firstMatch_eq_some (leaderMatch_iff_leader s.hot) hi]

theorem takePair_armed_of_none {d : Nat} (hs : s.hot.state = .armed d)
    (hno : ∀ i, ∀ c ∈ without new.codes prev.codes, ¬s.hot.Leader i c) :
    takePair prev new s = chordTest (without new.codes prev.codes) new (setMatcher .idle s) := by
  simp [takePair, hj, hs, firstMatch_eq_none (leaderMatch_iff_leader s.hot) hno]

end TakePair

/-! ## An entry fires (R78 to R83) -/

theorem maskKey_eq (k : Byte) (s : State) :
    maskKey k s = { s with focus := { s.focus with masked := { s.focus.masked with
      codes := if k ∈ s.focus.masked.codes then s.focus.masked.codes else s.focus.masked.codes ++ [k] } } } := by
  simp [maskKey, modFocus]

/-- The state in which an entry that fires hands its action on: its key masked, the fire counted, the HOTKEY notice given (R78). -/
def firing (i : Fin 32) (s : State) : State :=
  notice .hotkey { maskKey s.hot.table[i.1].key s with hot := { s.hot with
    state := .idle, table := upd s.hot.table i (fun e => { e with fires := e.fires + 1 }), lastFired := some i } }

theorem fire_of_action {i : Fin 32} {s : State} {a : Action} (ha : hotAction s.hot.table[i.1].action = some a) :
    fire i s = dispatchAction .hotkey a s.hot.table[i.1].ops (firing i s) := by
  simp only [fire, ha]
  rfl

theorem asFin_val {n : Nat} (k : Fin n) : asFin n k.1 = some k := dif_pos k.2

theorem dispatchAction_focus (src : FocusSource) {o : Operands} {k : TargetId} (hk : o.target.toNat = k.1) (s : State) :
    dispatchAction src .focus o s = settle (post (.request src (.target k)) s) := by
  simp only [dispatchAction, focusAction, hk, asFin_val, askFocus]

theorem dispatchAction_pinToggle (src : FocusSource) (o : Operands) (s : State) :
    dispatchAction src .pinToggle o s =
      focusToPanel (notice .focus { s with focus := { s.focus with pin := !s.focus.pin } }) := by
  have hne : s.focus.pin ≠ !s.focus.pin := by simp
  simp only [dispatchAction, setPin, if_neg hne]
  rfl

/-! ## The focus controller takes the change (R63, R65) -/

theorem takeKeyChange_nobody {prev new : Keys} {s : State} (hs : s.focus.st = .nobody) : takeKeyChange prev new s = s := by
  simp [takeKeyChange, hs]

theorem takeKeyChange_focused {prev new : Keys} {s : State} {k : TargetId} (hs : s.focus.st = .focused k) :
    takeKeyChange prev new s = sendKeys k s := by
  simp [takeKeyChange, hs]

theorem takeKeyChange_pending {prev new : Keys} {s : State} {k : TargetId} (hs : s.focus.st = .pending k) :
    takeKeyChange prev new s = if prev.adds new then settle (wakeOnInput s) else s := by
  simp [takeKeyChange, hs]

theorem cause_eq_lost_iff {f : Focus} {k : TargetId} (hf : f.st = .pending k) :
    f.cause = some .lost ↔ f.wakeOut = false ∧ f.bringOut = none := by
  cases hw : f.wakeOut <;> cases hb : f.bringOut <;> simp [Focus.cause, hf, hw, hb]

/-- Focus on `k` is lost while `k` sleeps and no wake of it is under way, so that input asks for its wake (R65). -/
def State.AsksWake (s : State) (k : TargetId) : Prop :=
  s.focus.wakeOut = false ∧ s.focus.bringOut = none ∧ s.focus.view[k.1].power = .asleep ∧ s.wakes[k.1].state = .idle

theorem wakeOnInput_pending {s : State} {k : TargetId} (hs : s.focus.st = .pending k) :
    wakeOnInput s =
      if s.focus.cause = some .lost ∧ s.focus.view[k.1].power = .asleep ∧ s.wakes[k.1].state = .idle then
        requestWake k .focus (focusRecordChanged (modFocus (fun f => { f with wakeOut := true }) s))
      else s := by
  simp only [wakeOnInput, hs]

theorem wakeOnInput_of_asksWake {s : State} {k : TargetId} (hs : s.focus.st = .pending k) (h : s.AsksWake k) :
    wakeOnInput s =
      requestWake k .focus (focusToPanel (notice .focus { s with focus := { s.focus with wakeOut := true } })) := by
  obtain ⟨hwake, hbring, hpower, hidle⟩ := h
  exact (wakeOnInput_pending hs).trans (if_pos ⟨(cause_eq_lost_iff hs).2 ⟨hwake, hbring⟩, hpower, hidle⟩)

theorem wakeOnInput_of_not_asksWake {s : State} {k : TargetId} (hs : s.focus.st = .pending k) (h : ¬s.AsksWake k) :
    wakeOnInput s = s := by
  rw [wakeOnInput_pending hs]
  refine if_neg fun ⟨hcause, hpower, hidle⟩ => h ?_
  obtain ⟨hwake, hbring⟩ := (cause_eq_lost_iff hs).1 hcause
  exact ⟨hwake, hbring, hpower, hidle⟩

/-! ## The obligation -/

/-- Settles O15: the frame's work is followed from the line's record to the desk key state, and from there through the matcher's states and the focus controller's, one lemma for each of their cases. -/
theorem keysFrameReplacesKeyState : Obligations.KeysFrameReplacesKeyState := by
  unfold Obligations.KeysFrameReplacesKeyState
  refine ⟨?frame, ?pair, maskKey_eq, ?fires, ?change⟩
  case frame =>
    intro t l len check p s hs hrun hline hf rolled r' taken desk
    have hempty : (s.advance t).focus.inbox = [] := hs.2
    refine ⟨_, exec_keys_of_accepted hs hrun hline hf, deskKept_settle_recomputeKeys _ _ _,
      settle_recomputeKeys_desk _, fun hsame => ?_, fun hchange => ?_⟩
    · rw [recomputeKeys_of_same (s := modDeskLine l (DeskLine.withKeys p) (s.advance t)) hsame]
      exact settle_of_empty _ hempty
    · rw [recomputeKeys_of_change (s := modDeskLine l (DeskLine.withKeys p) (s.advance t)) hchange, settle_handOff]
      rfl
  case pair =>
    intro prev new s r joined idle tap due chord leader first tested
    have hdue : s.leaderDue = due := leaderDue_eq s
    have htap : s.hot.isTap joined new = true ↔ tap := s.hot.isTap_iff joined new
    have htested (v : State) (hv : v.hot.table = s.hot.table) (hr : r = chordTest joined new v) : tested v := by
      have hchord : v.hot.Chord new.mods = chord := by unfold Hotkeys.Chord; rw [hv]
      exact ⟨fun i hi => hr.trans (chordTest_of_first (by rw [hchord]; exact hi)),
        fun hno => hr.trans (chordTest_of_none (by rw [hchord]; exact hno))⟩
    refine ⟨takePair_of_none_joined, fun hj => ⟨fun hidle => ⟨fun h => ?_, fun h => ?_⟩,
      fun d hone => ⟨fun h => ?_, fun h => ?_⟩, fun d harmed => ⟨fun i hi => ?_, fun hno => ?_⟩⟩⟩
    · rw [← hdue]
      exact (takePair_idle hj hidle).trans (if_pos (htap.2 h))
    · exact htested s rfl ((takePair_idle hj hidle).trans (if_neg (mt htap.1 h)))
    · rw [← hdue]
      exact (takePair_leaderOne hj hone).trans (if_pos (htap.2 h))
    · exact htested _ rfl ((takePair_leaderOne hj hone).trans (if_neg (mt htap.1 h)))
    · exact takePair_armed_of_first hj harmed hi
    · exact htested _ rfl (takePair_armed_of_none hj harmed hno)
  case fires =>
    intro i s e v asks
    have hfire {b : Byte} {a : Action} (hb : e.action = b) (ha : hotAction b = some a) :
        fire i s = dispatchAction .hotkey a e.ops v := fire_of_action (hb ▸ ha)
    exact ⟨fun k h hk => (hfire h rfl).trans (dispatchAction_focus _ hk _), fun h => hfire h rfl, fun h => hfire h rfl,
      fun h => hfire h rfl, fun h => hfire h rfl, fun h => hfire h rfl, fun h => hfire h rfl,
      fun h => (hfire h rfl).trans (dispatchAction_pinToggle _ _ _), fun h => hfire h rfl⟩
  case change =>
    intro prev new s
    refine ⟨takeKeyChange_nobody, fun k hk => takeKeyChange_focused hk, fun k hk => ⟨fun hpress hasks => ?_, ?_⟩⟩
    · rw [takeKeyChange_pending hk, if_pos ((prev.adds_iff new).2 hpress), wakeOnInput_of_asksWake hk hasks]
    · intro hempty hnot
      rw [takeKeyChange_pending hk]
      rcases hnot with hpress | hasks
      · exact if_neg (mt (prev.adds_iff new).1 hpress)
      · rw [wakeOnInput_of_not_asksWake hk hasks, settle_of_empty s hempty, ite_self]

end Sys2Proof.Machine
end

section
/-! PROOFS. The tiles of a screen (R39): the table of the rule as a relation, the tile of a point, and that a screen's tiles hold each of its points exactly once. -/

namespace Sys2Proof.Machine

open Sys2Proof

/-! ## The table of R39 -/

/-- The rows of R39: the tiles of each layout kind on a screen of size W by H, one constructor for each. -/
inductive IsTile (W H : Nat) : Layout → Fin 4 → Rect → Prop
  | fullScreen : IsTile W H .full 0 ⟨0, 0, W, H⟩
  | pairLeft : IsTile W H .pair 0 ⟨0, 0, W / 2, H⟩
  | pairRight : IsTile W H .pair 1 ⟨W / 2, 0, W - W / 2, H⟩
  | stackTop : IsTile W H .stack 0 ⟨0, 0, W, H / 2⟩
  | stackBottom : IsTile W H .stack 1 ⟨0, H / 2, W, H - H / 2⟩
  | quadTopLeft : IsTile W H .quad 0 ⟨0, 0, W / 2, H / 2⟩
  | quadTopRight : IsTile W H .quad 1 ⟨W / 2, 0, W - W / 2, H / 2⟩
  | quadBottomLeft : IsTile W H .quad 2 ⟨0, H / 2, W / 2, H - H / 2⟩
  | quadBottomRight : IsTile W H .quad 3 ⟨W / 2, H / 2, W - W / 2, H - H / 2⟩
  | trioLeft : IsTile W H .trio 0 ⟨0, 0, W / 2, H⟩
  | trioTopRight : IsTile W H .trio 1 ⟨W / 2, 0, W - W / 2, H / 2⟩
  | trioBottomRight : IsTile W H .trio 2 ⟨W / 2, H / 2, W - W / 2, H - H / 2⟩

theorem tileOf_of_isTile {W H : Nat} {l : Layout} {i : Fin 4} {r : Rect} (h : IsTile W H l i r) :
    tileOf l W H i = some r := by
  cases h <;> rfl

theorem isTile_of_tileOf {W H : Nat} {r : Rect} : ∀ {l : Layout} {i : Fin 4}, tileOf l W H i = some r → IsTile W H l i r
  | .full, 0, rfl => .fullScreen
  | .pair, 0, rfl => .pairLeft
  | .pair, 1, rfl => .pairRight
  | .stack, 0, rfl => .stackTop
  | .stack, 1, rfl => .stackBottom
  | .quad, 0, rfl => .quadTopLeft
  | .quad, 1, rfl => .quadTopRight
  | .quad, 2, rfl => .quadBottomLeft
  | .quad, 3, rfl => .quadBottomRight
  | .trio, 0, rfl => .trioLeft
  | .trio, 1, rfl => .trioTopRight
  | .trio, 2, rfl => .trioBottomRight

/-- Half a span of at least 2·n is at least n, rounded down or up, so a tile is no smaller than half the screen each way. -/
theorem IsTile.half_le {W H m n : Nat} {l : Layout} {i : Fin 4} {r : Rect} (h : IsTile W H l i r)
    (hW : 2 * m ≤ W) (hH : 2 * n ≤ H) : m ≤ r.w ∧ n ≤ r.h := by
  have hwL : m ≤ W / 2 := by omega
  have hwR : m ≤ W - W / 2 := by omega
  have hhT : n ≤ H / 2 := by omega
  have hhB : n ≤ H - H / 2 := by omega
  have hw : m ≤ W := by omega
  have hh : n ≤ H := by omega
  cases h <;> constructor <;> assumption

/-! ## The points of a tile -/

theorem Rect.contains_iff (r : Rect) (x y : Nat) :
    r.contains x y = true ↔ (r.x ≤ x ∧ x < r.x + r.w) ∧ (r.y ≤ y ∧ y < r.y + r.h) := by
  simp only [Rect.contains, decide_eq_true_eq]
  omega

theorem Rect.contains_iff_le_sub_one (r : Rect) (x y : Nat) :
    r.contains x y = true ↔ r.x ≤ x ∧ (x : Int) ≤ r.x + r.w - 1 ∧ r.y ≤ y ∧ (y : Int) ≤ r.y + r.h - 1 := by
  rw [Rect.contains_iff]
  omega

/-- The index of the tile that holds a point of the screen: the halves the point lies in, among those the layout kind tells apart. -/
def tileAt (W H x y : Nat) : Layout → Fin 4
  | .full => 0
  | .pair => if x < W / 2 then 0 else 1
  | .stack => if y < H / 2 then 0 else 1
  | .quad => if y < H / 2 then (if x < W / 2 then 0 else 1) else (if x < W / 2 then 2 else 3)
  | .trio => if x < W / 2 then 0 else if y < H / 2 then 1 else 2

/-- A point of a span lies in its right (or lower) half where it does not lie in the left (or upper) one. -/
theorem mem_upper_half_iff {a n : Nat} (h : a < n) : (n / 2 ≤ a ∧ a < n / 2 + (n - n / 2)) ↔ ¬a < n / 2 := by
  omega

/-- A tile holds exactly the points of the screen that `tileAt` gives to it. -/
theorem IsTile.contains_iff_tileAt {W H x y : Nat} {l : Layout} {i : Fin 4} {r : Rect} (h : IsTile W H l i r)
    (hx : x < W) (hy : y < H) : r.contains x y = true ↔ tileAt W H x y l = i := by
  have hright := mem_upper_half_iff hx
  have hbottom := mem_upper_half_iff hy
  by_cases hleft : x < W / 2 <;> by_cases htop : y < H / 2 <;>
    cases h <;> simp [Rect.contains_iff, tileAt, hright, hbottom, hleft, htop, hx, hy]

/-- Each point of the screen is given to an index that has a tile. -/
theorem exists_isTile_tileAt (W H x y : Nat) (l : Layout) : ∃ r, IsTile W H l (tileAt W H x y l) r := by
  cases l with
  | full => exact ⟨_, .fullScreen⟩
  | pair =>
    simp only [tileAt]
    split
    · exact ⟨_, .pairLeft⟩
    · exact ⟨_, .pairRight⟩
  | stack =>
    simp only [tileAt]
    split
    · exact ⟨_, .stackTop⟩
    · exact ⟨_, .stackBottom⟩
  | quad =>
    simp only [tileAt]
    split_ifs
    · exact ⟨_, .quadTopLeft⟩
    · exact ⟨_, .quadTopRight⟩
    · exact ⟨_, .quadBottomLeft⟩
    · exact ⟨_, .quadBottomRight⟩
  | trio =>
    simp only [tileAt]
    split_ifs
    · exact ⟨_, .trioLeft⟩
    · exact ⟨_, .trioTopRight⟩
    · exact ⟨_, .trioBottomRight⟩

/-- The tiles of a layout kind cover the screen, and no two of them share a point of it. -/
theorem exists_unique_tile_contains (l : Layout) {W H x y : Nat} (hx : x < W) (hy : y < H) :
    ∃ i r, tileOf l W H i = some r ∧ r.contains x y = true ∧
      ∀ j q, tileOf l W H j = some q → q.contains x y = true → j = i := by
  obtain ⟨r, hr⟩ := exists_isTile_tileAt W H x y l
  refine ⟨tileAt W H x y l, r, tileOf_of_isTile hr, (hr.contains_iff_tileAt hx hy).2 rfl, fun j q hq hin => ?_⟩
  exact (((isTile_of_tileOf hq).contains_iff_tileAt hx hy).1 hin).symm

/-! ## The obligation -/

/-- Settles O24: the lists are the table of R39 row by row; a point of the screen lies in the tile of the halves it is in and in no other; halves of 320 and 200 are at least 160 and 100. -/
theorem tilesCoverScreenExactly : Obligations.TilesCoverScreenExactly := by
  unfold Obligations.TilesCoverScreenExactly
  intro W H hW hH wL wR hT hB
  refine ⟨rfl, rfl, rfl, rfl, rfl, fun l x y => exists_unique_tile_contains l, ?smallest, Rect.contains_iff_le_sub_one, ?desk⟩
  case smallest =>
    intro l i r hr
    exact (isTile_of_tileOf hr).half_le hW hH
  case desk =>
    rintro s sc i rfl rfl
    rfl

end Sys2Proof.Machine
end

section
/-! PROOFS. INDICATOR_SET (R165): the byte ranges of its six parameters, the operand against what the straps fit, and what its owner does in each case. -/

namespace Sys2Proof.Machine

open Sys2Proof

/-! ## The bytes of sources, patterns and levels -/

theorem IndSource.ofByte_code (src : IndSource) : IndSource.ofByte src.code = some src := by
  cases src <;> rfl

theorem IndSource.ofByte_eq_none_iff (b : Byte) : IndSource.ofByte b = none ↔ 7 ≤ b.toNat := by
  unfold IndSource.ofByte
  split
  case h_8 => exact iff_of_true rfl (by grind)
  all_goals exact iff_of_false nofun (by omega)

theorem IndSource.code_of_ofByte {b : Byte} {src : IndSource} (h : IndSource.ofByte b = some src) : b = src.code := by
  unfold IndSource.ofByte at h
  apply BitVec.eq_of_toNat_eq
  split at h <;> cases h <;> assumption

theorem IndSource.exists_code_of_lt {b : Byte} (h : b.toNat < 7) : ∃ src : IndSource, b = src.code := by
  have hne : IndSource.ofByte b ≠ none := mt (IndSource.ofByte_eq_none_iff b).1 (not_le.2 h)
  obtain ⟨src, hsrc⟩ := Option.ne_none_iff_exists'.1 hne
  exact ⟨src, IndSource.code_of_ofByte hsrc⟩

theorem Pattern.ofByte_code (pat : Pattern) : Pattern.ofByte pat.code = some pat := by
  cases pat <;> rfl

theorem Pattern.ofByte_isSome_iff (b : Byte) : (Pattern.ofByte b).isSome = true ↔ b.toNat < 3 := by
  unfold Pattern.ofByte
  split
  case h_4 => exact iff_of_false nofun (by grind)
  all_goals exact iff_of_true rfl (by omega)

theorem boolOf_isNone_iff (b : Byte) : (boolOf b).isNone = true ↔ 2 ≤ b.toNat := by
  unfold boolOf
  split_ifs with h0 h1
  · simp [h0]
  · simp [h1]
  · have h0 : b.toNat ≠ 0 := fun h => h0 (BitVec.eq_of_toNat_eq h)
    have h1 : b.toNat ≠ 1 := fun h => h1 (BitVec.eq_of_toNat_eq h)
    exact iff_of_true rfl (by omega)

/-! ## The operand of a source -/

/-- The source byte names a source that reads a target (1 to 3) or a screen (4), and the operand numbers one beyond so many targets or screens. -/
def OperandBeyond (targets screens : Nat) (src operand : Byte) : Prop :=
  ((src.toNat = 1 ∨ src.toNat = 2 ∨ src.toNat = 3) ∧ targets ≤ operand.toNat) ∨ (src.toNat = 4 ∧ screens ≤ operand.toNat)

theorem IndSource.operandInRange_iff (src : IndSource) (o : Byte) :
    src.operandInRange o = true ↔ ¬OperandBeyond 8 6 src.code o := by
  cases src <;> simp [IndSource.operandInRange, OperandBeyond, IndSource.code]

theorem IndSource.operandFitted_iff (s : State) (src : IndSource) (o : Byte) :
    src.operandFitted s o = true ↔ ¬OperandBeyond s.straps.targets s.straps.screens src.code o := by
  cases src <;> simp [IndSource.operandFitted, OperandBeyond, IndSource.code]

/-! ## The checks of R165 -/

/-- The range checks of R165 after the position: source, operand, intensity, pattern and host level. -/
def IndicatorFieldsInRange (p : List Byte) : Prop :=
  (at8 p 1).toNat < 7 ∧ ¬OperandBeyond 8 6 (at8 p 1) (at8 p 2) ∧ (at8 p 3).toNat ≤ 15 ∧ (at8 p 4).toNat < 3 ∧ (at8 p 5).toNat < 2

theorem indicatorInRange_iff (src operand intensity pattern : Byte) :
    indicatorInRange src operand intensity pattern = true ↔
      src.toNat < 7 ∧ ¬OperandBeyond 8 6 src operand ∧ intensity.toNat ≤ 15 ∧ pattern.toNat < 3 := by
  by_cases h : src.toNat < 7
  · obtain ⟨i, rfl⟩ := IndSource.exists_code_of_lt h
    simp [indicatorInRange, IndSource.ofByte_code, IndSource.operandInRange_iff, Pattern.ofByte_isSome_iff, h, and_assoc]
  · simp [indicatorInRange, (IndSource.ofByte_eq_none_iff src).2 (by omega), h]

section Checks

variable {s : State} {p : List Byte}

theorem indicatorRefusal_of_out_of_range (h : ¬IndicatorFieldsInRange p) : indicatorRefusal s p = some .badParam := by
  rw [indicatorRefusal, if_pos]
  rw [boolOf_isNone_iff, ← Bool.not_eq_true, indicatorInRange_iff]
  by_contra hpass
  obtain ⟨hlevel, hfields⟩ := not_or.1 hpass
  obtain ⟨hsrc, hop, hint, hpat⟩ := not_not.1 hfields
  exact h ⟨hsrc, hop, hint, hpat, not_le.1 hlevel⟩

/-- With every field in range the fitting of the operand alone decides. -/
theorem indicatorRefusal_of_in_range (h : IndicatorFieldsInRange p) {src : IndSource} (hcode : at8 p 1 = src.code) :
    indicatorRefusal s p = if src.operandFitted s (at8 p 2) then none else some .notFitted := by
  obtain ⟨hsrc, hop, hint, hpat, hlevel⟩ := h
  rw [indicatorRefusal, if_neg, hcode, IndSource.ofByte_code]
  rw [boolOf_isNone_iff, ← Bool.not_eq_true, indicatorInRange_iff, not_or, not_not]
  exact ⟨not_le.2 hlevel, hsrc, hop, hint, hpat⟩

theorem indicatorRefusal_of_unfitted (h : IndicatorFieldsInRange p)
    (hop : OperandBeyond s.straps.targets s.straps.screens (at8 p 1) (at8 p 2)) :
    indicatorRefusal s p = some .notFitted := by
  obtain ⟨src, hcode⟩ := IndSource.exists_code_of_lt h.1
  rw [indicatorRefusal_of_in_range h hcode, if_neg]
  rwa [IndSource.operandFitted_iff, not_not, ← hcode]

theorem indicatorRefusal_of_fitted (h : IndicatorFieldsInRange p)
    (hop : ¬OperandBeyond s.straps.targets s.straps.screens (at8 p 1) (at8 p 2)) : indicatorRefusal s p = none := by
  obtain ⟨src, hcode⟩ := IndSource.exists_code_of_lt h.1
  rw [indicatorRefusal_of_in_range h hcode, if_pos]
  rwa [IndSource.operandFitted_iff, ← hcode]

end Checks

/-! ## What the owner does -/

/-- The position's indicator takes the five fields, and the PANEL mirror is rewritten in place. -/
def setIndicator (pos : PosId) (i : Indicator) (s : State) : State :=
  rewriteMirror .panel { s with panel := { s.panel with inds := upd s.panel.inds pos fun _ => i } }

section OwnerCases

variable {s : State} {p : List Byte} {c : CellId} {pos : PosId}

theorem ownIndicatorSet_of_bad_position (h : 24 ≤ (at8 p 0).toNat) :
    ownIndicatorSet c p s = complete c .badParam [] s := by
  rw [ownIndicatorSet, show asFin 24 (at8 p 0).toNat = none from dif_neg (not_lt.2 h)]

theorem ownIndicatorSet_of_refusal {r : Result} (hpos : (at8 p 0).toNat = pos.1) (hr : indicatorRefusal s p = some r) :
    ownIndicatorSet c p s = complete c r [] s := by
  rw [ownIndicatorSet, hpos, asFin_val, hr]

theorem ownIndicatorSet_of_accepted {src : IndSource} {pat : Pattern} (hpos : (at8 p 0).toNat = pos.1)
    (hr : indicatorRefusal s p = none) (hsrc : at8 p 1 = src.code) (hpat : at8 p 4 = pat.code) :
    ownIndicatorSet c p s = complete c .ok (p.take 6) (setIndicator pos
      { source := src, operand := at8 p 2, intensity := (at8 p 3).toNat, pattern := pat, hostLevel := decide (at8 p 5 = 1) } s) := by
  rw [ownIndicatorSet, hpos, asFin_val, hr]
  simp only [indicatorOf, hsrc, hpat, IndSource.ofByte_code, Pattern.ofByte_code, Option.getD_some]
  rfl

end OwnerCases

/-! ## The command -/

theorem complete_focus (c : CellId) (r : Result) (data : List Byte) (s : State) : (complete c r data s).focus = s.focus := by
  unfold complete
  split <;> rfl

theorem ownIndicatorSet_focus (c : CellId) (p : List Byte) (s : State) : (ownIndicatorSet c p s).focus = s.focus := by
  unfold ownIndicatorSet
  split
  · exact complete_focus ..
  · split <;> exact complete_focus ..

theorem exec_indicatorSet_of_ready {t : Nat} {c : CellId} {s : State} (h : s.commandReady c 0x0F) :
    exec (.indicatorSet t c) s = .next (ownIndicatorSet c (s.cellParams c) (take c (s.advance t))) := by
  have hempty : (ownIndicatorSet c (s.cellParams c) (take c (s.advance t))).focus.inbox = [] := by
    rw [ownIndicatorSet_focus]
    exact h.1.2
  exact takeCell_quiet h hempty

theorem cellParams_take_six (s : State) (c : CellId) :
    (s.cellParams c).take 6 = [s.param c 0, s.param c 1, s.param c 2, s.param c 3, s.param c 4, s.param c 5] := by
  rw [State.cellParams, Memory.block_eq]
  rfl

theorem indicatorFieldsInRange_cellParams_iff (s : State) (c : CellId) :
    IndicatorFieldsInRange (s.cellParams c) ↔
      (s.param c 1).toNat < 7 ∧ ¬OperandBeyond 8 6 (s.param c 1) (s.param c 2) ∧ (s.param c 3).toNat ≤ 15 ∧
        (s.param c 4).toNat < 3 ∧ (s.param c 5).toNat < 2 := by
  simp [IndicatorFieldsInRange, cellParams_at8]

/-- Settles O54: the owner's refusal is followed through its checks, position first, then the ranges of the other fields, then the fitting of the operand; a command that passes them all sets the indicator. -/
theorem indicatorSetWritesIndicator : Obligations.IndicatorSetWritesIndicator := by
  unfold Obligations.IndicatorSetWritesIndicator
  intro t c s hready u p n ofTarget bad unfitted
  have hp (i : Nat) (hi : i < 52) : at8 (s.cellParams c) i = p i := cellParams_at8 s c i hi
  have hpos : (at8 (s.cellParams c) 0).toNat = n 0 := congrArg BitVec.toNat (hp 0 (by omega))
  have hunfitted : unfitted ↔ OperandBeyond u.straps.targets u.straps.screens (at8 (s.cellParams c) 1) (at8 (s.cellParams c) 2) := by
    rw [hp 1 (by omega), hp 2 (by omega)]
    rfl
  have hbad : bad ↔ 24 ≤ n 0 ∨ ¬IndicatorFieldsInRange (s.cellParams c) := by
    rw [indicatorFieldsInRange_cellParams_iff]
    simp only [bad, ofTarget, OperandBeyond, n]
    omega
  rw [exec_indicatorSet_of_ready hready, hbad, hunfitted, not_or, not_not]
  refine ⟨?refusedBad, ?refusedUnfitted, ?accepted⟩
  case refusedBad =>
    intro hout
    by_cases hbadPos : 24 ≤ n 0
    · rw [ownIndicatorSet_of_bad_position (hpos ▸ hbadPos)]
    · have hfields := hout.resolve_left hbadPos
      rw [ownIndicatorSet_of_refusal (pos := ⟨n 0, not_le.1 hbadPos⟩) hpos (indicatorRefusal_of_out_of_range hfields)]
  case refusedUnfitted =>
    rintro ⟨hlt, hfields⟩ hop
    rw [ownIndicatorSet_of_refusal (pos := ⟨n 0, not_le.1 hlt⟩) hpos (indicatorRefusal_of_unfitted hfields hop)]
  case accepted =>
    rintro ⟨-, hfields⟩ hop i src pat hi hsrc hpat
    rw [ownIndicatorSet_of_accepted (hpos.trans hi) (indicatorRefusal_of_fitted hfields hop)
      ((hp 1 (by omega)).trans hsrc) ((hp 4 (by omega)).trans hpat), cellParams_take_six, hp 2 (by omega), hp 3 (by omega),
      hp 5 (by omega)]
    rfl

end Sys2Proof.Machine
end

section
/-! PROOFS. What every step keeps: the laws carried through a command, a tick and the two commands of RESET_N once, and each law of Safety as an instance. -/

namespace Sys2Proof.Machine

open Sys2Proof

/-! ## The outcome of a command -/

/-- A command that is neither of the two of RESET_N keeps the laws. -/
theorem exec_lawful (c : Instr) (s : State) (h1 : ∀ t, c ≠ .powerOnReset t) (h2 : ∀ t a b g p, c ≠ .resetRelease t a b g p) :
    ∃ u, exec c s = .next u ∧ Lawful (s.advance c.time) u := by
  by_cases h3 : ∃ t sc l, c = .screenPresenceInputChange t sc l
  · obtain ⟨t, sc, l, rfl⟩ := h3
    exact next_screenPresenceInputChange t sc l s
  · exact (acts_exec c h1 h2 fun t sc l h => h3 ⟨t, sc, l, h⟩).next s

theorem exec_powerOnReset (t : Nat) (s : State) :
    exec (.powerOnReset t) s = .next { overPowerOn (s.advance t) s.straps 0 with resetAsserted := true } := rfl

theorem exec_resetRelease (t : Nat) (a b : BitVec 3) (g : Bool) (p : BitVec 8) (s : State) :
    exec (.resetRelease t a b g p) s = .next (overPowerOn (s.advance t) (strapsOf a b g) p) := rfl

/-- The three ways of a command: the assertion of RESET_N, its release, and all others. -/
theorem exec_cases (c : Instr) (s : State) :
    exec c s = .next { overPowerOn (s.advance c.time) s.straps 0 with resetAsserted := true } ∨
    (∃ a b g p, exec c s = .next (overPowerOn (s.advance c.time) (strapsOf a b g) p)) ∨
    ∃ u, exec c s = .next u ∧ Lawful (s.advance c.time) u := by
  by_cases h1 : ∃ t, c = .powerOnReset t
  · obtain ⟨t, rfl⟩ := h1
    exact .inl (exec_powerOnReset t s)
  by_cases h2 : ∃ t a b g p, c = .resetRelease t a b g p
  · obtain ⟨t, a, b, g, p, rfl⟩ := h2
    exact .inr (.inl ⟨a, b, g, p, exec_resetRelease t a b g p s⟩)
  exact .inr (.inr (exec_lawful c s (fun t h => h1 ⟨t, h⟩) fun t a b g p h => h2 ⟨t, a, b, g, p, h⟩))

theorem step_of_empty {s : State} (h : s.pending = []) : step s = .next (if s.resetAsserted then s else tick s) := by
  unfold step
  rw [h]

theorem step_of_command {s : State} {c : Instr} {cs : List Instr} (h : s.pending = c :: cs) :
    step s = exec c { s with pending := cs } := by
  unfold step
  rw [h]

theorem not_busy_of_idle {s : State} (hrun : ∀ c k, s.runState ≠ .restarting c k) (hsweep : s.xm.sweepState = .idle) :
    s.busy = false := by
  unfold State.busy
  rw [hsweep]
  cases hr : s.runState with
  | restarting c k => exact absurd hr (hrun c k)
  | starting | running => rfl

/-- Settles O1. -/
theorem stepRunsFrontCommand : Obligations.StepRunsFrontCommand := by
  unfold Obligations.StepRunsFrontCommand
  refine ⟨fun c cs s h => step_of_command h, fun s h => ⟨step_of_empty h, fun hrun hsweep => ?_⟩⟩
  rw [step_of_empty h, tick_idle s (not_busy_of_idle hrun hsweep), ite_self]

/-- Settles O2: a command that keeps the laws keeps the queue and the count it starts from, and so do the two of RESET_N. -/
theorem everyCommandAnswersNext : Obligations.EveryCommandAnswersNext := by
  unfold Obligations.EveryCommandAnswersNext
  intro c s
  obtain h | ⟨a, b, g, p, h⟩ | ⟨u, h, hlaw⟩ := exec_cases c s
  · exact ⟨_, h, rfl, rfl⟩
  · exact ⟨_, h, rfl, rfl⟩
  · have hfixed := hlaw.fixed
    simp only [State.fixed, Prod.mk.injEq] at hfixed
    exact ⟨u, h, hfixed.1, hfixed.2.1⟩

/-! ## A law through a step -/

/-- A law that a lawful operation keeps, that does not speak of the queue or the count, and that the two commands of RESET_N keep. -/
structure StepLaw (P : State → Prop) : Prop where
  lawful : ∀ s t, Lawful s t → P s → P t
  queue : ∀ s cs t, P s → P (({ s with pending := cs } : State).advance t)
  assert : ∀ s, P s → P { overPowerOn s s.straps 0 with resetAsserted := true }
  release : ∀ s a b g p, P s → P (overPowerOn s (strapsOf a b g) p)

theorem StepLaw.step {P : State → Prop} (hP : StepLaw P) {s t : State} (hs : P s) (h : step s = .next t) : P t := by
  cases hq : s.pending with
  | nil =>
    rw [step_of_empty hq] at h
    cases h
    split
    · exact hs
    · exact hP.lawful _ _ (lawful_tick s) hs
  | cons c cs =>
    rw [step_of_command hq] at h
    have hs' := hP.queue s cs c.time hs
    obtain he | ⟨a, b, g, p, he⟩ | ⟨u, he, hlaw⟩ := exec_cases c { s with pending := cs }
    all_goals
      rw [he] at h
      cases h
    · exact hP.assert _ hs'
    · exact hP.release _ a b g p hs'
    · exact hP.lawful _ _ hlaw hs'

/-! ## The power-on values obey the laws -/

theorem powerOn_queuesBounded (st : Straps) (p : BitVec 8) : (State.powerOn st p).queuesBounded := by
  intro k
  simp [State.powerOn, TargetLine.initial]

theorem powerOn_residualsBounded (st : Straps) (p : BitVec 8) : (State.powerOn st p).residualsBounded := by
  simp [State.residualsBounded, State.powerOn, CursorEngine.initial]

theorem powerOn_goodCounts (st : Straps) (p : BitVec 8) : (State.powerOn st p).goodCounts := by
  intro h
  simp [State.powerOn, HeadRec.initial]

theorem powerOn_inWorkDistinct (st : Straps) (p : BitVec 8) : (State.powerOn st p).inWorkDistinct := List.nodup_nil

theorem powerOn_restartQuiet (st : Straps) (p : BitVec 8) : (State.powerOn st p).restartQuiet := nofun

theorem strapsOf_legal (a b : BitVec 3) (g : Bool) :
    1 ≤ (strapsOf a b g).screens ∧ (strapsOf a b g).screens ≤ 6 ∧ 1 ≤ (strapsOf a b g).targets ∧ (strapsOf a b g).targets ≤ 8 := by
  simp only [strapsOf]
  omega

theorem Lawful.straps {s t : State} (h : Lawful s t) : t.straps = s.straps := congrArg (·.2.2.2) h.fixed

/-! ## The laws -/

/-- Settles O3. -/
theorem stepKeepsMemoryCanonical : Obligations.StepKeepsMemoryCanonical := by
  have hlaw : StepLaw State.memoryCanonical := ⟨fun _ _ h => h.canonical, fun _ _ _ => id, fun _ => id, fun _ _ _ _ _ => id⟩
  exact fun _ _ => hlaw.step

/-- Settles O4. -/
theorem stepKeepsQueuesBounded : Obligations.StepKeepsQueuesBounded := by
  have hlaw : StepLaw State.queuesBounded :=
    ⟨fun _ _ h => h.queues, fun _ _ _ => id, fun s _ => powerOn_queuesBounded s.straps 0,
      fun _ a b g p _ => powerOn_queuesBounded (strapsOf a b g) p⟩
  exact fun _ _ => hlaw.step

/-- Settles O5. -/
theorem stepKeepsResidualsBounded : Obligations.StepKeepsResidualsBounded := by
  have hlaw : StepLaw State.residualsBounded :=
    ⟨fun _ _ h => h.residuals, fun _ _ _ => id, fun s _ => powerOn_residualsBounded s.straps 0,
      fun _ a b g p _ => powerOn_residualsBounded (strapsOf a b g) p⟩
  exact fun _ _ => hlaw.step

/-- Settles O6. -/
theorem stepKeepsGoodCounts : Obligations.StepKeepsGoodCounts := by
  have hlaw : StepLaw State.goodCounts :=
    ⟨fun _ _ h => h.counts, fun _ _ _ => id, fun s _ => powerOn_goodCounts s.straps 0,
      fun _ a b g p _ => powerOn_goodCounts (strapsOf a b g) p⟩
  exact fun _ _ => hlaw.step

theorem stepLaw_strapsLegal : StepLaw State.strapsLegal where
  lawful s t h hs := by
    unfold State.strapsLegal
    rw [h.straps]
    exact hs
  queue _ _ _ := id
  assert _ := id
  release _ a b g _ _ := strapsOf_legal a b g

theorem stepLaw_inWorkDistinct : StepLaw State.inWorkDistinct :=
  ⟨fun _ _ h => h.distinct, fun _ _ _ => id, fun s _ => powerOn_inWorkDistinct s.straps 0,
    fun _ a b g p _ => powerOn_inWorkDistinct (strapsOf a b g) p⟩

theorem stepLaw_restartQuiet : StepLaw State.restartQuiet :=
  ⟨fun _ _ h => h.quiet, fun _ _ _ => id, fun s _ => powerOn_restartQuiet s.straps 0,
    fun _ a b g p _ => powerOn_restartQuiet (strapsOf a b g) p⟩

theorem exec_inboxEmpty {c : Instr} {s u : State} (hs : s.inboxEmpty) (h : exec c s = .next u) : u.inboxEmpty := by
  by_cases h1 : ∃ t, c = .powerOnReset t
  · obtain ⟨t, rfl⟩ := h1
    cases h
    rfl
  by_cases h2 : ∃ t a b g p, c = .resetRelease t a b g p
  · obtain ⟨t, a, b, g, p, rfl⟩ := h2
    cases h
    rfl
  by_cases h3 : ∃ t sc l, c = .screenPresenceInputChange t sc l
  · obtain ⟨t, sc, l, rfl⟩ := h3
    cases hr : s.resetAsserted
    · rw [(exec_screenPresenceInputChange t sc l s).2 hr, act_next _ _ _ hr] at h
      cases h
      rfl
    · rw [(exec_screenPresenceInputChange t sc l s).1 hr] at h
      cases h
      exact hs
  · exact (acts_exec c (fun t h => h1 ⟨t, h⟩) (fun t a b g p h => h2 ⟨t, a, b, g, p, h⟩)
      fun t sc l h => h3 ⟨t, sc, l, h⟩).empty s u hs h

theorem step_inboxEmpty {s t : State} (hs : s.inboxEmpty) (h : step s = .next t) : t.inboxEmpty := by
  cases hq : s.pending with
  | nil =>
    rw [step_of_empty hq] at h
    cases h
    split
    · exact hs
    · exact tick_inbox s hs
  | cons c cs =>
    rw [step_of_command hq] at h
    exact exec_inboxEmpty (s := { s with pending := cs }) hs h

/-- Settles O7. -/
theorem stepKeepsBookkeeping : Obligations.StepKeepsBookkeeping := by
  unfold Obligations.StepKeepsBookkeeping
  exact ⟨fun s t hstraps hwork hinbox h =>
    ⟨stepLaw_strapsLegal.step hstraps h, stepLaw_inWorkDistinct.step hwork h, step_inboxEmpty hinbox h⟩,
    fun s t => stepLaw_restartQuiet.step⟩

/-- Settles O8: the power-on values obey each law. -/
theorem resetStateIsLawful : Obligations.ResetStateIsLawful := by
  unfold Obligations.ResetStateIsLawful
  exact ⟨Memory.wf_nil, powerOn_queuesBounded _ _, powerOn_residualsBounded _ _, powerOn_goodCounts _ _,
    by simp [State.strapsLegal, State.reset, State.powerOn], powerOn_inWorkDistinct _ _, rfl, powerOn_restartQuiet _ _⟩

end Sys2Proof.Machine
end

section
/-! PROOFS. The exchange memory: what a take, a completion and the rewrite of a mirror write, byte by byte, and the layout of each mirror. -/

namespace Sys2Proof.Machine

open Sys2Proof

/-! ## A take -/

/-- Settles O9. -/
theorem takeMarksCell : Obligations.TakeMarksCell := by
  unfold Obligations.TakeMarksCell
  intro c s t b
  refine ⟨?inWork, Memory.word_write_le16 _ _ _, fun a h2 h6 h7 => take_read c s a ⟨h2, h6, h7⟩, rfl, rfl⟩
  case inWork =>
    show ((s.xm.mem.write (b + 2) [2]).write (b + 6) (le16 s.xm.sweepCount)).read (b + 2) = 2
    rw [Memory.read_write_outside _ _ _ _ (.inl (by omega)), Memory.read_write, if_pos (by simp), Nat.sub_self]
    rfl

/-! ## A completion -/

/-- The header that a completion writes, without the sweep number. -/
def InWork.header (e : InWork) (r : Result) (n : Nat) : List Byte := le16 e.tag ++ [3, e.kind, r.code, byte n]

theorem complete_read_header {c : CellId} {r : Result} {data : List Byte} {s : State} {e : InWork} (he : s.xm.entry c = some e)
    {i : Nat} (hi : i < 6) : (complete c r data s).xm.mem.read (64 * c.1 + i) = (e.header r data.length).getD i 0 := by
  rw [complete_read c r data s e he, if_neg (by omega), if_neg (by omega), if_pos (by omega), Nat.add_sub_cancel_left]
  rfl

theorem complete_read_result {c : CellId} {r : Result} {data : List Byte} {s : State} {e : InWork} (he : s.xm.entry c = some e)
    {i : Nat} (hi : i < 56) :
    (complete c r data s).xm.mem.read (64 * c.1 + 8 + i) = (le32 (s.xm.completionNo + 1) ++ padTo 52 data).getD i 0 := by
  rw [complete_read c r data s e he, if_neg (by omega), if_pos (by omega), Nat.add_sub_cancel_left]

theorem complete_read_outside {c : CellId} {r : Result} {data : List Byte} {s : State} {e : InWork} (he : s.xm.entry c = some e)
    {a : Nat} (ha : a < 64 * c.1 ∨ a = 64 * c.1 + 6 ∨ a = 64 * c.1 + 7 ∨ 64 * c.1 + 64 ≤ a) (hcells : a ≠ 0x0415) :
    (complete c r data s).xm.mem.read a = s.xm.mem.read a := by
  rw [complete_read c r data s e he, if_neg hcells, if_neg (by omega), if_neg (by omega)]

theorem complete_of_entry {c : CellId} {s : State} {e : InWork} (he : s.xm.entry c = some e) (r : Result) (data : List Byte) :
    complete c r data s =
      { s with xm := { s.xm with
          mem := (complete c r data s).xm.mem, completionNo := s.xm.completionNo + 1, inWork := (complete c r data s).xm.inWork } } := by
  unfold complete
  rw [he]
  rfl

theorem complete_of_no_entry {c : CellId} {s : State} (he : s.xm.entry c = none) (r : Result) (data : List Byte) :
    complete c r data s = s := by
  unfold complete
  rw [he]

theorem le32_getD (w : Word32) {i : Nat} (hi : i < 4) : (le32 w).getD i 0 = w.extractLsb' (8 * i) 8 := by
  match i, hi with
  | 0, _ | 1, _ | 2, _ | 3, _ => rfl

theorem byte_toNat {n : Nat} (h : n < 256) : (byte n).toNat = n := by simp [byte, Nat.mod_eq_of_lt h]

/-- Settles O10: the header, the completion number and the data are read back from where the completion writes them. -/
theorem completionWritesCell : Obligations.CompletionWritesCell := by
  unfold Obligations.CompletionWritesCell
  refine ⟨?inSet, fun c r data s he => complete_of_no_entry he r data⟩
  case inSet =>
    intro c r data s e he hlen t b
    have hheader {i : Nat} (hi : i < 6) : t.xm.mem.read (b + i) = (e.header r data.length).getD i 0 := complete_read_header he hi
    have hresult {i : Nat} (hi : i < 56) :
        t.xm.mem.read (b + 8 + i) = (le32 (s.xm.completionNo + 1) ++ padTo 52 data).getD i 0 := complete_read_result he hi
    have hcount : t.xm.completionNo = s.xm.completionNo + 1 := congrArg (·.xm.completionNo) (complete_of_entry he r data)
    refine ⟨hcount, Memory.word_of_reads _ _ _ (hheader (i := 0) (by omega)) (hheader (i := 1) (by omega)),
      hheader (i := 2) (by omega), hheader (i := 3) (by omega), hheader (i := 4) (by omega), ?length, ?number, ?data, ?cells,
      fun a ha hne => complete_read_outside he ha hne, ?left, fun d hd => ?others, ?frame⟩
    case length =>
      rw [hheader (i := 5) (by omega)]
      exact byte_toNat (by omega)
    case number =>
      intro i hi
      rw [hresult (by omega), hcount, List.getD_append _ _ _ _ (by rw [le32_length]; exact hi), le32_getD _ hi]
    case data =>
      intro i hi
      rw [show b + 12 + i = b + 8 + (4 + i) by omega, hresult (by omega),
        List.getD_append_right _ _ _ _ (by rw [le32_length]; omega), le32_length, Nat.add_sub_cancel_left, padTo_getD 52 data i hi]
    case cells => exact (complete_read c r data s e he _).trans (if_pos rfl)
    case left => exact (complete_entry c c r data s).trans (if_pos rfl)
    case others => exact (complete_entry c d r data s).trans (if_neg hd)
    case frame =>
      rw [hcount]
      exact complete_of_entry he r data

/-! ## The rewrite of a mirror -/

theorem rewriteMirror_word (m : Mirror) (s : State) : (rewriteMirror m s).xm.mem.word m.base = s.xm.revision[m.index.1] + 1 := by
  have hm := m.fits
  apply Memory.word_of_reads
  · rw [rewriteMirror_read, if_pos (by omega), Nat.sub_self]
    rfl
  · rw [rewriteMirror_read, if_pos (by omega), Nat.add_sub_cancel_left]
    rfl

theorem rewriteMirror_read_field (m : Mirror) (s : State) {i : Nat} (h2 : 2 ≤ i) (hi : i < m.size) :
    (rewriteMirror m s).xm.mem.read (m.base + i) = (mirrorFields s m).getD (i - 2) 0 := by
  rw [rewriteMirror_read, if_pos (by omega), Nat.add_sub_cancel_left,
    List.getD_append_right _ _ _ _ (by rw [le16_length]; exact h2), le16_length, padTo_getD _ _ _ (by omega)]

theorem rewriteMirror_read_outside (m : Mirror) (s : State) {a : Nat} (ha : a < m.base ∨ m.base + m.size ≤ a) :
    (rewriteMirror m s).xm.mem.read a = s.xm.mem.read a := by
  rw [rewriteMirror_read, if_neg (by omega)]

theorem rewriteMirror_revision (m : Mirror) (s : State) :
    (rewriteMirror m s).xm.revision = s.xm.revision.set m.index.1 (s.xm.revision[m.index.1] + 1) m.index.2 := rfl

/-- The owner's record among those given is replaced by its record as it stands. -/
theorem upd_const {α : Type} {n : Nat} (v : Vector α n) (i : Fin n) (a : α) : upd v i (fun _ => a) = v.set i.1 a i.2 := rfl

theorem give_eq (p : Share) (s : State) :
    give p s = { s with xm := { s.xm with given :=
      match p with
      | .line k => { s.xm.given with lines := s.xm.given.lines.set k.1 s.gives.lines[k.1] }
      | .power k => { s.xm.given with powers := s.xm.given.powers.set k.1 s.gives.powers[k.1] }
      | .signal h => { s.xm.given with signals := s.xm.given.signals.set h.1 s.gives.signals[h.1] }
      | .served h => { s.xm.given with served := s.xm.given.served.set h.1 s.gives.served[h.1] }
      | .plans sc => { s.xm.given with plans := s.xm.given.plans.set sc.1 s.gives.plans[sc.1] }
      | .ident sc => { s.xm.given with idents := s.xm.given.idents.set sc.1 s.gives.idents[sc.1] } } } := by
  cases p <;> simp only [give, upd_const, State.gives, Vector.getElem_ofFn]

/-! ## The layouts -/

theorem toList_eq_map_ids {α : Type} {n : Nat} (v : Vector α n) : v.toList = (ids n).map fun i => v[i.1] := by
  apply List.ext_getElem <;> simp [ids]

theorem conditions_toList (v : Vector TileCond 4) : v.toList.map TileCond.code = (ids 4).map fun j => v[j.1].code := by
  rw [toList_eq_map_ids, List.map_map]
  rfl

/-- The fields of a SCREEN mirror, the absent plans written out. -/
theorem screenFields_eq (g : Given) (sc : ScreenId) :
    screenFields g sc =
      [g.plans[sc.1].state.code] ++ g.plans[sc.1].active.bytes ++ (ids 4).map (fun j => g.plans[sc.1].conditions[j.1].code) ++
        (match g.plans[sc.1].staged with
          | some q => [1, q.purpose.code, boolByte q.home] ++ q.plan.bytes
          | none => [0, 0, 0] ++ [0, 0, 0, 0, 0]) ++
        (match g.plans[sc.1].ret with
          | some p => [1] ++ p.bytes
          | none => [0] ++ [0, 0, 0, 0, 0]) ++
        [byte g.plans[sc.1].loans.length] ++
        padTo 12 (g.plans[sc.1].loans.flatMap fun l => [byte l.tile.1, l.kind.code, byte l.lender.1]) ++
        g.plans[sc.1].home.bytes ++
        [g.idents[sc.1].state.code, boolByte g.idents[sc.1].held, byte g.idents[sc.1].attempts,
          boolByte g.idents[sc.1].presence] := by
  rw [← conditions_toList, show (fun l => [byte l.tile.1, l.kind.code, byte l.lender.1]) = Loan.bytes from rfl]
  cases hs : g.plans[sc.1].staged <;> cases hr : g.plans[sc.1].ret <;> simp [screenFields, optPlanBytes, boolByte, hs, hr]

/-- Settles O11. -/
theorem mirrorRewrittenWhole : Obligations.MirrorRewrittenWhole := by
  unfold Obligations.MirrorRewrittenWhole
  refine ⟨fun m s => ⟨⟨rewriteMirror_word m s, ?own, fun i h2 hi => rewriteMirror_read_field m s h2 hi,
    fun a ha => rewriteMirror_read_outside m s ha, fun j hj => ?others, rfl⟩,
    (notice_read m s _).trans (if_pos rfl), fun a ha => (notice_read m s a).trans (if_neg ha), rfl⟩,
    fun p s => ⟨rfl, rfl, give_eq p s, by cases p <;> rfl⟩, fun s => ⟨fun k => ?line, fun h => ?head, fun sc => ?screen⟩, fun s => ?layouts⟩
  case own =>
    show (rewriteMirror m s).xm.revision[m.index.1] = _
    rw [rewriteMirror_revision, Vector.getElem_set_self]
  case others =>
    show (rewriteMirror m s).xm.revision[j.1] = _
    rw [rewriteMirror_revision, Vector.getElem_set_ne _ _ (fun h => hj (Fin.ext h.symm))]
  case line =>
    simp only [State.gives, Vector.getElem_ofFn]
    exact ⟨rfl, rfl⟩
  case head =>
    simp only [State.gives, Vector.getElem_ofFn]
    exact ⟨rfl, rfl⟩
  case screen =>
    simp only [State.gives, Vector.getElem_ofFn]
    exact ⟨rfl, rfl⟩
  case layouts =>
    intro g
    refine ⟨?focus, ?cursor, fun k => rfl, fun sc => screenFields_eq _ _, fun l => rfl, rfl, ?panel, rfl, rfl, rfl, rfl, rfl, rfl, rfl,
      rfl, rfl, rfl, rfl⟩
    case focus =>
      show focusFields s.focus = _
      unfold focusFields
      cases s.focus.st <;> rfl
    case cursor =>
      show cursorFields s.cur.cursor = _
      unfold cursorFields
      cases s.cur.cursor.dwell <;> rfl
    case panel =>
      show panelFields s.panel = _
      unfold panelFields
      rcases s.panel.lastEvent with _ | ⟨p, release⟩
      · rfl
      · cases release <;> rfl

end Sys2Proof.Machine
end

section
/-! PROOFS. The check of a desk frame (R2): the conditions of its acceptance kind by kind, the count of refused frames, and the frames that are lost. -/

namespace Sys2Proof.Machine

open Sys2Proof

/-! ## The parts of the check -/

theorem foldl_add_toNat (bs : List Byte) (b : Byte) :
    (bs.foldl (· + ·) b).toNat = (b.toNat + (bs.map BitVec.toNat).sum) % 256 := by
  induction bs generalizing b with
  | nil => simp [Nat.mod_eq_of_lt b.isLt]
  | cons c cs ih =>
    rw [List.foldl_cons, ih, BitVec.toNat_add, List.map_cons, List.sum_cons]
    omega

theorem byteSum_eq_zero_iff (bs : List Byte) : byteSum bs = 0 ↔ (bs.map BitVec.toNat).sum % 256 = 0 := by
  rw [← BitVec.toNat_inj, byteSum, foldl_add_toNat]
  simp

theorem Frame.sum_eq_zero_iff (f : Frame) :
    f.sum = 0 ↔ (f.kind.toNat + f.len.toNat + (f.payload.map BitVec.toNat).sum + f.check.toNat) % 256 = 0 := by
  rw [Frame.sum, byteSum_eq_zero_iff]
  simp [Nat.add_assoc]

theorem distinct_iff_nodup (bs : List Byte) : distinct bs = true ↔ bs.Nodup := by
  induction bs with
  | nil => simp [distinct]
  | cons b bs ih => simp [distinct, ih]

theorem FrameKind.ofByte_code (k : FrameKind) : FrameKind.ofByte k.code = some k := by
  cases k <;> rfl

theorem FrameKind.code_of_ofByte {b : Byte} {k : FrameKind} (h : FrameKind.ofByte b = some k) : b = k.code := by
  unfold FrameKind.ofByte at h
  apply BitVec.eq_of_toNat_eq
  split at h <;> cases h <;> assumption

/-- The four tests that a frame of a kind passes. -/
def Frame.Fits (f : Frame) (cls : LineClass) (k : FrameKind) : Prop :=
  f.sum = 0 ∧ k.sizeAllowed f.len.toNat = true ∧ f.len.toNat = f.payload.length ∧ k.contentsInRange f.payload = true ∧
    cls.takes k = true

theorem accepted_eq_none_of_kind {f : Frame} {k : FrameKind} (hk : f.kind = k.code) (cls : LineClass) :
    f.accepted cls = none ↔ ¬f.Fits cls k := by
  unfold Frame.accepted
  rw [hk, FrameKind.ofByte_code]
  exact ite_eq_right_iff.trans (by simp [Frame.Fits])

theorem accepted_eq_none_of_no_kind {f : Frame} (h : ∀ k : FrameKind, f.kind ≠ k.code) (cls : LineClass) :
    f.accepted cls = none := by
  unfold Frame.accepted
  cases hk : FrameKind.ofByte f.kind with
  | none => rfl
  | some k => exact absurd (FrameKind.code_of_ofByte hk) (h k)

theorem byte_eq_iff (b c : Byte) : b = c ↔ b.toNat = c.toNat := BitVec.toNat_inj.symm

/-! ## What each kind asks of its frame -/

theorem announce_fits_iff (f : Frame) (cls : LineClass) :
    f.Fits cls .announce ↔ f.sum = 0 ∧ f.len = 1 ∧ f.len.toNat = f.payload.length ∧
      (at8 f.payload 0 = 1 ∨ at8 f.payload 0 = 2) := by
  cases cls <;> simp [Frame.Fits, FrameKind.sizeAllowed, FrameKind.contentsInRange, LineClass.takes, byte_eq_iff f.len]

theorem keys_fits_iff (f : Frame) (cls : LineClass) :
    f.Fits cls .keys ↔ f.sum = 0 ∧ (1 ≤ f.len.toNat ∧ f.len.toNat ≤ 7) ∧ f.len.toNat = f.payload.length ∧
      ((0 ∉ f.payload.tail ∨ f.payload.tail = [0]) ∧ f.payload.tail.Nodup) ∧ cls = .keyboard := by
  cases cls <;>
    simp [Frame.Fits, FrameKind.sizeAllowed, FrameKind.contentsInRange, LineClass.takes, isRollover, distinct_iff_nodup]

theorem motion_contentsInRange_iff (p : List Byte) :
    FrameKind.motion.contentsInRange p = true ↔
      (at8 p 0).toNat < 32 ∧ (-2048 ≤ signed16 p 1 ∧ signed16 p 1 ≤ 2047) ∧ (-2048 ≤ signed16 p 3 ∧ signed16 p 3 ≤ 2047) ∧
        -8 ≤ (at8 p 5).toInt ∧ (at8 p 5).toInt ≤ 7 := by
  simp only [FrameKind.contentsInRange, Bool.and_eq_true, decide_eq_true_eq, and_assoc]
  rfl

theorem motion_fits_iff (f : Frame) (cls : LineClass) :
    f.Fits cls .motion ↔ f.sum = 0 ∧ f.len = 6 ∧ f.len.toNat = f.payload.length ∧
      ((at8 f.payload 0).toNat < 32 ∧ (-2048 ≤ signed16 f.payload 1 ∧ signed16 f.payload 1 ≤ 2047) ∧
        (-2048 ≤ signed16 f.payload 3 ∧ signed16 f.payload 3 ≤ 2047) ∧
        -8 ≤ (at8 f.payload 5).toInt ∧ (at8 f.payload 5).toInt ≤ 7) ∧ cls = .pointer := by
  cases cls <;>
    simp [Frame.Fits, FrameKind.sizeAllowed, motion_contentsInRange_iff, LineClass.takes, byte_eq_iff f.len, and_assoc]

theorem gone_fits_iff (f : Frame) (cls : LineClass) :
    f.Fits cls .gone ↔ f.sum = 0 ∧ f.len = 0 ∧ f.len.toNat = f.payload.length ∧ cls ≠ .silent := by
  cases cls <;> simp [Frame.Fits, FrameKind.sizeAllowed, FrameKind.contentsInRange, LineClass.takes, byte_eq_iff f.len]

/-- Settles O12: the frame's kind decides which tests it must pass. -/
theorem frameRefusedExactly : Obligations.FrameRefusedExactly := by
  unfold Obligations.FrameRefusedExactly
  intro f cls
  by_cases h1 : f.kind = FrameKind.announce.code
  · rw [accepted_eq_none_of_kind h1, announce_fits_iff, Frame.sum_eq_zero_iff]
    simp [h1, FrameKind.code]
    tauto
  by_cases h2 : f.kind = FrameKind.keys.code
  · have hzero : f.len = 0 ↔ ¬1 ≤ f.len.toNat := by rw [byte_eq_iff]; simp
    rw [accepted_eq_none_of_kind h2, keys_fits_iff, Frame.sum_eq_zero_iff, hzero]
    cases cls <;> simp [h2, FrameKind.code]
    grind
  by_cases h3 : f.kind = FrameKind.motion.code
  · rw [accepted_eq_none_of_kind h3, motion_fits_iff, Frame.sum_eq_zero_iff]
    cases cls <;> simp [h3, FrameKind.code]
    grind
  by_cases h4 : f.kind = FrameKind.gone.code
  · rw [accepted_eq_none_of_kind h4, gone_fits_iff, Frame.sum_eq_zero_iff]
    cases cls <;> simp [h4, FrameKind.code] <;> grind
  · exact iff_of_true (accepted_eq_none_of_no_kind (fun k => by cases k <;> assumption) cls) (.inr (.inl ⟨h1, h2, h3, h4⟩))

/-! ## A frame's arrival -/

theorem exec_of_deskFrame {i : Instr} {l : LineId} {f : Frame} (h : deskFrame i = some (l, f)) (s : State) :
    exec i s = act i.time (arrive l f) s := by
  cases i <;> cases h <;> rfl

theorem arrive_of_undelivered {l : LineId} {s : State} (h : s.runState = .starting ∨ s.desk.lines[l.1].resetUntil ≠ none)
    (f : Frame) : arrive l f s = s := by
  have hlost : s.lineDelivers l = false := by
    rcases h with h | h
    · simp [State.lineDelivers, h]
    · rw [State.lineDelivers, Option.isNone_eq_false_iff.2 (Option.isSome_iff_ne_none.2 h), Bool.and_false]
  unfold arrive
  rw [if_neg (by simp [hlost])]

theorem arrive_of_refused {l : LineId} {f : Frame} {s : State} (hrun : s.runState ≠ .starting)
    (hline : s.desk.lines[l.1].resetUntil = none) (hf : f.accepted s.desk.lines[l.1].cls = none) :
    arrive l f s = refuseFrame l s := by
  have hdelivers : s.lineDelivers l = true := by simp [State.lineDelivers, hrun, hline]
  unfold arrive
  rw [if_pos hdelivers, hf]

theorem satInc_of_lt {n : Nat} (h : n < 255) : satInc n = n + 1 := if_pos h

theorem satInc_of_not_lt {n : Nat} (h : ¬n < 255) : satInc n = n := if_neg h

theorem refuseFrame_eq (l : LineId) (s : State) :
    refuseFrame l s =
      if s.desk.lines[l.1].bad < 255 then
        notice (.line l) (modDeskLine l (fun r => { r with bad := s.desk.lines[l.1].bad + 1 }) s)
      else s := by
  dsimp only [refuseFrame]
  by_cases h : s.desk.lines[l.1].bad < 255
  · rw [if_pos h, satInc_of_lt h]
    exact if_neg (by omega)
  · rw [if_neg h, satInc_of_not_lt h]
    exact if_pos rfl

/-- Settles O13. -/
theorem refusedFrameIsCounted : Obligations.RefusedFrameIsCounted := by
  unfold Obligations.RefusedFrameIsCounted
  intro i l f s hi hs u n
  rw [exec_of_deskFrame hi]
  refine ⟨fun hrun hline hf => ?_, fun hlost => ?_⟩
  · have hrefused : arrive l f u = refuseFrame l u := arrive_of_refused hrun hline hf
    rw [act_quiet hs] <;> rw [hrefused, refuseFrame_eq]
    · rfl
    · split
      · exact hs.2
      · exact hs.2
  · have hsame : arrive l f u = u := arrive_of_undelivered (s := s.advance i.time) hlost f
    rw [act_quiet hs] <;> rw [hsame]
    exact hs.2

end Sys2Proof.Machine
end

section
/-! PROOFS. The desk input unit: the union of the KEYBOARD lines (R6), ANNOUNCE and GONE (R3, R4), and a MOTION frame with the stages of its motion (R8, R29). -/

namespace Sys2Proof.Machine

open Sys2Proof

/-! ## The union (R6) -/

theorem dedup_eq (seen xs : List Byte) : dedup seen xs = seen ++ (xs.filter fun c => !seen.contains c).eraseDups := by
  induction xs generalizing seen with
  | nil => simp [dedup]
  | cons c cs ih =>
    by_cases hc : c ∈ seen
    · simp [dedup, hc, ih]
    · have hrest : (cs.filter fun d => !(seen ++ [c]).contains d) = (cs.filter fun d => !seen.contains d).filter fun d => !d == c := by
        rw [List.filter_filter]
        congr 1
        funext d
        rw [Bool.eq_iff_iff]
        simp [and_comm]
      rw [dedup, if_neg (by simpa using hc), ih, hrest, List.filter_cons_of_pos (by simpa using hc), List.eraseDups_cons,
        List.append_assoc]
      rfl

theorem foldl_or_getLsbD {α : Type} {w : Nat} (f : α → BitVec w) (xs : List α) (b : BitVec w) (i : Nat) :
    (xs.foldl (fun m x => m ||| f x) b).getLsbD i = true ↔ b.getLsbD i = true ∨ ∃ x ∈ xs, (f x).getLsbD i = true := by
  induction xs generalizing b with
  | nil => simp
  | cons x xs ih => simp [ih, or_assoc]

/-- The KEYBOARD lines by number. -/
def DeskInput.keyboardIds (d : DeskInput) : List LineId := (ids 4).filter fun l => decide (d.lines[l.1].cls = .keyboard)

theorem keyboards_eq_map (d : DeskInput) : d.keyboards = d.keyboardIds.map fun l => d.lines[l.1] := by
  rw [DeskInput.keyboards, toList_eq_map_ids, List.filter_map]
  rfl

theorem mem_keyboardIds (d : DeskInput) (l : LineId) : l ∈ d.keyboardIds ↔ d.lines[l.1].cls = .keyboard := by
  simp [DeskInput.keyboardIds, mem_ids]

theorem mem_keyboards (d : DeskInput) (r : DeskLine) : r ∈ d.keyboards ↔ ∃ l : LineId, d.lines[l.1].cls = .keyboard ∧ d.lines[l.1] = r := by
  simp [keyboards_eq_map, mem_keyboardIds]

theorem union_codes_eq (d : DeskInput) :
    d.union.codes = (d.keyboardIds.flatMap fun l => d.lines[l.1].lastKeys.codes).eraseDups := by
  rw [DeskInput.union, dedup_eq, keyboards_eq_map, List.flatMap_map]
  simp

theorem mem_union_codes (d : DeskInput) (c : Byte) :
    c ∈ d.union.codes ↔ ∃ l : LineId, d.lines[l.1].cls = .keyboard ∧ c ∈ d.lines[l.1].lastKeys.codes := by
  rw [DeskInput.union, (dedup_spec _ [] List.nodup_nil).2]
  simp [keyboards_eq_map, mem_keyboardIds]

theorem union_mods_getLsbD (d : DeskInput) (i : Nat) :
    d.union.mods.getLsbD i = true ↔ ∃ l : LineId, d.lines[l.1].cls = .keyboard ∧ d.lines[l.1].lastKeys.mods.getLsbD i = true := by
  rw [DeskInput.union, foldl_or_getLsbD]
  simp [keyboards_eq_map, mem_keyboardIds]

theorem holding_iff (d : DeskInput) :
    d.holding = true ↔
      (∃ l : LineId, d.lines[l.1].cls = .keyboard ∧ d.lines[l.1].rollover = true) ∨ 6 < d.union.codes.length := by
  simp [DeskInput.holding, keyboards_eq_map, mem_keyboardIds]

/-- Settles O16. -/
theorem deskKeyUnionIsExact : Obligations.DeskKeyUnionIsExact := by
  unfold Obligations.DeskKeyUnionIsExact
  intro d keyboards
  exact ⟨union_codes_eq d, mem_union_codes d, (dedup_spec _ [] List.nodup_nil).1, fun i => union_mods_getLsbD d i.1, holding_iff d⟩

/-! ## Units whose lines hold the same keys, or the same buttons -/

/-- The lines of two units agree in what the union is made of. -/
def SameKeys (d e : DeskInput) : Prop :=
  ∀ l : LineId, d.lines[l.1].cls = e.lines[l.1].cls ∧ d.lines[l.1].lastKeys = e.lines[l.1].lastKeys ∧
    d.lines[l.1].rollover = e.lines[l.1].rollover

theorem SameKeys.union {d e : DeskInput} (h : SameKeys d e) : d.union = e.union := by
  have hids : d.keyboardIds = e.keyboardIds := by simp only [DeskInput.keyboardIds, (h _).1]
  simp only [DeskInput.union, keyboards_eq_map, hids, List.foldl_map, List.flatMap_map, (h _).2.1]

theorem SameKeys.holding {d e : DeskInput} (h : SameKeys d e) : d.holding = e.holding := by
  rw [Bool.eq_iff_iff, holding_iff, holding_iff, h.union]
  simp only [(h _).1, (h _).2.2]

theorem buttonUnion_eq (d : DeskInput) :
    d.buttonUnion = ((ids 4).filter fun l => decide (d.lines[l.1].cls = .pointer)).foldl (fun b l => b ||| d.lines[l.1].buttons) 0 := by
  rw [DeskInput.buttonUnion, toList_eq_map_ids, List.filter_map, List.foldl_map]
  rfl

theorem buttonUnion_congr {d e : DeskInput}
    (h : ∀ l : LineId, d.lines[l.1].cls = e.lines[l.1].cls ∧ d.lines[l.1].buttons = e.lines[l.1].buttons) :
    d.buttonUnion = e.buttonUnion := by
  simp only [buttonUnion_eq, (h _).1, (h _).2]

theorem buttonUnion_getLsbD (d : DeskInput) (i : Nat) :
    d.buttonUnion.getLsbD i = true ↔ ∃ l : LineId, d.lines[l.1].cls = .pointer ∧ d.lines[l.1].buttons.getLsbD i = true := by
  rw [buttonUnion_eq, foldl_or_getLsbD]
  simp [mem_ids]

/-! ## ANNOUNCE and GONE (R3, R4) -/

/-- A line with nothing held. -/
def DeskLine.emptied (r : DeskLine) (cls : LineClass) : DeskLine :=
  { r with cls := cls, lastKeys := Keys.empty, rollover := false, buttons := 0 }

/-- The unit once a line's keys are let go. -/
def DeskInput.keyless (d : DeskInput) (l : LineId) : DeskInput :=
  { d with lines := upd d.lines l fun r => { r with lastKeys := Keys.empty, rollover := false } }

/-- The unit once a line's buttons are let go. -/
def DeskInput.buttonless (d : DeskInput) (l : LineId) : DeskInput :=
  { d with lines := upd d.lines l fun r => { r with buttons := 0 } }

/-- The unit once all that a line holds is let go. -/
def DeskInput.released (d : DeskInput) (l : LineId) : DeskInput :=
  { d with lines := upd d.lines l fun r => r.emptied r.cls }

theorem keyless_emptied (d : DeskInput) (l : LineId) (cls : LineClass) :
    (d.keyless l).lines[l.1].emptied cls = d.lines[l.1].emptied cls := by
  rw [DeskInput.keyless, upd_self]
  rfl

theorem buttonless_emptied (d : DeskInput) (l : LineId) (cls : LineClass) :
    (d.buttonless l).lines[l.1].emptied cls = d.lines[l.1].emptied cls := by
  rw [DeskInput.buttonless, upd_self]
  rfl

theorem keyless_sameKeys (d : DeskInput) (l : LineId) : SameKeys (d.keyless l) (d.released l) := by
  intro j
  simp only [DeskInput.keyless, DeskInput.released, upd_get]
  split <;> exact ⟨rfl, rfl, rfl⟩

theorem buttonless_buttonUnion (d : DeskInput) (l : LineId) : (d.buttonless l).buttonUnion = (d.released l).buttonUnion := by
  apply buttonUnion_congr
  intro j
  simp only [DeskInput.buttonless, DeskInput.released, upd_get]
  split <;> exact ⟨rfl, rfl⟩

section
variable {l : LineId} {s : State}

theorem releaseLine_silent (h : s.desk.lines[l.1].cls = .silent) : releaseLine l s = s := by
  unfold releaseLine
  rw [h]

theorem releaseLine_keyboard (h : s.desk.lines[l.1].cls = .keyboard) :
    releaseLine l s = recomputeKeys { s with desk := s.desk.keyless l } := by
  unfold releaseLine
  rw [h]
  rfl

theorem releaseLine_pointer (h : s.desk.lines[l.1].cls = .pointer) :
    releaseLine l s =
      (let v : State := { s with desk := { s.desk.buttonless l with merged := (s.desk.buttonless l).buttonUnion } }
       if (s.desk.buttonless l).buttonUnion = s.desk.merged then v
       else motion { dx := 0, dy := 0, wheel := 0, merged := (s.desk.buttonless l).buttonUnion } v) := by
  unfold releaseLine
  rw [h]
  rfl

/-- What the release of a line leaves in the desk input unit. -/
theorem releaseLine_desk (l : LineId) (s : State) :
    (∀ j, j ≠ l → (releaseLine l s).desk.lines[j.1] = s.desk.lines[j.1]) ∧
    (∀ cls, (releaseLine l s).desk.lines[l.1].emptied cls = s.desk.lines[l.1].emptied cls) ∧
    (releaseLine l s).desk.keys =
      (if s.desk.lines[l.1].cls = .keyboard ∧ (s.desk.released l).holding = false then (s.desk.released l).union else s.desk.keys) ∧
    (releaseLine l s).desk.merged =
      (if s.desk.lines[l.1].cls = .pointer then (s.desk.released l).buttonUnion else s.desk.merged) := by
  cases hcls : s.desk.lines[l.1].cls with
  | silent => simp [releaseLine_silent hcls]
  | keyboard =>
    have hsame := keyless_sameKeys s.desk l
    rw [releaseLine_keyboard hcls, recompute_desk]
    refine ⟨fun j hj => upd_ne _ _ _ _ hj.symm, keyless_emptied s.desk l, ?_, rfl⟩
    show (if (s.desk.keyless l).holding then s.desk.keys else (s.desk.keyless l).union) = _
    rw [hsame.holding, hsame.union]
    cases (s.desk.released l).holding <;> rfl
  | pointer =>
    have hdesk : (releaseLine l s).desk = { s.desk.buttonless l with merged := (s.desk.buttonless l).buttonUnion } := by
      rw [releaseLine_pointer hcls]
      dsimp only
      split
      · rfl
      · exact (motion_desk _ _).1
    rw [hdesk]
    exact ⟨fun j hj => upd_ne _ _ _ _ hj.symm, buttonless_emptied s.desk l, rfl,
      buttonless_buttonUnion s.desk l⟩

end

theorem setClass_desk (l : LineId) (cls : LineClass) (s : State) :
    (setClass l cls s).desk = { s.desk with lines := upd s.desk.lines l fun r => r.emptied cls } := rfl

/-- An accepted frame that sets the line's class. -/
theorem takeFrame_sets_class (l : LineId) (cls : LineClass) (s : State) :
    let r := s.desk.lines[l.1]
    let u := settle (setClass l cls (releaseLine l s))
    DeskKept s u ∧ u.desk.lines[l.1] = r.emptied cls ∧ (∀ j : LineId, j ≠ l → u.desk.lines[j.1] = s.desk.lines[j.1]) ∧
      u.desk.keys =
        (if r.cls = .keyboard ∧ (s.desk.released l).holding = false then (s.desk.released l).union else s.desk.keys) ∧
      u.desk.merged = (if r.cls = .pointer then (s.desk.released l).buttonUnion else s.desk.merged) := by
  intro r u
  obtain ⟨hothers, hline, hkeys, hmerged⟩ := releaseLine_desk l s
  have hdesk : u.desk = (setClass l cls (releaseLine l s)).desk := (kept_settle _).desk
  rw [hdesk, setClass_desk]
  exact ⟨((worked_releaseLine l s).trans (worked_setClass l cls _)).trans (kept_settle _).worked,
    (upd_self _ _ _).trans (hline cls), fun j hj => (upd_ne _ _ _ _ hj.symm).trans (hothers j hj), hkeys, hmerged⟩

theorem exec_frame_of_accepted {i : Instr} {l : LineId} {f : Frame} {k : FrameKind} {s : State} (hi : deskFrame i = some (l, f))
    (hs : s.live) (hrun : s.runState ≠ .starting) (hline : s.desk.lines[l.1].resetUntil = none)
    (hf : f.accepted s.desk.lines[l.1].cls = some k) : exec i s = .next (settle (takeFrame l k f.payload (s.advance i.time))) := by
  rw [exec_of_deskFrame hi, act_live hs, arrive_of_accepted (s := s.advance i.time) hrun hline hf]

/-- Settles O14: the line is let go as its class says, and then takes its new class. -/
theorem announceAndGoneSetClass : Obligations.AnnounceAndGoneSetClass := by
  unfold Obligations.AnnounceAndGoneSetClass
  intro t l len check p s hs hrun hline r becomes released on keyless keysOff buttonless buttonsOff off sets
  have hkeysOff : recomputeKeys (on keyless) = keysOff := by
    show recomputeKeys (on keyless) = if _ then _ else _
    unfold recomputeKeys
    by_cases h : keyless.holding = true ∨ keyless.union = s.desk.keys
    · rw [if_pos h]
      exact if_pos (by simpa using h)
    · rw [if_neg h]
      exact if_neg (by simpa using h)
  have hoff : releaseLine l (s.advance t) = off := by
    show _ = (match r.cls with | .silent => s.advance t | .keyboard => keysOff | .pointer => buttonsOff)
    cases hcls : r.cls with
    | silent => exact releaseLine_silent (s := s.advance t) hcls
    | keyboard => exact (releaseLine_keyboard (s := s.advance t) hcls).trans hkeysOff
    | pointer => exact releaseLine_pointer (s := s.advance t) hcls
  have hsets {c : Instr} {cls : LineClass} (hc : exec c s = .next (settle (setClass l cls (releaseLine l (s.advance t))))) : sets c cls := by
    obtain ⟨hkept, hrest⟩ := takeFrame_sets_class l cls (s.advance t)
    exact ⟨_, hc, hkept, by rw [hoff]; rfl, hrest⟩
  refine ⟨fun hf => ?announce, fun hf => hsets (exec_frame_of_accepted (i := .gone t l len p check) rfl hs hrun hline hf)⟩
  case announce =>
    intro cls
    have hexec := exec_frame_of_accepted (i := .announce t l len p check) rfl hs hrun hline hf
    refine ⟨hsets hexec, fun hcls => ?_⟩
    rw [hexec]
    show Host.Outcome.next (settle (setClass l cls (releaseLine l (s.advance t)))) = _
    rw [releaseLine_silent (s := s.advance t) hcls]
    exact congrArg _ (settle_of_empty _ hs.2)

/-! ## A motion by its stages (R29) -/

/-- Stages 1 and 2 of a motion with the buttons it brings: the residuals stored and the dwell state after its test. -/
def gained (m : MotionIn) (d : Dwell) (s : State) : State :=
  { s with cur := { s.cur with
    deskButtons := m.merged,
    cursor := { s.cur.cursor with
      rx := (gain m.dx s.cur.settings.gain s.cur.cursor.rx).2, ry := (gain m.dy s.cur.settings.gain s.cur.cursor.ry).2, dwell := d } } }

/-- Stages 3 and 4: the X step, then the Y step from where it left. -/
def stepped (m : MotionIn) (d : Dwell) (s : State) : State :=
  stepAxis .y (gain m.dy s.cur.settings.gain s.cur.cursor.ry).1
    (stepAxis .x (gain m.dx s.cur.settings.gain s.cur.cursor.rx).1 (gained m d s))

theorem motion_of_no_screen {m : MotionIn} {s : State} (h : s.cur.cursor.screen = none) :
    motion m s = reportMotion m s.cur.deskButtons (gained m s.cur.cursor.dwell s) := by
  simp [motion, h, gained, gainAndDwell, modCursor]

theorem motion_of_screen {m : MotionIn} {s : State} (h : s.cur.cursor.screen ≠ none) :
    motion m s = reportMotion m s.cur.deskButtons (cursorMirrorSince s.cur.cursor (motionPoint s.cur.cursor m
      (stepped m (s.cur.cursor.dwell.tested (gain m.dx s.cur.settings.gain s.cur.cursor.rx).1
        (gain m.dy s.cur.settings.gain s.cur.cursor.ry).1) s))) := by
  obtain ⟨sc, hsc⟩ := Option.ne_none_iff_exists'.1 h
  simp [motion, hsc, stepped, gained, gainAndDwell, modCursor]

theorem Hold.toward_iff (h : Hold) (mx my : Int) :
    h.toward mx my = true ↔ if h.positive then 0 < (if h.axis = .x then mx else my) else (if h.axis = .x then mx else my) < 0 := by
  unfold Hold.toward
  cases h.axis <;> cases h.positive <;> simp

theorem tested_of_hold {d : Dwell} {h : Hold} (hd : d = .holding h ∨ d = .ready h) (mx my : Int) :
    d.tested mx my = if h.toward mx my then d else .clear := by
  rcases hd with rfl | rfl <;> rfl

theorem isInput_iff (m : MotionIn) (b : BitVec 5) :
    m.isInput b = true ↔ m.dx ≠ 0 ∨ m.dy ≠ 0 ∨ m.wheel ≠ 0 ∨ m.merged &&& ~~~b ≠ 0 := by
  simp [MotionIn.isInput, or_assoc]

theorem motionPoint_of_not_focused {c : Cursor} {m : MotionIn} {s : State} (h : ∀ k, s.focus.st ≠ .focused k) :
    motionPoint c m s = s := by
  unfold motionPoint
  split
  · rename_i k hk
    exact absurd hk (h k)
  · rfl

theorem motionPoint_focused {c : Cursor} {m : MotionIn} {s : State} {k : TargetId} (h : s.focus.st = .focused k) :
    motionPoint c m s =
      if c.x ≠ s.cur.cursor.x ∨ c.y ≠ s.cur.cursor.y ∨ m.merged ≠ s.cur.lastButtons[k.1] ∨ m.wheel ≠ 0
      then buildPoint k m.wheel s else s := by
  simp only [motionPoint, h, or_assoc]

theorem handIn_cur (k : TargetId) (r : Report) (o : Origin) (s : State) : (handIn k r o s).cur = s.cur := by
  dsimp only [handIn]
  split
  · split <;> rfl
  · rfl

theorem buildPoint_of_mapped {k : TargetId} {w : Int} {s : State} {p : Nat × Nat} (h : s.mapCursor = some p) :
    buildPoint k w s =
      (let v := handIn k (.point s.cur.deskButtons p.1 p.2 w) .focus s
       { v with cur := { v.cur with
         lastAbs := s.cur.lastAbs.set k.1 p, lastButtons := s.cur.lastButtons.set k.1 s.cur.deskButtons } }) := by
  simp only [buildPoint, h, handIn_cur]

theorem buildPoint_of_unmapped {k : TargetId} {w : Int} {s : State} (h : s.mapCursor = none) : buildPoint k w s = s := by
  simp only [buildPoint, h]

section
variable {s : State}

theorem mapCursor_of_tile {sc : ScreenId} {a : Rect} {h : HeadId} (hsc : s.cur.cursor.screen = some sc)
    (ha : s.tileRect sc s.cur.cursor.tile = some a) (hh : s.tileSource sc s.cur.cursor.tile = some h) :
    s.mapCursor = some (mapPoint a s.setups[(headTarget h).1] (isHeadB h) s.cur.cursor.x s.cur.cursor.y) := by
  simp only [State.mapCursor, hsc, ha, hh]

theorem mapCursor_eq_none (h : ∀ sc, s.cur.cursor.screen = some sc →
    s.tileRect sc s.cur.cursor.tile = none ∨ s.tileSource sc s.cur.cursor.tile = none) : s.mapCursor = none := by
  unfold State.mapCursor
  split
  · rfl
  · rename_i sc hsc
    split
    · rename_i a head ha hh
      rcases h sc hsc with h | h
      · cases h.symm.trans ha
      · cases h.symm.trans hh
    · rfl

theorem wakeOnInput_of_none_asks (h : ∀ k, s.focus.st = .pending k → ¬s.AsksWake k) : wakeOnInput s = s := by
  cases hst : s.focus.st with
  | pending k => exact wakeOnInput_of_not_asksWake hst (h k hst)
  | nobody | focused k =>
    unfold wakeOnInput
    rw [hst]

end

/-- Settles O17. -/
theorem motionFrameMergesButtons : Obligations.MotionFrameMergesButtons := by
  unfold Obligations.MotionFrameMergesButtons
  refine ⟨?frame, ?motion, fun a s => if_pos rfl, ?wake, ?mapped, ?point⟩
  case frame =>
    intro t l len check p s hs hrun hline hf
    have hexec := exec_frame_of_accepted (i := .motion t l len p check) rfl hs hrun hline hf
    have hkept : DeskKept (s.advance t) (settle (takeFrame l .motion p (s.advance t))) :=
      (worked_takeFrame l .motion p _).trans (kept_settle _).worked
    obtain ⟨hdesk, hhot, hbuttons⟩ := motion_desk
      { dx := signed16 p 1, dy := signed16 p 3, wheel := (at8 p 5).toInt,
        merged := (recomputeButtons (modDeskLine l (fun r => { r with buttons := (at8 p 0).setWidth 5 }) (s.advance t))).desk.merged }
      (recomputeButtons (modDeskLine l (fun r => { r with buttons := (at8 p 0).setWidth 5 }) (s.advance t)))
    have hdesk := (kept_settle _).desk.trans hdesk
    refine ⟨_, hexec, hkept, congrArg (·.lines) hdesk, fun b => ?_, congrArg (·.keys) hdesk, (kept_settle _).hot.trans hhot,
      ((kept_settle _).deskButtons.trans hbuttons).trans (congrArg (·.merged) hdesk).symm, ?_⟩
    · exact Eq.subst (motive := fun d : DeskInput => d.merged.getLsbD b.1 = true ↔
        ∃ j : LineId, d.lines[j.1].cls = .pointer ∧ d.lines[j.1].buttons.getLsbD b.1 = true) hdesk.symm (buttonUnion_getLsbD _ b.1)
    · exact Eq.subst (motive := fun d : DeskInput => _ = settle (motion { merged := d.merged, .. } { s.advance t with desk := d }))
        hdesk.symm rfl
  case motion =>
    intro m s c gx gy pushed d hnone hsome gained' stepped' point input done
    have hdone {v : State} (h : motion m s = reportMotion m s.cur.deskButtons v) : done v :=
      ⟨fun hi => h.trans (if_pos ((isInput_iff m _).2 hi)), fun hi => h.trans (if_neg (mt (isInput_iff m _).1 hi))⟩
    refine ⟨fun hsc => hdone ?_, fun hsc => ?_⟩
    · rw [motion_of_no_screen hsc, ← hnone hsc]
      rfl
    · obtain ⟨hclear, hhold⟩ := hsome hsc
      have hd : c.dwell.tested gx.1 gy.1 = d := by
        have htested {h : Hold} (hh : c.dwell = .holding h ∨ c.dwell = .ready h) : c.dwell.tested gx.1 gy.1 = d := by
          obtain ⟨hpushed, hnot⟩ := hhold h hh
          rw [tested_of_hold hh]
          split
          · rename_i ht
            exact (hpushed ((h.toward_iff _ _).1 ht)).symm
          · rename_i ht
            exact (hnot (mt (h.toward_iff _ _).2 ht)).symm
        cases hdwell : c.dwell with
        | clear => exact (hclear hdwell).symm
        | holding h => exact hdwell ▸ htested (.inl hdwell)
        | ready h => exact hdwell ▸ htested (.inr hdwell)
      have hmotion : motion m s = reportMotion m s.cur.deskButtons (point (motionPoint c m stepped')) := by
        rw [motion_of_screen hsc]
        show reportMotion m _ (cursorMirrorSince c (motionPoint c m (stepped m (c.dwell.tested gx.1 gy.1) s))) = _
        rw [hd]
        rfl
      refine ⟨fun hno => hdone ?_, fun k hk => ⟨fun hch => hdone ?_, fun hch => hdone ?_⟩⟩
      · rw [hmotion, motionPoint_of_not_focused hno]
      · rw [hmotion, motionPoint_focused hk, if_pos hch]
      · rw [hmotion, motionPoint_focused hk, if_neg hch]
  case wake =>
    intro s asks
    exact ⟨fun k ⟨hst, hasks⟩ => wakeOnInput_of_asksWake hst hasks,
      fun h => wakeOnInput_of_none_asks fun k hst hasks => h k ⟨hst, hasks⟩⟩
  case mapped =>
    intro s c
    exact ⟨fun sc a h hsc ha hh => mapCursor_of_tile hsc ha hh, mapCursor_eq_none⟩
  case point =>
    intro k w s
    exact ⟨buildPoint_of_unmapped, fun x y h => buildPoint_of_mapped h⟩

end Sys2Proof.Machine
end

section
/-! PROOFS. The target lines: changes of line state with the end of a resume signal (R13, R16, R21), slots and transmissions (R14, R15), and the joining rules of an output queue (R17 to R20). -/

namespace Sys2Proof.Machine

open Sys2Proof

theorem modTLine_of_same {k : TargetId} {f : TargetLine → TargetLine} {s : State} (h : f s.tlines[k.1] = s.tlines[k.1]) :
    modTLine k f s = s := by
  simp only [modTLine, upd_same _ _ _ h]

theorem modTLine_congr {k : TargetId} {f g : TargetLine → TargetLine} {s : State} (h : f s.tlines[k.1] = g s.tlines[k.1]) :
    modTLine k f s = modTLine k g s := by
  simp only [modTLine, upd, h]

/-! ## What the notice writer leaves -/

@[simp] theorem noticeOf_focus (p : Share) (s : State) : (noticeOf p s).focus = s.focus := rfl
@[simp] theorem noticeOf_tlines (p : Share) (s : State) : (noticeOf p s).tlines = s.tlines := rfl
@[simp] theorem noticeOf_wakes (p : Share) (s : State) : (noticeOf p s).wakes = s.wakes := rfl
@[simp] theorem noticeOf_setups (p : Share) (s : State) : (noticeOf p s).setups = s.setups := rfl
@[simp] theorem noticeOf_now (p : Share) (s : State) : (noticeOf p s).now = s.now := rfl

/-! ## The resume signal's end (R16, R146) -/

/-- The signal ended and the mirror rewritten. -/
def resumeStopped (k : TargetId) (s : State) : State :=
  noticeOf (.line k) (modTLine k (fun l => { l with resumeUntil := none }) s)

theorem resumeStopped_focus (k : TargetId) (s : State) : (resumeStopped k s).focus = s.focus := by
  rw [resumeStopped, noticeOf_focus, modTLine_focus]

theorem resumeStopped_tlines (k : TargetId) (s : State) :
    (resumeStopped k s).tlines = upd s.tlines k fun l => { l with resumeUntil := none } := by
  rw [resumeStopped, noticeOf_tlines, modTLine_tlines]

theorem resumeStopped_wakes (k : TargetId) (s : State) : (resumeStopped k s).wakes = s.wakes := by
  rw [resumeStopped, noticeOf_wakes, modTLine_wakes]

theorem resumeStopped_now (k : TargetId) (s : State) : (resumeStopped k s).now = s.now := by
  rw [resumeStopped, noticeOf_now, modTLine_now]

theorem resumeStopped_wakePolicy (k : TargetId) (s : State) : (resumeStopped k s).wakePolicy k = s.wakePolicy k := by
  simp only [State.wakePolicy, resumeStopped, noticeOf_wakes, modTLine_wakes, noticeOf_setups, modTLine_setups]

theorem enterWatching_eq (k : TargetId) (s : State) :
    enterWatching k s = noticeOf (.power k) (modWake k (fun w => { w with
      state := .watching, due := some (s.now + 1000000 * (s.wakePolicy k).window) }) s) := by
  have hms : Config.ms (1000 * (s.wakePolicy k).window) = 1000000 * (s.wakePolicy k).window := by simp only [Config.ms]; omega
  unfold enterWatching
  rw [hms]
  rfl

theorem stopResume_of_driving {k : TargetId} {s : State} (h : s.tlines[k.1].resumeUntil ≠ none) : stopResume k s = resumeStopped k s :=
  if_pos (Option.isSome_iff_ne_none.2 h)

theorem stopResume_of_none {k : TargetId} {s : State} (h : s.tlines[k.1].resumeUntil = none) : stopResume k s = s := by
  simp [stopResume, h]

/-- A resume signal cut short. -/
def resumeCut (k : TargetId) (s : State) : State :=
  if s.wakes[k.1].state = .signalling then
    noticeOf (.power k) (modWake k (fun w => { w with
      state := .watching, due := some (s.now + 1000000 * (s.wakePolicy k).window) }) (resumeStopped k s))
  else resumeStopped k s

theorem resumeAnswer_stopResume {k : TargetId} {s : State} (h : s.tlines[k.1].resumeUntil ≠ none) :
    resumeAnswer k (stopResume k s) = resumeCut k s := by
  rw [stopResume_of_driving h, resumeAnswer, enterWatching_eq, resumeStopped_now, resumeStopped_wakePolicy]
  simp only [resumeStopped_wakes, resumeCut]

theorem cutResume_eq (k : TargetId) (s : State) :
    cutResume k s = if s.tlines[k.1].resumeUntil ≠ none then resumeCut k s else s := by
  unfold cutResume
  by_cases h : s.tlines[k.1].resumeUntil = none
  · simp [h]
  · rw [if_pos h, if_pos (Option.isSome_iff_ne_none.2 h), resumeAnswer_stopResume h]

theorem resumeCut_focus (k : TargetId) (s : State) : (resumeCut k s).focus = s.focus := by
  unfold resumeCut
  split
  · rw [noticeOf_focus, modWake_focus, resumeStopped_focus]
  · exact resumeStopped_focus k s

theorem resumeCut_tlines (k : TargetId) (s : State) :
    (resumeCut k s).tlines = upd s.tlines k fun l => { l with resumeUntil := none } := by
  unfold resumeCut
  split
  · rw [noticeOf_tlines, modWake_tlines, resumeStopped_tlines]
  · exact resumeStopped_tlines k s

/-- A command that writes nothing but the time, when it has nothing to settle. -/
theorem settle_advance {t : Nat} {s : State} (hs : s.live) : settle (s.advance t) = s.advance t := settle_of_empty _ hs.2

/-- Settles O21. -/
theorem resumeSignalCompletes : Obligations.ResumeSignalCompletes := by
  unfold Obligations.ResumeSignalCompletes
  intro t k d s hs hd u stopped
  have hexec : exec (.resumeSignalEnd t k) s =
      act t (fun s => if reached s.tlines[k.1].resumeUntil s then resumeAnswer k (stopResume k s) else s) s := rfl
  have hdriving : u.tlines[k.1].resumeUntil = some d := hd
  have hdue : reached u.tlines[k.1].resumeUntil u = decide (d ≤ u.now) := by
    rw [hdriving]
    rfl
  rw [hexec, act_live hs]
  refine ⟨fun hle => ?_, fun hlt => ?_⟩
  · have hcut : resumeAnswer k (stopResume k u) = resumeCut k u := resumeAnswer_stopResume (by rw [hdriving]; nofun)
    rw [hdue, if_pos (by simpa using hle), hcut, settle_of_empty _ (by rw [resumeCut_focus]; exact hs.2)]
    rfl
  · rw [hdue, if_neg (by simpa using hlt), settle_advance hs]

/-! ## A change of line state (R13) -/

theorem relinked_eq (l : TargetLine) (new : Link) :
    l.relinked new =
      if l.link = .up then
        { l with link := new, queue := [], lastSent := Keys.empty, onLine := Keys.empty, inTx := if new = .down then none else l.inTx }
      else { l with link := new, inTx := if new = .down then none else l.inTx } := by
  unfold TargetLine.relinked
  split <;> rfl

/-- The line's record changed, and a resume signal ended as it leaves SUSPENDED. -/
def relinkedState (k : TargetId) (new : Link) (s : State) : State :=
  if s.tlines[k.1].link = .suspended then cutResume k (modTLine k (fun l => l.relinked new) s)
  else modTLine k (fun l => l.relinked new) s

theorem setLink_of_same {k : TargetId} {new : Link} {s : State} (h : s.tlines[k.1].link = new) : setLink k new s = s :=
  if_pos h

theorem setLink_of_ne {k : TargetId} {new : Link} {s : State} (h : s.tlines[k.1].link ≠ new) :
    setLink k new s =
      viewReport k (fun w => { w with link := new }) (post (.link k new) (noticeOf (.line k) (relinkedState k new s))) :=
  if_neg h

theorem relinked_link (l : TargetLine) (new : Link) : (l.relinked new).link = new := by
  rw [relinked_eq]
  split <;> rfl

theorem relinked_resumeUntil (l : TargetLine) (new : Link) : (l.relinked new).resumeUntil = l.resumeUntil := by
  rw [relinked_eq]
  split <;> rfl

/-- The focus controller's work after a change of line state keeps the record that the change made. -/
theorem kept_settle_setLink {k : TargetId} {new : Link} {s : State} (h : s.tlines[k.1].link ≠ new) :
    Kept (modTLine k (fun l => l.relinked new) s) (settle (setLink k new s)) :=
  (below_setLink k new s h).kept.trans (kept_settle _)

theorem settle_setLink_link {k : TargetId} {new : Link} {s : State} (h : s.tlines[k.1].link ≠ new) :
    (settle (setLink k new s)).tlines[k.1].link = new := by
  rw [((kept_settle_setLink h).lines k).link, modTLine_tlines, upd_self, relinked_link]

theorem kept_relinkedState {k : TargetId} {new : Link} {s : State} (h : s.tlines[k.1].link ≠ new) :
    Kept (relinkedState k new s) (settle (setLink k new s)) := by
  rw [setLink_of_ne h]
  exact (((kept_noticeOf _ _).trans (kept_post _ _)).trans (kept_viewReport _ _ _)).trans (kept_settle _)

theorem relinkedState_resumeUntil {k : TargetId} {new : Link} {s : State} (hold : s.tlines[k.1].link = .suspended) :
    (relinkedState k new s).tlines[k.1].resumeUntil = none ∧ (relinkedState k new s).tlines[k.1].link = new := by
  have hresume : (modTLine k (fun l => l.relinked new) s).tlines[k.1].resumeUntil = s.tlines[k.1].resumeUntil := by
    rw [modTLine_tlines, upd_self, relinked_resumeUntil]
  have hlink : (modTLine k (fun l => l.relinked new) s).tlines[k.1].link = new := by
    rw [modTLine_tlines, upd_self, relinked_link]
  rw [relinkedState, if_pos hold, cutResume_eq, hresume]
  by_cases hnone : s.tlines[k.1].resumeUntil = none
  · simp only [hnone, ne_eq, not_true_eq_false, if_false]
    exact ⟨hresume.trans hnone, hlink⟩
  · simp only [ne_eq, hnone, not_false_eq_true, if_true, resumeCut_tlines, upd_self]
    exact ⟨trivial, hlink⟩

/-- A line that leaves SUSPENDED drives no resume signal. -/
theorem settle_setLink_resumeUntil {k : TargetId} {new : Link} {s : State} (hold : s.tlines[k.1].link = .suspended)
    (hnew : new ≠ .suspended) : (settle (setLink k new s)).tlines[k.1].resumeUntil = none := by
  have hne : s.tlines[k.1].link ≠ new := fun h => hnew (h.symm.trans hold)
  obtain ⟨hresume, hlink⟩ := relinkedState_resumeUntil (new := new) hold
  exact ((kept_relinkedState hne).lines k).resume (by rw [hlink]; exact hnew) hresume

/-! ## Events on a line (R12, R13) -/

section
variable {t : Nat} {k : TargetId} {f : State → State} {s : State}

theorem onLink_fitted (hs : s.live) (hk : s.fittedTarget k = true) : onLink t k f s = .next (settle (f (s.advance t))) := by
  unfold onLink
  rw [act_live hs, if_pos (show (s.advance t).fittedTarget k = true from hk)]

theorem onLink_same (hs : s.live) (h : s.fittedTarget k = false ∨ f (s.advance t) = s.advance t) :
    onLink t k f s = .next (s.advance t) := by
  unfold onLink
  rw [act_live hs]
  have hsame : (if (s.advance t).fittedTarget k then f (s.advance t) else s.advance t) = s.advance t := by
    rcases h with h | h
    · exact if_neg (by rw [show (s.advance t).fittedTarget k = false from h]; nofun)
    · rw [h, ite_self]
  rw [hsame, settle_advance hs]

theorem exec_presentRises : exec (.presentRises t k) s = onLink t k (fun s => if s.tlines[k.1].link = .down then setLink k .up s else s) s :=
  rfl

theorem exec_presentFalls : exec (.presentFalls t k) s = onLink t k (setLink k .down) s := rfl

theorem exec_suspendIndication :
    exec (.suspendIndication t k) s = onLink t k (fun s => if s.tlines[k.1].link = .up then setLink k .suspended s else s) s := rfl

theorem exec_slotStart {take : Bool} : exec (.slotStart t k take) s = onLink t k (slotStart k take) s := rfl

theorem exec_transmissionComplete :
    exec (.transmissionComplete t k) s = onLink t k (modTLine k TargetLine.endTransmission) s := rfl

end

/-- The frame of a settled change of line state, with the record it makes written out. -/
theorem kept_settle_setLink_of_record {k : TargetId} {new : Link} {s : State} {f : TargetLine → TargetLine}
    (h : s.tlines[k.1].link ≠ new) (hf : s.tlines[k.1].relinked new = f s.tlines[k.1]) :
    Kept (modTLine k f s) (settle (setLink k new s)) := by
  have hrec : modTLine k (fun l => l.relinked new) s = modTLine k f s := modTLine_congr hf
  exact hrec ▸ kept_settle_setLink h

/-- Settles O18. -/
theorem presentRiseBringsLineUp : Obligations.PresentRiseBringsLineUp := by
  unfold Obligations.PresentRiseBringsLineUp
  intro t k s hs
  refine ⟨fun hfit hdown => ?_, fun hnot => ?_⟩
  · have hdown : (s.advance t).tlines[k.1].link = .down := hdown
    have hne : (s.advance t).tlines[k.1].link ≠ .up := by rw [hdown]; nofun
    refine ⟨_, ?_, rfl, settle_setLink_link hne, kept_settle_setLink_of_record hne ?_⟩
    · rw [exec_presentRises, onLink_fitted hs hfit, if_pos hdown]
    · rw [relinked_eq, if_neg hne]
      rfl
  · rw [exec_presentRises]
    exact onLink_same hs (hnot.imp_right fun hne => if_neg hne)

/-- What a line that leaves UP, and the focus controller's work after it, leaves in the line's record. -/
theorem settle_setLink_of_up {k : TargetId} {new : Link} {s : State} (hup : s.tlines[k.1].link = .up) (hne : new ≠ .up) :
    let u := settle (setLink k new s)
    u.tlines[k.1].link = new ∧ u.tlines[k.1].queue = [] ∧ u.tlines[k.1].lastSent = Keys.empty ∧ u.tlines[k.1].onLine = Keys.empty ∧
      u.tlines[k.1].inTx = if new = .down then none else s.tlines[k.1].inTx := by
  intro u
  have hne' : s.tlines[k.1].link ≠ new := by rw [hup]; exact hne.symm
  have hline := (kept_settle_setLink hne').lines k
  simp only [modTLine_tlines, upd_self, relinked_eq, if_pos hup] at hline
  obtain ⟨hqueue, hsent⟩ := hline.queue hne
  have hwire := hline.wire
  simp only [TargetLine.wire, Prod.mk.injEq] at hwire
  exact ⟨hwire.1, hqueue, hsent, hwire.2.1, hwire.2.2⟩

/-- The record of a line that takes a new state. -/
def relinkedLine (new : Link) (l : TargetLine) : TargetLine :=
  if l.link = .up then
    { l with link := new, queue := [], lastSent := Keys.empty, onLine := Keys.empty, inTx := if new = .down then none else l.inTx }
  else { l with link := new, inTx := if new = .down then none else l.inTx }

theorem relinkedState_eq {k : TargetId} {new : Link} {s : State} :
    relinkedState k new s =
      let v := modTLine k (relinkedLine new) s
      if s.tlines[k.1].link = .suspended ∧ s.tlines[k.1].resumeUntil ≠ none then resumeCut k v else v := by
  have hv : modTLine k (fun l => l.relinked new) s = modTLine k (relinkedLine new) s := modTLine_congr (relinked_eq _ _)
  have hresume : (modTLine k (relinkedLine new) s).tlines[k.1].resumeUntil = s.tlines[k.1].resumeUntil := by
    rw [← hv, modTLine_tlines, upd_self, relinked_resumeUntil]
  rw [relinkedState, hv, cutResume_eq, hresume, ite_and]

/-- What every change of a line state does. -/
theorem setLink_writes (k : TargetId) (new : Link) (s : State) :
    let l := s.tlines[k.1]
    let v := modTLine k (relinkedLine new) s
    let stopped := noticeOf (.line k) (modTLine k (fun l => { l with resumeUntil := none }) v)
    let watching := noticeOf (.power k) (modWake k (fun w => { w with
      state := .watching, due := some (s.now + 1000000 * (s.wakePolicy k).window) }) stopped)
    let cut : State :=
      if l.link = .suspended ∧ l.resumeUntil ≠ none then
        if s.wakes[k.1].state = .signalling then watching else stopped
      else v
    (l.link = new → setLink k new s = s) ∧
    (l.link ≠ new →
      setLink k new s = viewReport k (fun w => { w with link := new }) (post (.link k new) (noticeOf (.line k) cut))) := by
  intro l v stopped watching cut
  refine ⟨setLink_of_same, fun hne => ?_⟩
  have hcutting : resumeCut k v = if s.wakes[k.1].state = .signalling then watching else stopped := rfl
  have hcut : relinkedState k new s = cut := by
    rw [relinkedState_eq]
    dsimp only
    rw [hcutting]
  rw [setLink_of_ne hne, hcut]

theorem exec_presentFalls_of_fitted {t : Nat} {k : TargetId} {s : State} (hs : s.live) (hfit : s.fittedTarget k = true) :
    exec (.presentFalls t k) s = .next (settle (setLink k .down (s.advance t))) := by
  rw [exec_presentFalls, onLink_fitted hs hfit]

theorem exec_presentFalls_of_down {t : Nat} {k : TargetId} {s : State} (hs : s.live) (hdown : s.tlines[k.1].link = .down) :
    exec (.presentFalls t k) s = .next (s.advance t) := by
  rw [exec_presentFalls]
  exact onLink_same hs (.inr (setLink_of_same (s := s.advance t) hdown))

theorem exec_suspendIndication_of_up {t : Nat} {k : TargetId} {s : State} (hs : s.live) (hfit : s.fittedTarget k = true)
    (hup : s.tlines[k.1].link = .up) :
    exec (.suspendIndication t k) s = .next (settle (setLink k .suspended (s.advance t))) := by
  rw [exec_suspendIndication, onLink_fitted hs hfit]
  have hup : (s.advance t).tlines[k.1].link = .up := hup
  rw [if_pos hup]

theorem exec_suspendIndication_of_not_up {t : Nat} {k : TargetId} {s : State} (hs : s.live) (hup : s.tlines[k.1].link ≠ .up) :
    exec (.suspendIndication t k) s = .next (s.advance t) := by
  rw [exec_suspendIndication]
  exact onLink_same hs (.inr (if_neg (show (s.advance t).tlines[k.1].link ≠ .up from hup)))

/-- Settles O19. -/
theorem leavingUpFlushesQueue : Obligations.LeavingUpFlushesQueue := by
  unfold Obligations.LeavingUpFlushesQueue
  refine ⟨setLink_writes, ?events⟩
  case events =>
    intro t k s hs hfit
    have hfalls := exec_presentFalls_of_fitted (t := t) hs hfit
    refine ⟨hfalls, exec_suspendIndication_of_up hs hfit, fun hup => ⟨⟨_, hfalls, ?_⟩, ⟨_, exec_suspendIndication_of_up hs hfit hup, ?_⟩⟩,
      fun hsusp => ⟨exec_suspendIndication_of_not_up hs (by rw [hsusp]; nofun), _, hfalls, ?_⟩,
      fun hdown => ⟨exec_suspendIndication_of_not_up hs (by rw [hdown]; nofun), exec_presentFalls_of_down hs hdown⟩⟩
    · have hup : (s.advance t).tlines[k.1].link = .up := hup
      obtain ⟨hlink, hqueue, hsent, hline, htx⟩ := settle_setLink_of_up (new := .down) hup nofun
      refine ⟨hlink, hqueue, hsent, hline, htx, kept_settle_setLink_of_record (by rw [hup]; nofun) ?_⟩
      rw [relinked_eq, if_pos hup, if_pos rfl]
    · have hup : (s.advance t).tlines[k.1].link = .up := hup
      obtain ⟨hlink, hqueue, hsent, hline, htx⟩ := settle_setLink_of_up (new := .suspended) hup nofun
      refine ⟨hlink, hqueue, hsent, hline, htx, kept_settle_setLink_of_record (by rw [hup]; nofun) ?_⟩
      rw [relinked_eq, if_pos hup, if_neg nofun]
    · have hsusp : (s.advance t).tlines[k.1].link = .suspended := hsusp
      have hne : (s.advance t).tlines[k.1].link ≠ .down := by rw [hsusp]; nofun
      refine ⟨settle_setLink_link hne, settle_setLink_resumeUntil hsusp nofun, kept_settle_setLink_of_record hne ?_⟩
      rw [relinked_eq, if_neg (by rw [hsusp]; nofun), if_pos rfl]

/-! ## Slots and transmissions (R14, R15) -/

theorem endTransmission_of_none {l : TargetLine} (h : l.inTx = none) : l.endTransmission = l := by
  simp only [TargetLine.endTransmission, h]

theorem endTransmission_eq (l : TargetLine) :
    l.endTransmission = { l with
      inTx := none,
      onLine := if l.link = .up then
          match l.inTx with
          | some (.keys keys) => keys
          | _ => l.onLine
        else l.onLine } := by
  unfold TargetLine.endTransmission
  match h : l.inTx with
  | none => simp only [ite_self]; rw [← h]
  | some (.keys k) => rfl
  | some (.point _ _ _ _) => simp only [ite_self]

theorem startTransmission_of_cons {l : TargetLine} {e : Entry} {q : List Entry} (h : l.queue = e :: q) :
    l.startTransmission = { l with queue := q, inTx := some e.report } := by
  simp only [TargetLine.startTransmission, h]

theorem startTransmission_of_empty {l : TargetLine} (h : l.queue = []) : l.startTransmission = l := by
  simp only [TargetLine.startTransmission, h]

theorem slotStart_of_closed {k : TargetId} {take : Bool} {s : State} (h : s.tlines[k.1].inTx = none) :
    slotStart k take s =
      match s.tlines[k.1].link with
      | .down => s
      | .suspended => if take then setLink k .up s else s
      | .up => if take then modTLine k TargetLine.startTransmission s else s := by
  unfold slotStart
  rw [modTLine_of_same (endTransmission_of_none h)] <;> rfl

/-- Settles O20. -/
theorem slotSendsOldestReport : Obligations.SlotSendsOldestReport := by
  unfold Obligations.SlotSendsOldestReport
  intro t k s hs
  refine ⟨fun take htx => ⟨?sends, ?wakes, ?same⟩, ?complete⟩
  case sends =>
    intro e q hfit hup htake hq
    have hslot : slotStart k take (s.advance t) =
        modTLine k (fun l => { l with queue := q, inTx := some e.report }) (s.advance t) := by
      rw [slotStart_of_closed (s := s.advance t) htx, show (s.advance t).tlines[k.1].link = .up from hup, htake]
      exact modTLine_congr (startTransmission_of_cons hq)
    rw [exec_slotStart, onLink_fitted hs hfit, hslot]
    exact congrArg _ (settle_of_empty (modTLine k _ (s.advance t)) hs.2)
  case wakes =>
    intro hfit hsusp htake
    have hsusp : (s.advance t).tlines[k.1].link = .suspended := hsusp
    have hne : (s.advance t).tlines[k.1].link ≠ .up := by rw [hsusp]; nofun
    refine ⟨_, ?_, rfl, settle_setLink_link hne, settle_setLink_resumeUntil hsusp nofun, kept_settle_setLink_of_record hne ?_⟩
    · rw [exec_slotStart, onLink_fitted hs hfit, slotStart_of_closed (s := s.advance t) htx, hsusp, htake]
      rfl
    · rw [relinked_eq, if_neg hne]
      rfl
  case same =>
    intro h
    rw [exec_slotStart]
    refine onLink_same hs (h.imp_right fun h => ?_)
    rw [slotStart_of_closed (s := s.advance t) htx]
    rcases h with hdown | htake | ⟨hup, hq⟩
    · rw [show (s.advance t).tlines[k.1].link = .down from hdown]
    · rw [htake]
      split <;> rfl
    · rw [show (s.advance t).tlines[k.1].link = .up from hup]
      show (if take then modTLine k TargetLine.startTransmission (s.advance t) else s.advance t) = _
      rw [modTLine_of_same (s := s.advance t) (startTransmission_of_empty hq), ite_self]
  case complete =>
    rw [exec_transmissionComplete]
    cases hfit : s.fittedTarget k
    · exact onLink_same hs (.inl hfit)
    · rw [onLink_fitted hs hfit, settle_of_empty _ (by exact hs.2)]
      exact congrArg _ (modTLine_congr (endTransmission_eq _))

/-! ## The joining rules (R17 to R20) -/

theorem sameCodes_iff (a b : List Byte) : sameCodes a b = true ↔ ∀ c, c ∈ a ↔ c ∈ b := by
  simp only [sameCodes, Bool.and_eq_true, List.all_eq_true, List.contains_iff_mem]
  exact ⟨fun ⟨hab, hba⟩ c => ⟨hab c, hba c⟩, fun h => ⟨fun c => (h c).1, fun c => (h c).2⟩⟩

theorem discards_iff (l : TargetLine) (new : Entry) :
    l.discards new = true ↔
      new.origin = .focus ∧ ∃ keys, new.report = .keys keys ∧ keys.mods = l.lastSent.mods ∧ ∀ c, c ∈ keys.codes ↔ c ∈ l.lastSent.codes := by
  obtain ⟨report, origin⟩ := new
  cases report <;> cases origin <;> simp [TargetLine.discards, sameKeys, sameCodes_iff]

/-- A POINT that the newest entry merges with, and the entry the merge makes (R18). -/
def Merges (newest new merged : Entry) : Prop :=
  ∃ b x y w x' y' w', newest.report = .point b x y w ∧ new.report = .point b x' y' w' ∧ -8 ≤ w + w' ∧ w + w' ≤ 7 ∧
    merged = { report := .point b x' y' (w + w'), origin := new.origin }

theorem mergePoint_eq_some_iff (newest new merged : Entry) : mergePoint newest new = some merged ↔ Merges newest new merged := by
  obtain ⟨r, o⟩ := newest
  obtain ⟨r', o'⟩ := new
  cases r with
  | keys k => simp [mergePoint, Merges]
  | point b x y w =>
    cases r' with
    | keys k => simp [mergePoint, Merges]
    | point b' x' y' w' =>
      simp only [mergePoint, Merges, Report.point.injEq, Option.ite_none_right_eq_some, Option.some.injEq]
      constructor
      · rintro ⟨⟨rfl, hlo, hhi⟩, rfl⟩
        exact ⟨b, x, y, w, x', y', w', ⟨rfl, rfl, rfl, rfl⟩, ⟨rfl, rfl, rfl, rfl⟩, hlo, hhi, rfl⟩
      · rintro ⟨_, _, _, _, _, _, _, ⟨rfl, rfl, rfl, rfl⟩, ⟨rfl, rfl, rfl, rfl⟩, hlo, hhi, rfl⟩
        exact ⟨⟨rfl, hlo, hhi⟩, rfl⟩

theorem join_lastSent_of_keys {l : TargetLine} {new : Entry} {keys : Keys} (h : new.report = .keys keys) :
    (l.join new).lastSent = keys := by
  simp only [TargetLine.join, h]

theorem join_lastSent_of_point {l : TargetLine} {new : Entry} {b : BitVec 5} {x y : Nat} {w : Int} (h : new.report = .point b x y w) :
    (l.join new).lastSent = l.lastSent := by
  simp only [TargetLine.join, h]

theorem replaceNewest_eq_none {new : Entry} {q : List Entry} (h : ∀ x ∈ q, x.report.isKeys ≠ new.report.isKeys) :
    replaceNewest new q = none := by
  induction q with
  | nil => rfl
  | cons e es ih =>
    rw [replaceNewest, ih fun x hx => h x (List.mem_cons_of_mem _ hx)]
    exact if_neg (h e List.mem_cons_self)

theorem replaceNewest_eq_some {new e : Entry} {before after : List Entry} (he : e.report.isKeys = new.report.isKeys)
    (h : ∀ x ∈ after, x.report.isKeys ≠ new.report.isKeys) :
    replaceNewest new (before ++ e :: after) = some (before ++ new :: after) := by
  induction before with
  | nil =>
    rw [List.nil_append, replaceNewest, replaceNewest_eq_none h]
    exact if_pos he
  | cons b bs ih => rw [List.cons_append, replaceNewest, ih]; rfl

/-- The queue's newest entry merges with a new one. -/
def MergesLast (q : List Entry) (new merged : Entry) : Prop := ∃ e, q.getLast? = some e ∧ Merges e new merged

theorem joinQueue_of_merges {q : List Entry} {new m : Entry} (h : MergesLast q new m) : joinQueue q new = (q.dropLast ++ [m], false) := by
  obtain ⟨e, he, hm⟩ := h
  unfold joinQueue
  rw [he, Option.bind_some, (mergePoint_eq_some_iff _ _ _).2 hm]

theorem joinQueue_of_not_merges {q : List Entry} {new : Entry} (h : ∀ m, ¬MergesLast q new m) :
    joinQueue q new =
      if q.length < 4 then (q ++ [new], false)
      else (match replaceNewest new q with
        | some q' => q'
        | none => if new.report.isKeys then q.tail ++ [new] else q, true) := by
  have hnone : q.getLast?.bind (mergePoint · new) = none := by
    rw [Option.bind_eq_none_iff]
    intro e he
    rw [Option.eq_none_iff_forall_not_mem]
    exact fun m hm => h m ⟨e, he, (mergePoint_eq_some_iff _ _ _).1 hm⟩
  unfold joinQueue
  rw [hnone]
  show (if q.length < 4 then _ else _) = _
  congr 1
  cases replaceNewest new q with
  | some q' => rfl
  | none => cases new.report.isKeys <;> rfl

section
variable {k : TargetId} {r : Report} {o : Origin} {s : State}

theorem handIn_of_not_up (h : s.tlines[k.1].link ≠ .up) : handIn k r o s = s := if_neg fun hu => h hu.1

theorem handIn_of_discards (h : s.tlines[k.1].discards { report := r, origin := o } = true) : handIn k r o s = s :=
  if_neg fun hu => by rw [h] at hu; exact absurd hu.2 nofun

theorem handIn_of_join (hup : s.tlines[k.1].link = .up) (h : s.tlines[k.1].discards { report := r, origin := o } = false) :
    handIn k r o s =
      (let l' := s.tlines[k.1].join { report := r, origin := o }
       if l'.collapsed = s.tlines[k.1].collapsed then modTLine k (fun _ => l') s else noticeOf (.line k) (modTLine k (fun _ => l') s)) :=
  if_pos ⟨hup, h⟩

/-- The line's record after a report has been handed in: it joins, or nothing changes. -/
theorem handIn_cases (k : TargetId) (r : Report) (o : Origin) (s : State) :
    handIn k r o s = s ∨
      s.tlines[k.1].link = .up ∧ s.tlines[k.1].discards { report := r, origin := o } = false ∧
        (handIn k r o s).tlines = upd s.tlines k fun _ => s.tlines[k.1].join { report := r, origin := o } := by
  by_cases hup : s.tlines[k.1].link = .up
  · cases hd : s.tlines[k.1].discards { report := r, origin := o }
    · refine .inr ⟨hup, rfl, ?_⟩
      rw [handIn_of_join hup hd]
      dsimp only
      split <;> rfl
    · exact .inl (handIn_of_discards hd)
  · exact .inl (handIn_of_not_up hup)

theorem handIn_tlines_of_join (hup : s.tlines[k.1].link = .up) (h : s.tlines[k.1].discards { report := r, origin := o } = false) :
    (handIn k r o s).tlines[k.1] = s.tlines[k.1].join { report := r, origin := o } := by
  rw [handIn_of_join hup h]
  dsimp only
  split <;> exact upd_self _ _ _

end

/-- Settles O22: the report is discarded, or the line's record joins it by the first rule that fits. -/
theorem reportJoinsQueue : Obligations.ReportJoinsQueue := by
  unfold Obligations.ReportJoinsQueue
  intro k r o s l u l' new merges mergeable
  refine ⟨handIn_of_not_up, ?repeats, ?joins, ?written, ?wire, ?resume, ?others, kept_handIn k r o s⟩
  case repeats =>
    intro keys hr ho hmods hcodes
    exact handIn_of_discards ((discards_iff _ _).2 ⟨ho, keys, hr, hmods, hcodes⟩)
  case joins =>
    intro hup hnew
    have hdiscards : l.discards new = false := by
      rw [Bool.eq_false_iff, Ne, discards_iff]
      rintro ⟨ho, keys, hr, hmods, hcodes⟩
      rcases hnew with hrel | hkeys
      · cases hrel.symm.trans ho
      · rcases hkeys keys hr with hne | ⟨c, hc⟩
        · exact hne hmods
        · exact hc (hcodes c)
    have hl' : l' = l.join new := handIn_tlines_of_join hup hdiscards
    have hqueue : l'.queue = (joinQueue l.queue new).1 := by rw [hl']; rfl
    have hcount : l'.collapsed = if (joinQueue l.queue new).2 then satInc l.collapsed else l.collapsed := by rw [hl']; rfl
    have hnot (hno : ¬mergeable) (m : Entry) : ¬MergesLast l.queue new m := by
      rintro ⟨e, he, b, x, y, w, x', y', w', hreport, hr, hlo, hhi, -⟩
      exact hno ⟨e, b, x, y, w, x', y', w', he, hreport, hr, hlo, hhi⟩
    refine ⟨?merge, fun hno hlen => ?join, fun hno hlen => ?full, fun keys hr => ?keys, fun b x y w hr => ?point⟩
    case merge =>
      rintro ⟨e, b, x, y, w, x', y', w', he, hreport, hr, hlo, hhi⟩
      rw [joinQueue_of_merges ⟨e, he, b, x, y, w, x', y', w', hreport, hr, hlo, hhi, rfl⟩] at hqueue hcount
      exact ⟨e, b, x, y, w, x', y', w', he, hreport, hr, hlo, hhi, hqueue, hcount⟩
    case join =>
      rw [joinQueue_of_not_merges (hnot hno), if_pos hlen] at hqueue hcount
      exact ⟨hqueue, hcount⟩
    case full =>
      rw [joinQueue_of_not_merges (hnot hno), if_neg (not_lt.2 hlen)] at hqueue hcount
      refine ⟨fun before e after hq he hafter => ?_, fun hno => ?_, hcount⟩
      · rw [hqueue, hq, replaceNewest_eq_some (new := new) he hafter]
      · rw [hqueue, replaceNewest_eq_none (new := new) hno]
    case keys =>
      rw [hl']
      exact join_lastSent_of_keys hr
    case point =>
      rw [hl']
      exact join_lastSent_of_point hr
  case written =>
    intro v
    by_cases hjoin : l.link = .up ∧ l.discards new = false
    · obtain ⟨hup, hd⟩ := hjoin
      have hl' : l' = l.join new := handIn_tlines_of_join hup hd
      have hu : u = if l'.collapsed = l.collapsed then v else noticeOf (.line k) v := by
        have hv : v = modTLine k (fun _ => l.join new) s := by rw [← hl']
        rw [hv, hl']
        exact handIn_of_join hup hd
      exact ⟨fun h => hu.trans (if_pos h), fun h => hu.trans (if_neg h)⟩
    · have hu : u = s := if_neg hjoin
      have hl' : l' = l := by show u.tlines[k.1] = l; rw [hu]
      exact ⟨fun _ => hu.trans (modTLine_of_same hl').symm, fun h => absurd (congrArg (·.collapsed) hl') h⟩
  case wire =>
    obtain h | ⟨-, -, h⟩ := handIn_cases k r o s
    · exact congrArg (fun v : State => v.tlines[k.1].wire) h
    · show (handIn k r o s).tlines[k.1].wire = _
      simp only [h, upd_self]
      rfl
  case resume =>
    obtain h | ⟨-, -, h⟩ := handIn_cases k r o s
    · exact congrArg (fun v : State => v.tlines[k.1].resumeUntil) h
    · show (handIn k r o s).tlines[k.1].resumeUntil = _
      simp only [h, upd_self]
      rfl
  case others =>
    intro j hj
    obtain h | ⟨-, -, h⟩ := handIn_cases k r o s
    · exact congrArg (fun v : State => v.tlines[j.1]) h
    · show (handIn k r o s).tlines[j.1] = _
      simp only [h, upd_ne _ _ _ _ hj.symm]

end Sys2Proof.Machine
end

section
/-! PROOFS. The cursor engine: the gain (R30), the mapping of a point (R42), a step on an axis (R33 to R37), and DESK_SET (R27). -/

namespace Sys2Proof.Machine

open Sys2Proof

/-! ## The gain (R30) -/

theorem gain_move (d : Int) (g : Nat) (r : Int) : (gain d g r).1 = (d * g + r).tdiv 8 := rfl

/-- The residual has the total's sign or is 0. -/
theorem gain_residual_sign (d : Int) (g : Nat) (r : Int) :
    (0 ≤ d * g + r → 0 ≤ (gain d g r).2) ∧ (d * g + r ≤ 0 → (gain d g r).2 ≤ 0) := by
  have hres : (gain d g r).2 = (d * g + r).tmod 8 := by
    have := Int.mul_tdiv_add_tmod (d * g + r) 8
    simp only [gain]
    omega
  rw [hres]
  refine ⟨Int.tmod_nonneg 8, fun h => ?_⟩
  have hneg := Int.tmod_nonneg (a := -(d * g + r)) 8 (by omega)
  rw [Int.neg_tmod] at hneg
  omega

/-- Settles O23. -/
theorem gainSplitsTotal : Obligations.GainSplitsTotal := by
  unfold Obligations.GainSplitsTotal
  intro d r g hd hd' hg hg' hr hr' total move residual
  obtain ⟨hsplit, hlo, hhi⟩ := gain_spec d g r
  obtain ⟨hpos, hneg⟩ := gain_residual_sign d g r
  have hg : (1 : Int) ≤ g := by omega
  have hg' : (g : Int) ≤ 32 := by omega
  have hproduct : -65536 ≤ d * g ∧ d * g ≤ 65504 := by constructor <;> nlinarith
  have hsplit : 8 * move + residual = d * g + r := hsplit
  have hlo : -7 ≤ residual := hlo
  have hhi : residual ≤ 7 := hhi
  refine ⟨hsplit, rfl, hlo, hhi, hpos, hneg, ?_⟩
  show -65543 ≤ d * g + r ∧ d * g + r ≤ 65511 ∧ -8192 ≤ move ∧ move ≤ 8188
  omega

/-! ## The mapping of a point (R42) -/

/-- A part of `w` points scaled to `n` stays below `n`. -/
theorem scaled_lt {u w n : Nat} (hu : u < w) (hn : 0 < n) : u * n / w < n :=
  Nat.div_lt_of_lt_mul (Nat.mul_lt_mul_of_pos_right hu hn)

/-- An absolute coordinate of a point within the span lies in 0 to 32767. -/
theorem absolute_le {p span : Nat} (h : p < span) : p * 32768 / span ≤ 32767 :=
  Nat.le_of_lt_succ (Nat.div_lt_of_lt_mul (Nat.mul_lt_mul_of_pos_right h (by omega)))

/-- A pixel of a fitted head lies within the span. -/
theorem headOffset_add_lt_span {q : Setup} {b : Bool} {px py : Nat} (hb : b = true → q.headB = true)
    (hx : px < (q.headSize b).1) (hy : py < (q.headSize b).2) :
    (q.headOffset b).1 + px < q.spanW ∧ (q.headOffset b).2 + py < q.spanH := by
  unfold Setup.headOffset Setup.headSize Setup.spanW Setup.spanH at *
  cases b
  · cases q.headB <;> cases q.under <;> simp at * <;> omega
  · rw [hb rfl]
    cases q.under <;> simp at * <;> omega

/-- Settles O25. -/
theorem mappedPointIsInRange : Obligations.MappedPointIsInRange := by
  unfold Obligations.MappedPointIsInRange
  intro r q b cx cy hin hb hwA hhA hwB hhB hw hh sw sh ox oy px py
  have hsize : q.headSize b = (hw, hh) := by
    show (if b then _ else _) = _
    cases b <;> rfl
  have hoffset : q.headOffset b = (ox, oy) := by
    show (if !b then _ else _) = (if b = true ∧ q.under = false then q.wA else 0, if b = true ∧ q.under = true then q.hA else 0)
    cases b <;> cases q.under <;> rfl
  have hmap : mapPoint r q b cx cy = ((ox + px) * 32768 / sw, (oy + py) * 32768 / sh) := by
    unfold mapPoint
    rw [hsize, hoffset]
    rfl
  obtain ⟨⟨hxlo, hxhi⟩, hylo, hyhi⟩ := (Rect.contains_iff r cx cy).1 hin
  have hpos : 0 < hw ∧ 0 < hh := by
    show 0 < (if b then q.wB else q.wA) ∧ 0 < (if b then q.hB else q.hA)
    cases b
    · exact ⟨hwA, hhA⟩
    · exact ⟨hwB, hhB⟩
  have hpx : px < hw := scaled_lt (by omega) hpos.1
  have hpy : py < hh := scaled_lt (by omega) hpos.2
  obtain ⟨hspanW, hspanH⟩ := headOffset_add_lt_span (px := px) (py := py) hb (by rw [hsize]; exact hpx) (by rw [hsize]; exact hpy)
  rw [hoffset] at hspanW hspanH
  refine ⟨hmap, hpx, hpy, ?_⟩
  rw [hmap]
  exact ⟨absolute_le hspanW, absolute_le hspanH⟩

/-! ## Locating a point (R40) -/

section
variable {x y : Int} {s : State}

/-- A tile of the state holds a point. -/
def State.holdsPoint (s : State) (x y : Int) (sc : ScreenId) (i : Fin 4) : Bool :=
  match s.tileRect sc i with
  | some r => r.contains x y
  | none => false

theorem holdsPoint_iff {sc : ScreenId} {i : Fin 4} :
    s.holdsPoint x y sc i = true ↔ ∃ q, s.tileRect sc i = some q ∧ q.contains x y = true := by
  unfold State.holdsPoint
  cases s.tileRect sc i <;> simp

theorem locate_eq (x y : Int) (s : State) :
    s.locate x y = (ids 6).findSome? fun sc =>
      if s.cur.geo[sc.1].enabled && s.cur.geo[sc.1].rect.contains x y then ((ids 4).find? (s.holdsPoint x y sc)).map fun i => (sc, i)
      else none := rfl

theorem locate_eq_some {sc : ScreenId} {i : Fin 4} (h : s.locate x y = some (sc, i)) :
    s.cur.geo[sc.1].enabled = true ∧ ∃ q, s.tileRect sc i = some q ∧ q.contains x y = true := by
  rw [locate_eq] at h
  obtain ⟨d, -, hd⟩ := List.exists_of_findSome?_eq_some h
  rw [Option.ite_none_right_eq_some, Bool.and_eq_true, Option.map_eq_some_iff] at hd
  obtain ⟨⟨hen, -⟩, j, hj, hpair⟩ := hd
  obtain ⟨rfl, rfl⟩ := Prod.mk.injEq .. ▸ hpair
  exact ⟨hen, holdsPoint_iff.1 (List.find?_some hj)⟩

/-- A tile lies within its screen. -/
theorem tileOf_within {l : Layout} {W H : Nat} {i : Fin 4} {r : Rect} (h : tileOf l W H i = some r) :
    r.x + r.w ≤ W ∧ r.y + r.h ≤ H := by
  cases isTile_of_tileOf h <;> dsimp only <;> omega

/-- A tile's point lies on its screen. -/
theorem rect_contains_of_tileRect {sc : ScreenId} {i : Fin 4} {q : Rect} (hq : s.tileRect sc i = some q)
    (h : q.contains x y = true) : s.cur.geo[sc.1].rect.contains x y = true := by
  rw [State.tileRect, Option.map_eq_some_iff] at hq
  obtain ⟨r, hr, rfl⟩ := hq
  simp only [Rect.contains, decide_eq_true_eq] at h
  obtain ⟨hx, hy⟩ := tileOf_within hr
  refine decide_eq_true ?_
  dsimp only [Placement.rect]
  omega

theorem locate_eq_none (h : s.locate x y = none) {sc : ScreenId} {i : Fin 4} {q : Rect} (hen : s.cur.geo[sc.1].enabled = true)
    (hq : s.tileRect sc i = some q) : q.contains x y = false := by
  by_contra hin
  rw [Bool.not_eq_false] at hin
  rw [locate_eq, List.findSome?_eq_none_iff] at h
  have hsc := h sc (mem_ids sc)
  rw [hen, rect_contains_of_tileRect hq hin, Bool.and_self, if_pos rfl, Option.map_eq_none_iff, List.find?_eq_none] at hsc
  exact hsc i (mem_ids i) (holdsPoint_iff.2 ⟨q, hq, hin⟩)

end

/-! ## A step on an axis (R33 to R37) -/

theorem modCursor_congr {f g : Cursor → Cursor} {s : State} (h : f s.cur.cursor = g s.cur.cursor) : modCursor f s = modCursor g s := by
  simp only [modCursor, h]

theorem Rect.limit_eq {r : Rect} (hw : 0 < r.w) (hh : 0 < r.h) (v : Int) :
    r.limit .x v = (max (r.x : Int) (min v (r.x + r.w - 1))).toNat ∧
      r.limit .y v = (max (r.y : Int) (min v (r.y + r.h - 1))).toNat := by
  constructor
  · show (if v < (r.x : Int) then r.x else if ((r.x + r.w - 1 : Nat) : Int) < v then r.x + r.w - 1 else v.toNat) = _
    split_ifs <;> omega
  · show (if v < (r.y : Int) then r.y else if ((r.y + r.h - 1 : Nat) : Int) < v then r.y + r.h - 1 else v.toNat) = _
    split_ifs <;> omega

section
variable {a : Axis} {m : Int} {s : State}

theorem stepAxis_of_clamping (hm : m ≠ 0)
    (h : s.meets (s.cur.cursor.candidate a m) = .outside ∨ s.meets (s.cur.cursor.candidate a m) = .barrier) :
    stepAxis a m s = clampStep a m .clear s := by
  rw [stepAxis, if_neg hm]
  rcases h with h | h <;> simp only [h]

theorem stepAxis_of_own {sc : ScreenId} {i : Fin 4} (hm : m ≠ 0) (h : s.meets (s.cur.cursor.candidate a m) = .own sc i) :
    stepAxis a m s = acceptStep (s.cur.cursor.candidate a m) sc i s := by
  rw [stepAxis, if_neg hm]
  simp only [h]

theorem stepAxis_of_invites {sc : ScreenId} {i : Fin 4} {t : TargetId} (hm : m ≠ 0)
    (h : s.meets (s.cur.cursor.candidate a m) = .invites sc i t) :
    stepAxis a m s =
      match s.cur.cursor.dwell.invited s.cur.settings.dwell s.now a (decide (0 < m)) t with
      | some d => clampStep a m d s
      | none => askFocus (.request .glide (.target t)) (acceptStep (s.cur.cursor.candidate a m) sc i s) := by
  rw [stepAxis, if_neg hm]
  simp only [h] <;> rfl

end

section
variable {p : Int × Int} {sc : ScreenId} {i : Fin 4} {s : State}

/-- The candidate's tile is the current one, or shows the focus target (R34). -/
def State.OwnTile (s : State) (sc : ScreenId) (i : Fin 4) : Prop :=
  (s.cur.cursor.screen = some sc ∧ s.cur.cursor.tile = i) ∨ ∃ t, s.tileTarget sc i = some t ∧ s.focus.st.target = some t

/-- The candidate's tile invites focus to its target (R35). -/
def State.InvitesTo (s : State) (sc : ScreenId) (i : Fin 4) (t : TargetId) : Prop :=
  s.tileCond sc i = .live ∧ s.tileTarget sc i = some t ∧ s.cur.settings.glide = true ∧ s.focus.pin = false

theorem ownTile_iff :
    s.OwnTile sc i ↔ (s.cur.cursor.screen = some sc ∧ s.cur.cursor.tile = i) ∨
      ((s.tileTarget sc i).isSome ∧ s.tileTarget sc i = s.focus.st.target) := by
  unfold State.OwnTile
  cases s.tileTarget sc i <;> simp [eq_comm]

theorem meets_of_unlocated (h : s.locate p.1 p.2 = none) : s.meets p = .outside := by
  simp only [State.meets, h]

theorem meets_of_own (h : s.locate p.1 p.2 = some (sc, i)) (hown : s.OwnTile sc i) : s.meets p = .own sc i := by
  simp only [State.meets, h, if_pos (ownTile_iff.1 hown)]

theorem meets_of_invites {t : TargetId} (h : s.locate p.1 p.2 = some (sc, i)) (hown : ¬s.OwnTile sc i) (hi : s.InvitesTo sc i t) :
    s.meets p = .invites sc i t := by
  obtain ⟨hlive, ht, hglide, hpin⟩ := hi
  have hown := mt ownTile_iff.2 hown
  simp only [State.meets, h, if_neg hown]
  rw [ht]
  exact if_pos ⟨hlive, hglide, hpin⟩

theorem meets_of_barrier (h : s.locate p.1 p.2 = some (sc, i)) (hown : ¬s.OwnTile sc i) (hi : ∀ t, ¬s.InvitesTo sc i t) :
    s.meets p = .barrier := by
  have hown := mt ownTile_iff.2 hown
  simp only [State.meets, h, if_neg hown]
  cases ht : s.tileTarget sc i with
  | none => rfl
  | some t => exact if_neg fun ⟨hlive, hglide, hpin⟩ => hi t ⟨hlive, ht, hglide, hpin⟩

end

/-! ### The dwell at an invited tile (R35) -/

theorem Hold.names_iff (h : Hold) (a : Axis) (m : Int) (t : TargetId) :
    h.names a (decide (0 < m)) t = true ↔ h.axis = a ∧ (h.positive = true ↔ 0 < m) ∧ h.dest = t := by
  have hsign : h.positive = decide (0 < m) ↔ (h.positive = true ↔ 0 < m) := by
    rw [Bool.eq_iff_iff, decide_eq_true_eq]
  simp only [Hold.names, Bool.and_eq_true, decide_eq_true_eq, beq_iff_eq, hsign, and_assoc]

section
variable {setting now : Nat} {a : Axis} {positive : Bool} {t : TargetId} {h : Hold}

theorem invited_of_no_dwell (d : Dwell) : d.invited 0 now a positive t = none := rfl

theorem invited_of_ready (hn : h.names a positive t = true) : (Dwell.ready h).invited setting now a positive t = none := by
  simp [Dwell.invited, hn]

theorem invited_of_holding (hs : 0 < setting) (hn : h.names a positive t = true) :
    (Dwell.holding h).invited setting now a positive t = some (.holding h) := by
  simp [Dwell.invited, hn, hs.ne']

theorem invited_fresh {d : Dwell} (hs : 0 < setting) (hd : ∀ h, d = .holding h ∨ d = .ready h → ¬h.names a positive t = true) :
    d.invited setting now a positive t =
      some (.holding { axis := a, positive := positive, dest := t, due := now + 1000 * setting }) := by
  have hdue : now + Config.ms setting = now + 1000 * setting := by simp only [Config.ms]; omega
  unfold Dwell.invited
  rw [if_neg hs.ne', hdue]
  cases d with
  | clear => rfl
  | holding h => exact if_neg (hd h (.inl rfl))
  | ready h => exact if_neg (hd h (.inr rfl))

end

/-- Settles O26. -/
theorem stepFollowsFirstTest : Obligations.StepFollowsFirstTest := by
  unfold Obligations.StepFollowsFirstTest
  refine ⟨fun x y s => ⟨fun sc i => locate_eq_some, fun h sc i q hen hq => locate_eq_none h hen hq⟩, ?step⟩
  intro a m s hm c p clamped hrect
  have hp : s.cur.cursor.candidate a m = p := by cases a <;> rfl
  have hclamped (d : Dwell) : clampStep a m d s = clamped d := by
    unfold clampStep
    refine modCursor_congr ?_
    cases hr : s.currentRect with
    | none => cases a <;> rfl
    | some r =>
      obtain ⟨hw, hh⟩ := hrect r hr
      obtain ⟨hlx, hly⟩ := Rect.limit_eq hw hh (s.cur.cursor.coord a + m)
      cases a
      · simp only [hlx]; rfl
      · simp only [hly]; rfl
  refine ⟨fun hnone => ?outside, fun sc i hloc => ?located⟩
  case outside =>
    rw [stepAxis_of_clamping hm (.inl (by rw [hp]; exact meets_of_unlocated hnone)), hclamped]
  intro accepted own invites
  refine ⟨fun hown => ?own, fun hown hno => ?barrier, fun t hown hinv => ?invites⟩
  case own =>
    rw [stepAxis_of_own hm (by rw [hp]; exact meets_of_own hloc hown), hp]
    rfl
  case barrier =>
    rw [stepAxis_of_clamping hm (.inr (by rw [hp]; exact meets_of_barrier hloc hown hno)), hclamped]
  case invites =>
    intro same hold
    have hstep := stepAxis_of_invites hm (by rw [hp]; exact meets_of_invites hloc hown hinv)
    rw [hp] at hstep
    refine ⟨fun hnow => ?glides, fun hdwell => ⟨fun h hc hsame => ?holds, fun hno => ?starts⟩⟩
    case glides =>
      have hnone : s.cur.cursor.dwell.invited s.cur.settings.dwell s.now a (decide (0 < m)) t = none := by
        rcases hnow with hzero | ⟨h, hc, hsame⟩
        · rw [hzero, invited_of_no_dwell]
        · rw [show s.cur.cursor.dwell = .ready h from hc, invited_of_ready ((h.names_iff a m t).2 hsame)]
      rw [hstep, hnone]
      rfl
    case holds =>
      have hd : s.cur.cursor.dwell = .holding h := hc
      rw [hstep, hd, invited_of_holding hdwell ((h.names_iff a m t).2 hsame)]
      exact hclamped _
    case starts =>
      rw [hstep, invited_fresh hdwell fun h hc hn => hno h hc ((h.names_iff a m t).1 hn)]
      exact hclamped _

/-! ## DESK_SET (R27) -/

/-- A byte of an on/off parameter, in range: the switch it asks for, and the byte that reads back. -/
theorem boolOf_of_range {b : Byte} (h : b = 0 ∨ b = 1) : boolOf b = some (decide (b = 1)) ∧ boolByte (decide (b = 1)) = b := by
  rcases h with rfl | rfl <;> exact ⟨rfl, rfl⟩

theorem boolOf_eq_none {b : Byte} (h : b ≠ 0 ∧ b ≠ 1) : boolOf b = none := by
  rw [boolOf, if_neg h.1, if_neg h.2]

theorem round10_eq (n : Nat) : round10 n = n - n % 10 := by
  unfold round10
  omega

theorem min_eq_ite_le (a b : Nat) : min a b = if a ≤ b then a else b := rfl

/-- Settles O28. -/
theorem deskSetTakesSettings : Obligations.DeskSetTakesSettings := by
  unfold Obligations.DeskSetTakesSettings
  intro t c s hready u g q
  have hglide : at8 (s.cellParams c) 3 = s.param c 3 := cellParams_at8 s c 3 (by omega)
  have hdwell : at16 (s.cellParams c) 1 = s.param16 c 1 := cellParams_at16 s c 1 (by omega)
  refine ⟨fun hbad => ?refused, fun hdw hgl => ?taken⟩
  case refused =>
    have hnone : settingsOf (s.cellParams c) = none := by
      unfold settingsOf
      rw [hglide, hdwell]
      rcases hbad with hbad | hbad
      · exact if_pos hbad
      · simp [boolOf_eq_none hbad]
    have hown : ownDeskSet c (s.cellParams c) u = complete c .badParam [] u := by
      unfold ownDeskSet
      rw [hnone]
    exact (takeCell_quiet hready (by rw [hown, complete_focus]; exact hready.1.2)).trans (congrArg _ hown)
  case taken =>
    have hsome : settingsOf (s.cellParams c) = some q := by
      unfold settingsOf
      rw [hglide, hdwell, (boolOf_of_range hgl).1, if_neg (by omega)]
      simp only [cellParams_at8 s c 0 (by omega), cellParams_at16 s c 4 (by omega), cellParams_at16 s c 6 (by omega), round10_eq,
        min_eq_ite_le]
      rfl
    have happly : applySettings q u = { u with
        cur := { u.cur with settings := q },
        panel := { u.panel with
          focusDuty := q.focusDuty, idleDuty := q.idleDuty,
          tallies := mapVec u.panel.tallies fun sc c => { c with
            buffered :=
              if s.straps.screens ≤ sc.1 then 0
              else
                match u.panel.view.focus with
                | .focused k => if u.panel.view.plans[sc.1].shows k then q.focusDuty else q.idleDuty
                | _ => q.idleDuty } } } := by
      simp only [applySettings, Panel.workOutDuties, Panel.dutyOf, ← not_lt, ite_not]
      rfl
    have hown : ownDeskSet c (s.cellParams c) u =
        complete c .ok ([byte q.gain] ++ le16n q.dwell ++ [s.param c 3, byte q.focusDuty, byte q.idleDuty]) (applySettings q u) := by
      unfold ownDeskSet
      rw [hsome]
      show complete c .ok (_ ++ [boolByte (decide (s.param c 3 = 1)), _, _]) _ = _
      rw [(boolOf_of_range hgl).2]
    exact happly ▸ (takeCell_quiet hready (by rw [hown, complete_focus]; exact hready.1.2)).trans (congrArg _ hown)

end Sys2Proof.Machine
end

section
/-! PROOFS. The focus controller (03): what each step of it writes in the focus record, the focus change written out, its requests and reports, and the commands FOCUS and PIN. -/

namespace Sys2Proof.Machine

open Sys2Proof

/-! ## What work below the focus controller leaves in its record -/

/-- `t` is reached from `s` with the focus record changed by `f`, what has arrived and is not yet taken aside. -/
def FocusBecomes (f : Focus → Focus) (s t : State) : Prop := t.focus.core = f s.focus.core

section
variable {f g : Focus → Focus} {s t u : State}

theorem FocusBecomes.refl (s : State) : FocusBecomes (fun x => x) s s := rfl

theorem FocusBecomes.trans (h : FocusBecomes f s t) (h' : FocusBecomes g t u) : FocusBecomes (fun x => g (f x)) s u := by
  unfold FocusBecomes at *
  rw [h', h]

theorem FocusBecomes.below (h : FocusBecomes f s t) (h' : Below t u) : FocusBecomes f s u := h'.core.trans h

theorem FocusBecomes.modFocus (h : FocusBecomes f s t) (g : Focus → Focus) (hg : ∀ x : Focus, (g x).core = g x.core := by intro; rfl) :
    FocusBecomes (fun x => g (f x)) s (modFocus g t) := by
  unfold FocusBecomes at *
  rw [modFocus_focus, hg, h]

theorem FocusBecomes.st (h : FocusBecomes f s t) : t.focus.st = (f s.focus.core).st :=
  have e := congrArg Focus.st h
  e

theorem FocusBecomes.count (h : FocusBecomes f s t) : t.focus.count = (f s.focus.core).count :=
  have e := congrArg Focus.count h
  e

theorem FocusBecomes.waiting (h : FocusBecomes f s t) : t.focus.waiting = (f s.focus.core).waiting :=
  have e := congrArg Focus.waiting h
  e

theorem FocusBecomes.wakeOut (h : FocusBecomes f s t) : t.focus.wakeOut = (f s.focus.core).wakeOut :=
  have e := congrArg Focus.wakeOut h
  e

theorem FocusBecomes.bringOut (h : FocusBecomes f s t) : t.focus.bringOut = (f s.focus.core).bringOut :=
  have e := congrArg Focus.bringOut h
  e

theorem Below.becomes (h : Below s t) : FocusBecomes (fun x => x) s t := h.core

theorem modFocus_congr (h : f s.focus = g s.focus) : modFocus f s = modFocus g s := by
  simp only [modFocus, h]

end

theorem below_focusRecordChanged (s : State) : Below s (focusRecordChanged s) :=
  (below_notice _ _).trans (below_focusToPanel _)

theorem below_sendKeys (k : TargetId) (s : State) : Below s (sendKeys k s) := below_handIn _ _ _ _

theorem below_stillCursor (src : FocusSource) (s : State) : Below s (stillCursor src s) := by
  have hstill : Below s (modCursor Cursor.still s) := below_modCursor _ _ fun c _ => c.still_bounded
  unfold stillCursor
  by_cases h : src = .glide
  · rw [if_pos h]
    exact hstill
  · rw [if_neg h]
    exact hstill.trans (below_cursorMirrorSince _ _)

theorem below_returnFor (a : Option TargetId) (s : State) : Below s (returnFor a s) := by
  unfold returnFor returnBrings
  split
  · exact below_returnLoans _ _
  · exact Below.refl s

/-! ## What work of the focus controller leaves in the composer -/

@[simp] theorem notice_comp (m : Mirror) (s : State) : (notice m s).comp = s.comp := rfl

theorem handIn_comp (k : TargetId) (r : Report) (o : Origin) (s : State) : (handIn k r o s).comp = s.comp := by
  dsimp only [handIn]
  split
  · split <;> rfl
  · rfl

theorem buildPoint_comp (k : TargetId) (w : Int) (s : State) : (buildPoint k w s).comp = s.comp := by
  cases h : s.mapCursor with
  | none => rw [buildPoint_of_unmapped h]
  | some p => rw [buildPoint_of_mapped h]; exact handIn_comp ..

theorem requestPoint_comp (s : State) : (requestPoint s).comp = s.comp := by
  unfold requestPoint
  split
  · exact buildPoint_comp ..
  · rfl

theorem placeCursor_comp (k : TargetId) (s : State) : (placeCursor k s).2.comp = s.comp := by
  unfold placeCursor
  split
  · rfl
  · split
    · dsimp only [moveToTile]
      split <;> rfl
    · rfl

theorem complete_comp (c : CellId) (r : Result) (data : List Byte) (s : State) : (complete c r data s).comp = s.comp := by
  unfold complete
  split <;> rfl

theorem completeAll_comp (cells : List CellId) (r : Result) (data : State → List Byte) (s : State) :
    (completeAll cells r data s).comp = s.comp := by
  induction cells generalizing s with
  | nil => rfl
  | cons c cs ih => exact (ih _).trans (complete_comp ..)

theorem focusToPanel_comp (s : State) : (focusToPanel s).comp = s.comp := by
  dsimp only [focusToPanel, panelReport]
  split <;> rfl

theorem focusRecordChanged_comp (s : State) : (focusRecordChanged s).comp = s.comp := focusToPanel_comp _

theorem shown_congr {s t : State} (hgeo : t.cur.geo = s.cur.geo) (hcomp : t.comp = s.comp) (k : TargetId) : t.shown k = s.shown k := by
  simp only [State.shown, hgeo, hcomp]

/-! ## Becoming FOCUSED (R56) -/

theorem canFocus_iff (s : State) (k : TargetId) :
    s.canFocus k = true ↔ s.focus.eligible k = true ∧ s.focus.bringOut = none ∧ s.shown k = true := by
  simp [State.canFocus, and_assoc]

/-- The desk's pointer once a target has focus: the cursor placed, the keys masked and sent, and a POINT asked for unless a glide does. -/
def focusEntered (k : TargetId) (glide : Bool) (s : State) : State :=
  let placed := (placeCursor k (modFocus (fun f => { f with st := .focused k, wakeOut := false }) s)).2
  let sent := sendKeys k (modFocus (fun f => { f with masked := s.desk.keys }) placed)
  if glide then sent else requestPoint sent

theorem below_enter_point (glide : Bool) (s : State) : Below s (if glide then s else requestPoint s) := by
  cases glide
  · exact below_requestPoint s
  · exact Below.refl s

theorem focusEntered_becomes (k : TargetId) (glide : Bool) (s : State) :
    FocusBecomes (fun f => { f with st := .focused k, wakeOut := false, masked := s.desk.keys }) s (focusEntered k glide s) := by
  have hplaced := ((FocusBecomes.refl s).modFocus fun f => { f with st := .focused k, wakeOut := false }).below (below_placeCursor k _)
  have hmasked := hplaced.modFocus fun f => { f with masked := s.desk.keys }
  exact (hmasked.below (below_sendKeys k _)).below (below_enter_point glide _)

theorem focusEntered_waiting (k : TargetId) (glide : Bool) (s : State) : (focusEntered k glide s).focus.waiting = s.focus.waiting :=
  (focusEntered_becomes k glide s).waiting

theorem maskDesk_placeCursor (k : TargetId) (s : State) :
    maskDesk (placeCursor k s).2 = modFocus (fun f => { f with masked := s.desk.keys }) (placeCursor k s).2 := by
  rw [maskDesk, (kept_placeCursor k s).desk]

theorem becomeFocused_eq (k : TargetId) (glide : Bool) (s : State) :
    becomeFocused k glide s =
      focusRecordChanged (modFocus (fun f => { f with waiting := [] })
        (completeAll s.focus.waiting .ok focusData (focusEntered k glide s))) := by
  rw [← focusEntered_waiting k glide s]
  dsimp only [becomeFocused]
  rw [maskDesk_placeCursor]
  rfl

theorem becomeFocused_becomes (k : TargetId) (glide : Bool) (s : State) :
    FocusBecomes (fun f => { f with st := .focused k, wakeOut := false, masked := s.desk.keys, waiting := [] }) s
      (becomeFocused k glide s) := by
  rw [becomeFocused_eq]
  have hdone := ((focusEntered_becomes k glide s).below (below_completeAll s.focus.waiting .ok focusData _)).modFocus fun f => { f with waiting := [] }
  exact hdone.below (below_focusRecordChanged _)

theorem becomeFocused_shown (k j : TargetId) (glide : Bool) (s : State) : (becomeFocused k glide s).shown j = s.shown j := by
  refine shown_congr (kept_becomeFocused k glide s).geo ?_ j
  rw [becomeFocused_eq, focusRecordChanged_comp, modFocus_comp, completeAll_comp]
  dsimp only [focusEntered]
  cases glide
  · simp only [Bool.false_eq_true, if_false, requestPoint_comp, sendKeys, handIn_comp, modFocus_comp, placeCursor_comp]
  · simp only [if_true, sendKeys, handIn_comp, modFocus_comp, placeCursor_comp]

/-! ## The focus change (R54, R55) -/

section
variable (src : FocusSource) (b : Option TargetId) (old : Result) (cell : Option CellId) (s : State)

/-- Step 1: the release pair of the target left. -/
def leaveReleased : State :=
  match s.focus.st.target with
  | some k => releasePair k s
  | none => s

/-- Steps 2 and 3: the desk keys masked, and the target left noted. -/
def leaveMasked : State :=
  modFocus (fun f => { f with masked := s.desk.keys, previous := s.focus.st.target }) (leaveReleased s)

/-- Step 4: the cursor stilled. -/
def leaveStill : State := modCursor (fun c => { c with rx := 0, ry := 0, dwell := .clear }) (leaveMasked s)

/-- The cursor mirror follows outside a glide (log 27). -/
def leaveShown : State :=
  if src = .glide ∨ cursorFields s.cur.cursor = cursorFields (leaveStill s).cur.cursor then leaveStill s
  else rewriteMirror .cursor (leaveStill s)

/-- Step 5: the cursor placed. -/
def leavePlaced : State :=
  match b with
  | some k => if src = .glide then leaveShown src s else (placeCursor k (leaveShown src s)).2
  | none => leaveShown src s

/-- The placing as a step on any state. -/
def placeOnChange (v : State) : State :=
  match src, b with
  | .glide, _ => v
  | _, some t => (placeCursor t v).2
  | _, none => v

/-- Step 6: the change counted. -/
def leaveCounted : State :=
  modFocus (fun f => { f with count := s.focus.count + 1, source := some src }) (leavePlaced src b s)

/-- The old waiting cells completed. -/
def leaveEnded : State := completeAll s.focus.waiting old focusData (leaveCounted src b s)

theorem below_leaveReleased : Below s (leaveReleased s) := by
  unfold leaveReleased
  split
  · exact below_releasePair _ _
  · exact Below.refl s

theorem leaveReleased_cur : (leaveReleased s).cur = s.cur := by
  unfold leaveReleased
  split
  · rw [releasePair, handIn_cur, handIn_cur]
  · rfl

theorem stillCursor_leaveMasked : stillCursor src (leaveMasked s) = leaveShown src s := by
  have hcursor : (leaveMasked s).cur.cursor = s.cur.cursor := congrArg (·.cursor) (leaveReleased_cur s)
  dsimp only [stillCursor, leaveShown, cursorMirrorSince]
  rw [hcursor]
  by_cases hg : src = .glide
  · rw [if_pos hg, if_pos (.inl hg)]
    rfl
  · rw [if_neg hg]
    simp only [hg, false_or]
    rfl

theorem below_leaveShown : Below (leaveMasked s) (leaveShown src s) := stillCursor_leaveMasked src s ▸ below_stillCursor src _

theorem below_leavePlaced : Below (leaveMasked s) (leavePlaced src b s) := by
  have hshown := below_leaveShown src s
  unfold leavePlaced
  split
  · split
    · exact hshown
    · exact hshown.trans (below_placeCursor _ _)
  · exact hshown

theorem leaveMasked_becomes :
    FocusBecomes (fun f => { f with masked := s.desk.keys, previous := s.focus.st.target }) s (leaveMasked s) :=
  (below_leaveReleased s).becomes.modFocus fun f => { f with masked := s.desk.keys, previous := s.focus.st.target }

theorem leavePlaced_becomes :
    FocusBecomes (fun f => { f with masked := s.desk.keys, previous := s.focus.st.target }) s (leavePlaced src b s) :=
  (leaveMasked_becomes s).below (below_leavePlaced src b s)

theorem leaveCounted_becomes :
    FocusBecomes (fun f => { f with
      masked := s.desk.keys, previous := s.focus.st.target, count := s.focus.count + 1, source := some src }) s (leaveCounted src b s) :=
  (leavePlaced_becomes src b s).modFocus fun f => { f with count := s.focus.count + 1, source := some src }

theorem leaveEnded_becomes :
    FocusBecomes (fun f => { f with
      masked := s.desk.keys, previous := s.focus.st.target, count := s.focus.count + 1, source := some src }) s (leaveEnded src b old s) :=
  (leaveCounted_becomes src b s).below (below_completeAll _ _ _ _)

theorem focusLeave_steps :
    focusLeave src b old cell s =
      (let counted := modFocus (fun f => { f with count := f.count + 1, source := some src })
        (placeOnChange src b (stillCursor src (modFocus (fun f => { f with previous := s.focus.st.target }) (maskDesk (leaveReleased s)))))
       modFocus (fun f => { f with waiting := cell.toList, wakeOut := false, bringOut := none })
         (completeAll counted.focus.waiting old focusData counted)) := by
  cases src <;> cases b <;> rfl

/-- Steps 1 to 7 of a focus change, one after another. -/
theorem focusLeave_eq :
    focusLeave src b old cell s =
      modFocus (fun f => { f with waiting := cell.toList, wakeOut := false, bringOut := none }) (leaveEnded src b old s) := by
  have hmask : modFocus (fun f => { f with previous := s.focus.st.target }) (maskDesk (leaveReleased s)) = leaveMasked s := by
    rw [maskDesk, (below_leaveReleased s).kept.desk]
    rfl
  have hplaced : placeOnChange src b (leaveShown src s) = leavePlaced src b s := by
    unfold leavePlaced
    cases src <;> cases b <;> rfl
  have hcount : (leavePlaced src b s).focus.count = s.focus.count := (leavePlaced_becomes src b s).count
  have hcounted : modFocus (fun f => { f with count := f.count + 1, source := some src }) (leavePlaced src b s) = leaveCounted src b s := by
    refine modFocus_congr ?_
    rw [hcount]
  have hwaiting : (leaveCounted src b s).focus.waiting = s.focus.waiting := (leaveCounted_becomes src b s).waiting
  have hended : completeAll (leaveCounted src b s).focus.waiting old focusData (leaveCounted src b s) = leaveEnded src b old s := by
    rw [hwaiting]
    rfl
  rw [focusLeave_steps, hmask, stillCursor_leaveMasked, hplaced, hcounted]
  dsimp only
  rw [hended]

/-- What steps 1 to 7 leave in the focus record. -/
theorem focusLeave_becomes :
    FocusBecomes (fun f => { f with
      masked := s.desk.keys, previous := s.focus.st.target, count := s.focus.count + 1, source := some src,
      waiting := cell.toList, wakeOut := false, bringOut := none }) s (focusLeave src b old cell s) := by
  rw [focusLeave_eq]
  exact (leaveEnded_becomes src b old s).modFocus fun f => { f with waiting := cell.toList, wakeOut := false, bringOut := none }

/-- The focus state once the target left has been left. -/
def leaveBecomes (st : FocusState) : State :=
  modFocus (fun f => { f with waiting := cell.toList, wakeOut := false, bringOut := none, st := st }) (leaveEnded src b old s)

theorem leaveBecomes_eq (st : FocusState) :
    modFocus (fun f => { f with st := st }) (focusLeave src b old cell s) = leaveBecomes src b old cell s st := by
  rw [focusLeave_eq]
  rfl

theorem leaveBecomes_becomes (st : FocusState) :
    FocusBecomes (fun f => { f with
      masked := s.desk.keys, previous := s.focus.st.target, count := s.focus.count + 1, source := some src,
      waiting := cell.toList, wakeOut := false, bringOut := none, st := st }) s (leaveBecomes src b old cell s st) :=
  (leaveEnded_becomes src b old s).modFocus fun f => { f with waiting := cell.toList, wakeOut := false, bringOut := none, st := st }

/-- A focus change to a target before the test whether it is FOCUSED at once. -/
def changePending (k : TargetId) : State :=
  wakeForFocus k (bring k (returnFor s.focus.st.target (leaveBecomes src (some k) old cell s (.pending k))))

theorem focusChange_none :
    focusChange src none old cell s =
      focusRecordChanged (returnFor s.focus.st.target (leaveBecomes src none old cell s .nobody)) := by
  rw [← leaveBecomes_eq]
  rfl

theorem focusChange_some (k : TargetId) :
    focusChange src (some k) old cell s =
      if (changePending src old cell s k).canFocus k then becomeFocused k (decide (src = .glide)) (changePending src old cell s k)
      else focusRecordChanged (changePending src old cell s k) := by
  have hglide : (src == FocusSource.glide) = decide (src = .glide) := by cases src <;> rfl
  unfold changePending
  rw [← leaveBecomes_eq, ← hglide]
  rfl

end

/-! ### The bring and the wake of a focus change (R55) -/

theorem bring_becomes (k : TargetId) (s : State) :
    FocusBecomes (fun f => { f with bringOut := (bring k s).focus.bringOut }) s (bring k s) := by
  unfold bring
  split
  · rfl
  · split
    · rfl
    · rename_i sc _ _
      exact (below_stage _ _ s).becomes.modFocus fun f => { f with bringOut := some sc }
    · rfl

theorem wakeForFocus_becomes (k : TargetId) (s : State) :
    FocusBecomes (fun f => { f with wakeOut := (wakeForFocus k s).focus.wakeOut }) s (wakeForFocus k s) := by
  unfold wakeForFocus
  split
  · have h := ((FocusBecomes.refl s).modFocus fun f => { f with wakeOut := true }).below (below_requestWake k .focus _)
    rw [h.wakeOut]
    exact h
  · rfl

theorem changePending_becomes (src : FocusSource) (old : Result) (cell : Option CellId) (s : State) (k : TargetId) :
    FocusBecomes (fun f => { f with
      masked := s.desk.keys, previous := s.focus.st.target, count := s.focus.count + 1, source := some src,
      waiting := cell.toList, st := .pending k, bringOut := (changePending src old cell s k).focus.bringOut,
      wakeOut := (changePending src old cell s k).focus.wakeOut }) s (changePending src old cell s k) := by
  have hleft := (leaveBecomes_becomes src (some k) old cell s (.pending k)).below (below_returnFor s.focus.st.target _)
  have hbrought := hleft.trans (bring_becomes k _)
  have h := hbrought.trans (wakeForFocus_becomes k _)
  have hbring : (changePending src old cell s k).focus.bringOut =
      (bring k (returnFor s.focus.st.target (leaveBecomes src (some k) old cell s (.pending k)))).focus.bringOut :=
    h.bringOut
  rw [hbring]
  exact h

end Sys2Proof.Machine
end

section
/-! PROOFS. The focus controller's obligations: the commands FOCUS and PIN (R66, R67), and all that a focus change, a request and a report do (R52 to R61). -/

namespace Sys2Proof.Machine

open Sys2Proof

/-! ## What a focus change leaves (R54, R55) -/

section
variable (src : FocusSource) (old : Result) (cell : Option CellId) (s : State)

/-- The record after a focus change to NONE. -/
theorem focusChange_none_becomes :
    FocusBecomes (fun f => { f with
      masked := s.desk.keys, previous := s.focus.st.target, count := s.focus.count + 1, source := some src,
      waiting := cell.toList, wakeOut := false, bringOut := none, st := .nobody }) s (focusChange src none old cell s) := by
  rw [focusChange_none]
  exact ((leaveBecomes_becomes src none old cell s .nobody).below (below_returnFor s.focus.st.target _)).below
    (below_focusRecordChanged _)

variable (k : TargetId)

/-- The record after a focus change to a target that is FOCUSED at once. -/
theorem focusChange_focused_becomes (h : (changePending src old cell s k).canFocus k = true) :
    FocusBecomes (fun f => { f with
      masked := s.desk.keys, previous := s.focus.st.target, count := s.focus.count + 1, source := some src,
      waiting := [], st := .focused k, bringOut := none, wakeOut := false }) s (focusChange src (some k) old cell s) := by
  have hpending := changePending_becomes src old cell s k
  rw [((canFocus_iff _ _).1 h).2.1] at hpending
  have hkeys : (changePending src old cell s k).desk.keys = s.desk.keys := by
    unfold changePending
    rw [(kept_wakeForFocus k _).desk, (kept_bring k _).desk, (kept_returnFor _ _).desk, ← leaveBecomes_eq, (kept_modFocus _ _).desk,
      (kept_focusLeave _ _ _ _ _).desk]
  rw [focusChange_some, if_pos h]
  have hfocused := hpending.trans (becomeFocused_becomes k (decide (src = .glide)) _)
  rw [hkeys] at hfocused
  exact hfocused

/-- The record after a focus change to a target that stays PENDING. -/
theorem focusChange_pending_becomes (h : (changePending src old cell s k).canFocus k ≠ true) :
    FocusBecomes (fun f => { f with
      masked := s.desk.keys, previous := s.focus.st.target, count := s.focus.count + 1, source := some src,
      waiting := cell.toList, st := .pending k, bringOut := (changePending src old cell s k).focus.bringOut,
      wakeOut := (changePending src old cell s k).focus.wakeOut }) s (focusChange src (some k) old cell s) := by
  rw [focusChange_some, if_neg h]
  exact (changePending_becomes src old cell s k).below (below_focusRecordChanged _)

theorem focusChange_shown :
    (focusChange src (some k) old cell s).shown k = (changePending src old cell s k).shown k := by
  rw [focusChange_some]
  split
  · exact becomeFocused_shown k k _ _
  · exact shown_congr (kept_focusRecordChanged _).geo (focusRecordChanged_comp _) k

end

/-- What every focus change leaves in the record. -/
theorem focusChange_record (src : FocusSource) (b : Option TargetId) (old : Result) (cell : Option CellId) (s : State) :
    let u := focusChange src b old cell s
    u.focus.st.target = b ∧ u.focus.count = s.focus.count + 1 ∧ u.focus.source = some src ∧
      u.focus.previous = s.focus.st.target ∧ u.focus.pin = s.focus.pin ∧ u.focus.view = s.focus.view ∧
      u.focus.masked = s.desk.keys := by
  intro u
  obtain ⟨f, hf, htarget, hcount, hsource, hprev, hpin, hview, hmask⟩ : ∃ f : Focus → Focus, FocusBecomes f s u ∧
      (f s.focus.core).st.target = b ∧ (f s.focus.core).count = s.focus.count + 1 ∧ (f s.focus.core).source = some src ∧
      (f s.focus.core).previous = s.focus.st.target ∧ (f s.focus.core).pin = s.focus.pin ∧
      (f s.focus.core).view = s.focus.view ∧ (f s.focus.core).masked = s.desk.keys := by
    cases b with
    | none => exact ⟨_, focusChange_none_becomes src old cell s, rfl, rfl, rfl, rfl, rfl, rfl, rfl⟩
    | some k =>
      by_cases h : (changePending src old cell s k).canFocus k = true
      · exact ⟨_, focusChange_focused_becomes src old cell s k h, rfl, rfl, rfl, rfl, rfl, rfl, rfl⟩
      · exact ⟨_, focusChange_pending_becomes src old cell s k h, rfl, rfl, rfl, rfl, rfl, rfl, rfl⟩
  have hcore : u.focus.core = f s.focus.core := hf
  rw [← hcore] at htarget hcount hsource hprev hpin hview hmask
  exact ⟨htarget, hcount, hsource, hprev, hpin, hview, hmask⟩

/-! ## FOCUS (R67) -/

theorem focusData_nobody {s : State} (h : s.focus.st = .nobody) : focusData s = [0xFF, 0, 0] ++ le16 s.focus.count := by
  simp only [focusData, Focus.cause, h]
  rfl

theorem focusData_focused {s : State} {k : TargetId} (h : s.focus.st = .focused k) :
    focusData s = [byte k.1, 1, 0] ++ le16 s.focus.count := by
  simp only [focusData, Focus.cause, h]
  rfl

theorem anyEnabled_iff (s : State) : s.anyEnabled = true ↔ ∃ sc : ScreenId, s.cur.geo[sc.1].enabled = true := by
  simp [State.anyEnabled, mem_ids]

theorem byte_of_toNat {b : Byte} {n : Nat} (h : b.toNat = n) : byte n = b := by
  subst h
  simp [byte]

section
variable {c : CellId} {s : State} {k : TargetId}

theorem takeFocusCommand_focused (h : s.focus.st = .focused k) :
    takeFocusCommand c (some k) s = complete c .ok (focusData s) s := if_pos h

theorem takeFocusCommand_pending (h : s.focus.st = .pending k) :
    takeFocusCommand c (some k) s = modFocus (fun f => { f with waiting := f.waiting ++ [c] }) s := by
  have hne : s.focus.st ≠ .focused k := by rw [h]; nofun
  simp only [takeFocusCommand, if_neg hne, if_pos h]

theorem takeFocusCommand_other (h : s.focus.st.target ≠ some k) :
    takeFocusCommand c (some k) s =
      if s.anyEnabled then focusChange .command (some k) .superseded (some c) s else complete c .notReachable [] s := by
  have hfocused : s.focus.st ≠ .focused k := fun e => h (by rw [e]; rfl)
  have hpending : s.focus.st ≠ .pending k := fun e => h (by rw [e]; rfl)
  simp only [takeFocusCommand, if_neg hfocused, if_neg hpending]

theorem takeFocusCommand_none_of_nobody (h : s.focus.st = .nobody) : takeFocusCommand c none s = complete c .ok (focusData s) s := by
  simp only [takeFocusCommand, if_pos h]

theorem takeFocusCommand_none (h : s.focus.st ≠ .nobody) :
    takeFocusCommand c none s =
      (let w := focusChange .command none .superseded none s
       complete c .ok (focusData w) w) := by
  simp only [takeFocusCommand, if_neg h]

end

theorem fittedTarget_iff (s : State) (k : TargetId) : s.fittedTarget k = true ↔ k.1 < s.straps.targets := by
  simp [State.fittedTarget]

section
variable {t : Nat} {c : CellId} {s : State}

/-- A FOCUS command taken from a cell that is READY with it. -/
theorem exec_focus_of_ready (h : s.commandReady c 0x03) :
    exec (.focus t c) s = .next (settle (ownFocus c (s.cellParams c) (take c (s.advance t)))) := takeCell_ready h

theorem exec_focus_quiet (h : s.commandReady c 0x03) {v : State} (hv : ownFocus c (s.cellParams c) (take c (s.advance t)) = v)
    (hempty : v.focus.inbox = []) : exec (.focus t c) s = .next v := by
  rw [exec_focus_of_ready h, hv, settle_of_empty v hempty]

theorem ownFocus_none {u : State} (h : s.param c 0 = 0xFF) : ownFocus c (s.cellParams c) u = takeFocusCommand c none u := by
  simp only [ownFocus, cellParams_at8 s c 0 (by omega), if_pos h]

theorem param_ne_of_target {k : TargetId} (h : (s.param c 0).toNat = k.1) : s.param c 0 ≠ 0xFF := by
  intro e
  rw [e] at h
  exact absurd h (by have := k.2; simp; omega)

theorem ownFocus_target {u : State} {k : TargetId} (h : (s.param c 0).toNat = k.1) :
    ownFocus c (s.cellParams c) u =
      if u.fittedTarget k then takeFocusCommand c (some k) u else complete c .notFitted [] u := by
  simp only [ownFocus, cellParams_at8 s c 0 (by omega), if_neg (param_ne_of_target h), h, asFin_val]

theorem ownFocus_fitted {u : State} {k : TargetId} (h : (s.param c 0).toNat = k.1) (hfit : k.1 < u.straps.targets) :
    ownFocus c (s.cellParams c) u = takeFocusCommand c (some k) u := by
  rw [ownFocus_target h, if_pos ((fittedTarget_iff u k).2 hfit)]

theorem ownFocus_unfitted {u : State} {k : TargetId} (h : (s.param c 0).toNat = k.1) (hfit : u.straps.targets ≤ k.1) :
    ownFocus c (s.cellParams c) u = complete c .notFitted [] u := by
  rw [ownFocus_target h, if_neg fun h => absurd ((fittedTarget_iff u k).1 h) (not_lt.2 hfit)]

end

/-- Settles O29. -/
theorem focusCommandWithoutChange : Obligations.FocusCommandWithoutChange := by
  unfold Obligations.FocusCommandWithoutChange
  intro t c s hready u b standing
  have hdone (r : Result) (data : List Byte) : (complete c r data u).focus.inbox = [] := by
    rw [complete_focus]
    exact hready.1.2
  refine ⟨fun hbad hne => exec_focus_quiet hready ?range (hdone _ _), fun hb hst => exec_focus_quiet hready ?nobody (hdone _ _),
    fun k hk => ⟨fun hunfit => exec_focus_quiet hready ?unfitted (hdone _ _), fun hfit => ⟨fun hst => exec_focus_quiet hready ?focused (hdone _ _),
      fun hst => exec_focus_quiet hready ?pending hready.1.2, fun hst hoff => exec_focus_quiet hready ?unreachable (hdone _ _)⟩⟩⟩
  case range =>
    have hnone : asFin 8 b.toNat = none := dif_neg (by omega)
    have hne : s.param c 0 ≠ 0xFF := hne
    simp only [ownFocus, cellParams_at8 s c 0 (by omega), if_neg hne, show asFin 8 (s.param c 0).toNat = none from hnone]
    rfl
  case nobody =>
    rw [ownFocus_none hb, takeFocusCommand_none_of_nobody (s := u) hst, focusData_nobody (s := u) hst]
    rfl
  case unfitted =>
    exact ownFocus_unfitted hk hunfit
  case focused =>
    rw [ownFocus_fitted (u := u) hk hfit, takeFocusCommand_focused (s := u) hst,
      focusData_focused (s := u) hst, byte_of_toNat hk]
    rfl
  case pending =>
    rw [ownFocus_fitted (u := u) hk hfit, takeFocusCommand_pending (s := u) hst]
    rfl
  case unreachable =>
    have henabled : u.anyEnabled ≠ true := fun h => by
      obtain ⟨sc, hsc⟩ := (anyEnabled_iff u).1 h
      have hoff : u.cur.geo[sc.1].enabled = false := hoff sc
      rw [hoff] at hsc
      exact absurd hsc nofun
    rw [ownFocus_fitted (u := u) hk hfit, takeFocusCommand_other (s := u) hst, if_neg henabled]

/-- Settles O30. -/
theorem focusCommandChangesFocus : Obligations.FocusCommandChangesFocus := by
  unfold Obligations.FocusCommandChangesFocus
  intro t c s hready u b
  refine ⟨fun k hk hfit hother hon => ?target, fun hb hst => ?none⟩
  case target =>
    intro w
    obtain ⟨htarget, hcount, hsource, hprev, -⟩ := focusChange_record .command (some k) .superseded (some c) u
    have henabled : u.anyEnabled = true := (anyEnabled_iff u).2 hon
    refine ⟨?_, htarget, hcount, hsource, hprev, kept_focusChange _ _ _ _ _, kept_settle _⟩
    rw [exec_focus_of_ready hready, ownFocus_fitted (u := u) hk hfit,
      takeFocusCommand_other (s := u) hother, if_pos henabled]
  case none =>
    intro w v
    obtain ⟨htarget, hcount, hsource, hprev, -⟩ := focusChange_record .command none .superseded none u
    have hw : w.focus.st = .nobody := (focusChange_none_becomes .command .superseded none u).st
    have hst : u.focus.st ≠ .nobody := hst
    refine ⟨?_, hw, hcount, hsource, hprev, kept_focusChange _ _ _ _ _, kept_settle _⟩
    have hdata : focusData w = [0xFF, 0, 0] ++ le16 (s.focus.count + 1) := (focusData_nobody hw).trans (by rw [hcount]; rfl)
    rw [exec_focus_of_ready hready, ownFocus_none hb, takeFocusCommand_none (s := u) hst]
    show Host.Outcome.next (settle (complete c .ok (focusData w) w)) = _
    rw [hdata]

/-! ## PIN (R66) -/

theorem focusToPanel_focus (s : State) : (focusToPanel s).focus = s.focus := by
  dsimp only [focusToPanel, panelReport]
  split <;> rfl

/-- Settles O32. -/
theorem pinCommandSetsPin : Obligations.PinCommandSetsPin := by
  unfold Obligations.PinCommandSetsPin
  intro t c s hready u b v
  have hparam : at8 (s.cellParams c) 0 = b := cellParams_at8 s c 0 (by omega)
  have hquiet {w : State} (hw : ownPin c (s.cellParams c) u = w) (hempty : w.focus.inbox = []) : exec (.pin t c) s = .next w :=
    (takeCell_quiet (owner := ownPin) hready (by rw [show ownPin _ _ _ = w from hw]; exact hempty)).trans (congrArg _ hw)
  refine ⟨fun hbad => hquiet ?refused (by rw [complete_focus]; exact hready.1.2), fun hle => hquiet ?taken ?quiet⟩
  case refused =>
    have hnone : pinOf b u.focus.pin = none := by
      unfold pinOf
      split <;> first | omega | rfl
    unfold ownPin
    rw [hparam, hnone]
  case taken =>
    have hsome : pinOf b u.focus.pin = some v := by
      have hb : b = 0 ∨ b = 1 ∨ b = 2 := by
        have : b.toNat = 0 ∨ b.toNat = 1 ∨ b.toNat = 2 := by omega
        simpa [← BitVec.toNat_inj] using this
      show pinOf b s.focus.pin = some (if b = 2 then !s.focus.pin else decide (b = 1))
      rcases hb with hb | hb | hb <;> rw [hb] <;> rfl
    have hset : setPin v u = if v = s.focus.pin then u else focusToPanel (notice .focus { u with focus := { u.focus with pin := v } }) := by
      unfold setPin
      simp only [eq_comm (b := v)]
      rfl
    unfold ownPin
    rw [hparam, hsome]
    show complete c .ok [boolByte v] (setPin v u) = _
    rw [hset]
    rfl
  case quiet =>
    rw [complete_focus]
    split
    · exact hready.1.2
    · rw [focusToPanel_focus]
      exact hready.1.2

end Sys2Proof.Machine
end

section
/-! PROOFS. The focus controller: every focus change, request and report written out (R52 to R65). -/

namespace Sys2Proof.Machine

open Sys2Proof

/-! ## Looking through screens and tiles in order -/

theorem findSome_of_find {α β : Type} {f : α → Option β} {xs : List α} {a : α} (h : xs.find? (fun x => (f x).isSome) = some a) :
    xs.findSome? f = f a := by
  induction xs with
  | nil => simp at h
  | cons x xs ih =>
    rw [List.find?_cons] at h
    cases hx : f x with
    | none =>
      rw [hx] at h
      rw [List.findSome?_cons_of_isNone (by simp [hx])]
      exact ih h
    | some b =>
      rw [hx] at h
      obtain rfl : x = a := Option.some.inj h
      rw [List.findSome?_cons_of_isSome (by simp [hx])]

/-- The first index that answers, and its answer. -/
theorem findSome_ids_eq_some {n : Nat} {β : Type} {f : Fin n → Option β} {i : Fin n} {b : β} (hi : f i = some b)
    (hlt : ∀ j < i, f j = none) : (ids n).findSome? f = some b := by
  rw [findSome_of_find (find_ids_eq_some (i := i) (by simp [hi]) fun j hj => by simp [hlt j hj]), hi]

theorem findSome_ids_eq_none {n : Nat} {β : Type} {f : Fin n → Option β} (h : ∀ i, f i = none) : (ids n).findSome? f = none :=
  List.findSome?_eq_none_iff.2 fun i _ => h i

section
variable {s : State} {h : HeadId}

/-- A tile of an enabled screen's active plan that shows a head. -/
def State.ShowsAt (s : State) (h : HeadId) (sc : ScreenId) (i : Fin 4) : Prop :=
  s.cur.geo[sc.1].enabled = true ∧ s.tileSource sc i = some h ∧ s.tileRect sc i ≠ none

/-- The first of them, in the order of screens and tiles. -/
def State.ShowsFirst (s : State) (h : HeadId) (sc : ScreenId) (i : Fin 4) : Prop :=
  s.ShowsAt h sc i ∧ ∀ c j, s.ShowsAt h c j → sc < c ∨ (sc = c ∧ i ≤ j)

/-- The test of a tile for a head on an enabled screen. -/
theorem showsAt_iff {sc : ScreenId} {i : Fin 4} (hen : s.cur.geo[sc.1].enabled = true) :
    (decide (s.tileSource sc i = some h) && (s.tileRect sc i).isSome) = true ↔ s.ShowsAt h sc i := by
  simp [State.ShowsAt, hen, Option.isSome_iff_ne_none]

theorem findHead_eq_some {sc : ScreenId} {i : Fin 4} (hf : s.ShowsFirst h sc i) : s.findHead h = some (sc, i) := by
  obtain ⟨hat, hfirst⟩ := hf
  refine findSome_ids_eq_some (i := sc) ?_ fun c hc => ?_
  · rw [if_pos hat.1, find_ids_eq_some ((showsAt_iff hat.1).2 hat) fun j hj hn => ?_]
    · rfl
    · obtain hlt | ⟨-, hle⟩ := hfirst sc j ((showsAt_iff hat.1).1 hn)
      · exact absurd hlt (lt_irrefl sc)
      · exact absurd hj (not_lt.2 hle)
  · by_cases hen : s.cur.geo[c.1].enabled = true
    · rw [if_pos hen, find_ids_eq_none fun j hj => ?_]
      · rfl
      · obtain hlt | ⟨rfl, -⟩ := hfirst c j ((showsAt_iff hen).1 hj)
        · exact absurd hlt hc.asymm
        · exact absurd hc (lt_irrefl sc)
    · exact if_neg hen

theorem findHead_eq_none (hno : ∀ sc i, ¬s.ShowsAt h sc i) : s.findHead h = none := by
  refine findSome_ids_eq_none fun c => ?_
  by_cases hen : s.cur.geo[c.1].enabled = true
  · rw [if_pos hen, find_ids_eq_none fun j hj => hno c j ((showsAt_iff hen).1 hj)]
    rfl
  · exact if_neg hen

end

theorem plan_shows_iff (p : Plan) (k : TargetId) :
    p.shows k = true ↔ ∃ i : Fin 4, (p.src[i.1]).map headTarget = some k := by
  simp only [Plan.shows, toList_eq_map_ids, List.any_map, List.any_eq_true, Function.comp]
  constructor
  · rintro ⟨i, -, hi⟩
    refine ⟨i, ?_⟩
    cases hs : p.src[i.1] <;> simp_all
  · rintro ⟨i, hi⟩
    refine ⟨i, mem_ids i, ?_⟩
    cases hs : p.src[i.1] <;> simp_all

theorem shown_iff (s : State) (k : TargetId) :
    s.shown k = true ↔ ∃ (sc : ScreenId) (i : Fin 4), s.cur.geo[sc.1].enabled = true ∧ s.tileTarget sc i = some k := by
  simp [State.shown, mem_ids, plan_shows_iff, State.tileTarget, State.tileSource]

/-! ## A focus change, from its record to its parts -/

/-- What a focus change leaves of the cells and the outstanding work (R54, R55). -/
theorem focusChange_waiting (src : FocusSource) (b : Option TargetId) (old : Result) (cell : Option CellId) (s : State) :
    let u := focusChange src b old cell s
    (b = none → u.focus.waiting = cell.toList ∧ u.focus.wakeOut = false ∧ u.focus.bringOut = none) ∧
    ∀ k, b = some k →
      (u.focus.st = .focused k → s.focus.eligible k = true ∧ u.focus.bringOut = none ∧ u.shown k = true ∧
        u.focus.waiting = [] ∧ u.focus.wakeOut = false) ∧
      (u.focus.st = .pending k →
        (s.focus.eligible k = false ∨ u.focus.bringOut ≠ none ∨ u.shown k = false) ∧ u.focus.waiting = cell.toList) := by
  intro u
  refine ⟨?none, ?some⟩
  case none =>
    rintro rfl
    have h := focusChange_none_becomes src old cell s
    exact ⟨h.waiting, h.wakeOut, h.bringOut⟩
  case some =>
    rintro k rfl
    have heligible : (changePending src old cell s k).focus.eligible k = s.focus.eligible k := by
      have h := congrArg Focus.view (changePending_becomes src old cell s k)
      exact congrArg (fun v : Vector Eligibility 8 => v[k.1].eligible) h
    have hshown : u.shown k = (changePending src old cell s k).shown k := focusChange_shown src old cell s k
    by_cases hcan : (changePending src old cell s k).canFocus k = true
    · have h := focusChange_focused_becomes src old cell s k hcan
      obtain ⟨hel, -, hsh⟩ := (canFocus_iff _ _).1 hcan
      refine ⟨fun _ => ⟨heligible ▸ hel, h.bringOut, hshown.trans hsh, h.waiting, h.wakeOut⟩, fun hst => ?_⟩
      exact absurd (h.st.symm.trans hst) nofun
    · have h := focusChange_pending_becomes src old cell s k hcan
      refine ⟨fun hst => absurd (h.st.symm.trans hst) nofun, fun _ => ⟨?_, h.waiting⟩⟩
      rw [canFocus_iff, heligible, ← hshown, ← show u.focus.bringOut = _ from h.bringOut, not_and_or, not_and_or, Bool.not_eq_true,
        Bool.not_eq_true] at hcan
      exact hcan

/-! ## The bring and the wake of a focus change (R55) -/

section
variable {k : TargetId} {s : State}

theorem bring_of_shown (h : s.shown k = true) : bring k s = s := if_pos h

theorem bring_of_staged {sc : ScreenId} (h : s.shown k = false) (hsc : s.stagedShows k = some sc) :
    bring k s = modFocus (fun f => { f with bringOut := some sc }) s := by
  rw [bring, if_neg (by rw [h]; nofun), hsc]

theorem bring_of_none_staged (h : s.shown k = false) (hno : s.stagedShows k = none) :
    bring k s =
      match s.cur.cursor.screen with
      | some sc => modFocus (fun f => { f with bringOut := some sc }) (stageBring k sc s)
      | none => s := by
  rw [bring, if_neg (by rw [h]; nofun), hno]
  cases s.cur.cursor.screen <;> rfl

/-- An enabled screen offers a target when its staged plan shows it. -/
def State.Offers (s : State) (k : TargetId) (sc : ScreenId) : Prop :=
  s.cur.geo[sc.1].enabled = true ∧
    ∃ g, ∃ i : Fin 4, s.comp.screens[sc.1].staged = some g ∧ (g.plan.src[i.1]).map headTarget = some k

theorem offers_iff {sc : ScreenId} :
    (s.cur.geo[sc.1].enabled && match s.comp.screens[sc.1].staged with
      | some g => g.plan.shows k
      | none => false) = true ↔ s.Offers k sc := by
  unfold State.Offers
  cases s.comp.screens[sc.1].staged <;> simp [plan_shows_iff]

theorem stagedShows_eq_some {sc : ScreenId} (h : s.Offers k sc) (hlt : ∀ j < sc, ¬s.Offers k j) : s.stagedShows k = some sc :=
  find_ids_eq_some (offers_iff.2 h) fun j hj hn => hlt j hj (offers_iff.1 hn)

theorem stagedShows_eq_none (h : ∀ sc, ¬s.Offers k sc) : s.stagedShows k = none :=
  find_ids_eq_none fun sc hn => h sc (offers_iff.1 hn)

theorem wakeable_iff (e : Eligibility) :
    e.wakeable = true ↔ e.eligible = false ∧ (e.power = .off ∨ e.power = .asleep ∨ e.link = .suspended) := by
  simp [Eligibility.wakeable, or_assoc]

theorem eligible_iff (e : Eligibility) : e.eligible = true ↔ e.link = .up ∧ e.power = .on ∧ e.headA = .present := by
  simp [Eligibility.eligible, and_assoc]

theorem wakeForFocus_eq :
    wakeForFocus k s = if s.focus.view[k.1].wakeable then requestWake k .focus (modFocus (fun f => { f with wakeOut := true }) s) else s :=
  rfl

end

/-! ## Placing the cursor (R46) -/

theorem cursorOn_iff (k : TargetId) (s : State) :
    s.cursorOn k = true ↔ ∃ sc i, s.locate s.cur.cursor.x s.cur.cursor.y = some (sc, i) ∧ s.tileTarget sc i = some k := by
  simp only [State.cursorOn, State.underCursor]
  cases s.locate s.cur.cursor.x s.cur.cursor.y with
  | none => simp
  | some p =>
    obtain ⟨sc, i⟩ := p
    simp

section
variable {k : TargetId} {s : State} {sc : ScreenId} {i : Fin 4}

theorem placeCursor_of_on (h : s.cursorOn k = true) : placeCursor k s = (true, s) := if_pos h

theorem placeCursor_of_tile {q : Rect} (h : s.cursorOn k = false) (ht : s.placementTile k = some (sc, i))
    (hq : s.tileRect sc i = some q) :
    placeCursor k s = (true, rewriteMirror .cursor (modCursor (fun c => { c with
      x := q.x + q.w / 2, y := q.y + q.h / 2, rx := 0, ry := 0, screen := some sc, tile := i, dwell := .clear }) s)) := by
  rw [placeCursor, if_neg (by rw [h]; nofun), ht]
  simp only [moveToTile, hq]
  rfl

theorem placeCursor_of_none (h : s.cursorOn k = false) (ht : s.placementTile k = none) : placeCursor k s = (false, s) := by
  rw [placeCursor, if_neg (by rw [h]; nofun), ht]

theorem placementTile_headA (h : s.ShowsFirst (headAOf k) sc i) : s.placementTile k = some (sc, i) := by
  rw [State.placementTile, findHead_eq_some h]

theorem placementTile_no_headA (h : ∀ sc i, ¬s.ShowsAt (headAOf k) sc i) : s.placementTile k = s.findHead (headBOf k) := by
  rw [State.placementTile, findHead_eq_none h]

end

/-! ## Requests (R52, R53) -/

section
variable {src : FocusSource} {s : State}

theorem takeFocusMsg_target (k : TargetId) : takeFocusMsg (.request src (.target k)) s = takeRequest src k s := rfl

theorem takeRequest_iff {k : TargetId} :
    (s.fittedTarget k = true ∧ s.focus.st.target ≠ some k ∧ s.anyEnabled = true) ↔
      k.1 < s.straps.targets ∧ s.focus.st.target ≠ some k ∧ ∃ sc : ScreenId, s.cur.geo[sc.1].enabled = true := by
  rw [fittedTarget_iff, anyEnabled_iff]

theorem takeRequest_of_taken {k : TargetId}
    (h : k.1 < s.straps.targets ∧ s.focus.st.target ≠ some k ∧ ∃ sc : ScreenId, s.cur.geo[sc.1].enabled = true) :
    takeRequest src k s = focusChange src (some k) .superseded none s := if_pos (takeRequest_iff.2 h)

theorem takeRequest_of_dropped {k : TargetId}
    (h : ¬(k.1 < s.straps.targets ∧ s.focus.st.target ≠ some k ∧ ∃ sc : ScreenId, s.cur.geo[sc.1].enabled = true)) :
    takeRequest src k s = s := if_neg (mt takeRequest_iff.1 h)

/-- A form of request that names a number is the request for the target of that number. -/
theorem takeFocusMsg_of_resolved {r : FocusReq} {n : Nat} (h : resolveRequest s r = asFin 8 n) :
    takeFocusMsg (.request src r) s =
      match asFin 8 n with
      | some k => takeFocusMsg (.request src (.target k)) s
      | none => s := by
  show (match resolveRequest s r with
    | some t => takeRequest src t s
    | none => s) = _
  rw [h]
  cases asFin 8 n <;> rfl

theorem resolve_next :
    resolveRequest s .next = asFin 8 (match s.focus.st.target with
      | none => 0
      | some k => if k.1 + 1 < s.straps.targets then k.1 + 1 else 0) := by
  unfold resolveRequest
  cases s.focus.st.target <;> rfl

theorem resolve_prev :
    resolveRequest s .prev = asFin 8 (match s.focus.st.target with
      | none => s.straps.targets - 1
      | some k => if k.1 = 0 then s.straps.targets - 1 else k.1 - 1) := by
  unfold resolveRequest
  cases s.focus.st.target <;> rfl

theorem takeFocusMsg_toggle :
    takeFocusMsg (.request src .toggle) s =
      match s.focus.previous with
      | some k => takeRequest src k s
      | none => s := rfl

end

/-! ## Reports (R50, R58 to R61) -/

/-- The record after a report of a plan that covers some screens. -/
def bringCleared (covers : ScreenId → Bool) (s : State) : State :=
  modFocus (fun f => { f with bringOut := match s.focus.bringOut with
    | some sc => if covers sc then none else some sc
    | none => none }) s

theorem modFocus_of_same {f : Focus → Focus} {s : State} (h : f s.focus = s.focus) : modFocus f s = s := by
  unfold modFocus
  rw [h]

theorem Focus.with_bringOut_same {f : Focus} {b : Option ScreenId} (h : f.bringOut = b) : { f with bringOut := b } = f := by
  subst h
  rfl

theorem clearBring_eq (covers : ScreenId → Bool) (s : State) : clearBring covers s = bringCleared covers s := by
  unfold clearBring bringCleared
  cases h : s.focus.bringOut with
  | none => exact (modFocus_of_same (Focus.with_bringOut_same h)).symm
  | some sc =>
    cases hc : covers sc
    · simp only [hc, Bool.false_eq_true, if_false]
      exact (modFocus_of_same (Focus.with_bringOut_same h)).symm
    · simp only [hc, if_true]

theorem takePlanReport_eq (covers : ScreenId → Bool) (s : State) :
    takePlanReport covers s =
      (let w := bringCleared covers s
       match s.focus.st with
       | .nobody => w
       | .focused k =>
         if s.shown k then if s.cursorOn k then w else requestPoint (placeCursor k w).2
         else if w.focus.bringOut.isSome then w else focusChange .replan s.replanTarget .superseded none w
       | .pending k =>
         if s.shown k then if w.canFocus k then becomeFocused k false w else noteCause s.focus.cause w
         else if w.focus.bringOut.isSome then w else focusChange .replan s.replanTarget .superseded none w) := by
  unfold takePlanReport
  rw [clearBring_eq]
  rfl

/-- A target that is not shown after the report: focus goes on to the tile under the cursor unless a bring is outstanding. -/
theorem takePlanReport_of_not_shown {covers : ScreenId → Bool} {s : State} {k : TargetId} (hk : s.focus.st.target = some k)
    (hs : s.shown k = false) :
    takePlanReport covers s =
      if (bringCleared covers s).focus.bringOut.isSome then bringCleared covers s
      else focusChange .replan s.replanTarget .superseded none (bringCleared covers s) := by
  rw [takePlanReport_eq]
  have hs : ¬s.shown k = true := by rw [hs]; nofun
  cases hst : s.focus.st with
  | nobody => rw [hst] at hk; exact absurd hk nofun
  | focused j | pending j =>
    rw [hst] at hk
    obtain rfl : j = k := Option.some.inj hk
    exact if_neg hs

theorem takeEligibility_of_lost {k : TargetId} {f : Eligibility → Eligibility} {s : State} (hst : s.focus.st = .focused k)
    (hwas : s.focus.eligible k = true) (his : (modFocus (fun g => { g with view := upd g.view k f }) s).focus.eligible k = false) :
    takeEligibility k f s = loseDesk k (modFocus (fun g => { g with view := upd g.view k f }) s) := if_pos ⟨hst, hwas, his⟩

theorem takeEligibility_of_regained {k : TargetId} {f : Eligibility → Eligibility} {s : State} (hst : s.focus.st = .pending k)
    (hwas : s.focus.eligible k = false) (his : (modFocus (fun g => { g with view := upd g.view k f }) s).focus.eligible k = true) :
    takeEligibility k f s = regainDesk k (modFocus (fun g => { g with view := upd g.view k f }) s) := by
  refine (if_neg fun h => ?_).trans (if_pos ⟨hst, hwas, his⟩)
  rw [hwas] at h
  exact absurd h.2.1 nofun

theorem takeEligibility_of_same {k : TargetId} {f : Eligibility → Eligibility} {s : State}
    (hlost : ¬(s.focus.st = .focused k ∧ s.focus.eligible k = true ∧
      (modFocus (fun g => { g with view := upd g.view k f }) s).focus.eligible k = false))
    (hregained : ¬(s.focus.st = .pending k ∧ s.focus.eligible k = false ∧
      (modFocus (fun g => { g with view := upd g.view k f }) s).focus.eligible k = true)) :
    takeEligibility k f s = modFocus (fun g => { g with view := upd g.view k f }) s := (if_neg hlost).trans (if_neg hregained)

theorem loseDesk_eq (k : TargetId) (s : State) :
    loseDesk k s = focusRecordChanged (modFocus (fun f => { f with masked := s.desk.keys })
      (releasePair k (modFocus (fun f => { f with st := .pending k }) s))) := by
  rw [loseDesk, maskDesk, (kept_releasePair _ _).desk]
  rfl

theorem revertTarget_eq_some {s : State} {p : TargetId} (hp : s.focus.previous = some p) (he : s.focus.eligible p = true)
    (hs : s.shown p = true) : s.revertTarget = some p := by
  simp only [State.revertTarget, hp, he, hs, Bool.and_self, if_true]

theorem revertTarget_eq_none {s : State} (h : ∀ p, s.focus.previous = some p → s.focus.eligible p = false ∨ s.shown p = false) :
    s.revertTarget = none := by
  unfold State.revertTarget
  cases hp : s.focus.previous with
  | none => rfl
  | some p => rcases h p hp with h | h <;> simp [h]

theorem takeWakeAnswer_of_other {k : TargetId} {r : Result} {s : State} (h : s.focus.st.target ≠ some k ∨ s.focus.wakeOut = false) :
    takeWakeAnswer k r s = s := by
  refine if_neg fun ⟨hk, hw⟩ => ?_
  rcases h with h | h
  · exact h hk
  · rw [hw] at h
    exact absurd h nofun

section
variable {k : TargetId} {s : State}

theorem takeWakeAnswer_ok (hk : s.focus.st.target = some k) (hw : s.focus.wakeOut = true) :
    takeWakeAnswer k .ok s =
      (let w := modFocus (fun f => { f with wakeOut := false }) s
       if w.canFocus k then becomeFocused k false w else noteCause s.focus.cause w) := if_pos ⟨hk, hw⟩

theorem takeWakeAnswer_fails {r : Result} (hk : s.focus.st.target = some k) (hw : s.focus.wakeOut = true) (hr : r ≠ .ok) :
    takeWakeAnswer k r s =
      match s.revertTarget with
      | some p => focusChange .revert (some p) .notReachable none s
      | none =>
        let w := modFocus (fun f => { f with wakeOut := false }) s
        noteCause s.focus.cause (modFocus (fun f => { f with waiting := [] }) (completeAll w.focus.waiting r focusData w)) :=
  (if_pos ⟨hk, hw⟩).trans (if_neg hr)

end

end Sys2Proof.Machine
end

section
/-! PROOFS. The focus controller: the obligation on focus changes, requests and reports. -/

namespace Sys2Proof.Machine

open Sys2Proof

/-- The test whether a target becomes FOCUSED, with a report's two outcomes. -/
theorem canFocus_cases {k : TargetId} {w a b : State} :
    let can := w.focus.eligible k = true ∧ w.focus.bringOut = none ∧ w.shown k = true
    (can → (if w.canFocus k then a else b) = a) ∧ (¬can → (if w.canFocus k then a else b) = b) :=
  ⟨fun h => if_pos ((canFocus_iff w k).2 h), fun h => if_neg fun hc => h ((canFocus_iff w k).1 hc)⟩

/-- Settles O31. -/
theorem focusChangeSetsRecord : Obligations.FocusChangeSetsRecord := by
  unfold Obligations.FocusChangeSetsRecord
  intro focusOut focusIs cause can
  refine ⟨?record, ?change, ?bring, ?place, ?request, ?planInLoad, ?focused, ?eligibility, ?wakeAnswer, ?planReport, ?reports⟩
  case record =>
    intro src b old cell s u
    obtain ⟨htarget, hcount, hsource, hprev, hpin, hview, hmask⟩ := focusChange_record src b old cell s
    obtain ⟨hnone, hsome⟩ := focusChange_waiting src b old cell s
    exact ⟨htarget, hcount, hsource, hprev, hpin, hview, hmask, hnone, hsome, kept_focusChange src b old cell s⟩
  case change =>
    intro src b old cell s a released masked still shown placed counted ended becomes returned
    refine ⟨?none, ?some⟩
    case none =>
      rintro rfl
      exact focusChange_none src old cell s
    case some =>
      rintro k rfl
      intro w
      have hchange : focusChange src (some k) old cell s = if w.canFocus k then becomeFocused k (decide (src = .glide)) w else focusOut w :=
        focusChange_some src old cell s k
      rw [hchange]
      exact canFocus_cases
  case bring =>
    intro k s offers waitsOn plan
    refine ⟨shown_iff s k, bring_of_shown, fun hs => ⟨fun sc ho hlt => bring_of_staged hs (stagedShows_eq_some ho hlt), fun hno => ?_⟩, ?_⟩
    · have hbring := bring_of_none_staged hs (stagedShows_eq_none hno)
      refine ⟨fun sc hsc => ?_, fun hsc => ?_⟩
      · rw [hbring, hsc]
        rfl
      · rw [hbring, hsc]
    · intro e asks
      rw [wakeForFocus_eq]
      exact ⟨fun h => if_pos ((wakeable_iff _).2 h), fun h => if_neg fun hw => h ((wakeable_iff _).1 hw)⟩
  case place =>
    intro k s p tile first moved
    refine ⟨rfl, rfl, fun h => ?_, fun h => ?_, ?_, cursorOn_iff k s, placeCursor_of_on, fun hon => ⟨fun sc i q hf hq => ?_, fun hnoA =>
      ⟨fun sc i q hf hq => ?_, fun hnoB => ?_⟩⟩⟩
    · simp only [requestPoint, h]
    · unfold requestPoint
      split
      · rename_i j hj
        exact absurd hj (h j)
      · rfl
    · simp only [focusData]
      cases s.focus.st <;> rfl
    · exact placeCursor_of_tile hon (placementTile_headA hf) hq
    · exact placeCursor_of_tile hon ((placementTile_no_headA hnoA).trans (findHead_eq_some hf)) hq
    · exact placeCursor_of_none hon ((placementTile_no_headA hnoA).trans (findHead_eq_none hnoB))
  case request =>
    intro src s named at'
    refine ⟨fun k => ⟨takeRequest_of_taken, takeRequest_of_dropped⟩, takeFocusMsg_of_resolved resolve_next,
      takeFocusMsg_of_resolved resolve_prev, fun k hk => ?_, fun hnone => ?_⟩
    · rw [takeFocusMsg_toggle, hk, takeFocusMsg_target]
    · rw [takeFocusMsg_toggle, hnone]
  case planInLoad =>
    intro sc s
    have hmsg : takeFocusMsg (.planInLoad sc) s = noteCause s.focus.cause (clearBring (fun x => decide (x = sc)) s) := rfl
    rw [hmsg]
    refine ⟨fun h => ?_, fun h => ?_⟩
    · have hclear : clearBring (fun x => decide (x = sc)) s = modFocus (fun f => { f with bringOut := none }) s := by
        simp only [clearBring, h, decide_true, if_true]
      rw [hclear]
      rfl
    · have hclear : clearBring (fun x => decide (x = sc)) s = s := by
        unfold clearBring
        cases hb : s.focus.bringOut with
        | none => rfl
        | some c =>
          have hne : c ≠ sc := fun e => h (e ▸ hb)
          simp only [hne, decide_false, Bool.false_eq_true, if_false]
      rw [hclear]
      exact if_pos rfl
  case focused =>
    intro k glide s placed sent pointed completed
    exact becomeFocused_eq k glide s
  case eligibility =>
    intro k f s r v was is
    have his : is = (f s.focus.view[k.1]).eligible := congrArg Eligibility.eligible (upd_self s.focus.view k f)
    refine ⟨by rw [his]; exact eligible_iff _, fun hst hwas his => ?_, fun hst hwas his => ?_, fun hlost hregained => ?_⟩
    · have hr : r = loseDesk k v := takeEligibility_of_lost hst hwas his
      rw [hr]
      exact loseDesk_eq k v
    · have hr : r = regainDesk k v := takeEligibility_of_regained hst hwas his
      rw [hr]
      exact canFocus_cases
    · exact takeEligibility_of_same hlost hregained
  case wakeAnswer =>
    intro k outcome s r w
    refine ⟨takeWakeAnswer_of_other, fun hk hw => ⟨?ok, fun hfail => ⟨fun p hp he hs => ?revert, fun hno => ?ends⟩⟩⟩
    case ok =>
      rintro rfl
      have hr : r = if w.canFocus k then becomeFocused k false w else cause s.focus.cause w := takeWakeAnswer_ok hk hw
      rw [hr]
      exact canFocus_cases
    case revert =>
      show takeWakeAnswer k outcome s = _
      rw [takeWakeAnswer_fails hk hw hfail, revertTarget_eq_some hp he hs]
    case ends =>
      show takeWakeAnswer k outcome s = _
      rw [takeWakeAnswer_fails hk hw hfail, revertTarget_eq_none hno]
      rfl
  case planReport =>
    intro covers s r w replan
    have hw : bringCleared covers s = w := rfl
    refine ⟨fun hst => ?nobody, fun k hk => ⟨fun hs hb => ?replans, fun hs hb => ?waits, fun hs => ⟨fun hst => ?focused, fun hst => ?pending⟩⟩⟩
    case nobody =>
      show takePlanReport covers s = w
      rw [takePlanReport_eq, hst] <;> rfl
    case replans =>
      show takePlanReport covers s = _
      rw [takePlanReport_of_not_shown hk hs, hw, hb]
      rfl
    case waits =>
      show takePlanReport covers s = w
      rw [takePlanReport_of_not_shown hk hs, hw, if_pos (Option.isSome_iff_ne_none.2 hb)]
    case focused =>
      have hr : r = if s.cursorOn k then w else requestPoint (placeCursor k w).2 := by
        show takePlanReport covers s = _
        rw [takePlanReport_eq, hst]
        exact if_pos hs
      rw [hr]
      exact ⟨fun h => if_pos h, fun h => if_neg (by rw [h]; nofun)⟩
    case pending =>
      have hr : r = if w.canFocus k then becomeFocused k false w else cause s.focus.cause w := by
        show takePlanReport covers s = _
        rw [takePlanReport_eq, hst]
        exact if_pos hs
      rw [hr]
      exact canFocus_cases
  case reports => exact fun k sc l p h o s => ⟨rfl, rfl, rfl, rfl, rfl, rfl, rfl⟩

end Sys2Proof.Machine
end

section
/-! PROOFS. Staging blocks cut into entries, and the operands of actions: what the range and fitting checks of hotkey and panel map entries say of the bytes (R85, R100, R164). -/

namespace Sys2Proof.Machine

open Sys2Proof

/-! ## Entries of a block (R182) -/

theorem block_take (m : Memory) (a n k : Nat) (h : k ≤ n) : (m.block a n).take k = m.block a k := by
  rw [Memory.block_eq, Memory.block_eq, ← List.map_take, List.take_range, Nat.min_eq_left h]

theorem block_drop (m : Memory) (a n k : Nat) : (m.block a n).drop k = m.block (a + k) (n - k) := by
  rw [Memory.block_eq, Memory.block_eq]
  apply List.ext_getElem
  · simp
  · intro i h1 h2
    simp [Nat.add_assoc]

/-- The entries cut from a block are the blocks of their bytes. -/
theorem entriesOf_block (m : Memory) (size n a : Nat) :
    entriesOf size n (m.block a (size * n)) = (ids n).map fun i => m.block (a + size * i.1) size := by
  induction n generalizing a with
  | zero => simp [entriesOf, ids]
  | succ n ih =>
    have hdrop : (m.block a (size * (n + 1))).drop size = m.block (a + size) (size * n) := by
      rw [block_drop, show size * (n + 1) - size = size * n by rw [Nat.mul_succ]; omega]
    rw [entriesOf, block_take _ _ _ _ (by rw [Nat.mul_succ]; omega), hdrop, ih]
    have hstep (i : Fin n) : m.block (a + size + size * i.1) size = m.block (a + size * i.succ.1) size := by
      rw [Fin.val_succ, Nat.mul_succ, Nat.add_assoc, Nat.add_comm size]
    simp [ids, List.finRange_succ, Function.comp_def, hstep]

theorem block_at8 (m : Memory) (a n i : Nat) (h : i < n) : at8 (m.block a n) i = m.read (a + i) := Memory.block_getD _ _ _ _ h

theorem block_at16 (m : Memory) (a n i : Nat) (h : i + 1 < n) :
    at16 (m.block a n) i = (m.read (a + i)).toNat + 256 * (m.read (a + i + 1)).toNat := by
  rw [at16, block_at8 _ _ _ _ (by omega), block_at8 _ _ _ _ h]
  rfl

theorem map_ids_getD {α : Type} {n : Nat} (f : Fin n → α) (i : Fin n) (d : α) : ((ids n).map f).getD i.1 d = f i := by
  simp [ids, List.getD]

/-- A pass over entries that all hold finds none that fails. -/
theorem firstFailure_eq_none {α : Type} {ok : α → Bool} {xs : List α} (k : Nat) (h : ∀ x ∈ xs, ok x = true) :
    firstFailure (fun i e => if ok e then none else some i) k xs = none := by
  induction xs generalizing k with
  | nil => rfl
  | cons x xs ih =>
    rw [firstFailure, if_pos (h x List.mem_cons_self)]
    exact ih (k + 1) fun y hy => h y (List.mem_cons_of_mem _ hy)

theorem firstFailure_append {α : Type} {ok : α → Bool} {before after : List α} {x : α} (k : Nat) (hb : ∀ y ∈ before, ok y = true)
    (hx : ok x = false) :
    firstFailure (fun i e => if ok e then none else some i) k (before ++ x :: after) = some (k + before.length) := by
  induction before generalizing k with
  | nil =>
    rw [List.nil_append, firstFailure, hx]
    rfl
  | cons y ys ih =>
    rw [List.cons_append, firstFailure, if_pos (hb y List.mem_cons_self)]
    refine (ih (k + 1) fun z hz => hb z (List.mem_cons_of_mem _ hz)).trans ?_
    simp only [List.length_cons]
    congr 1
    omega

section
variable {n : Nat} {α : Type} {ok : α → Bool} {f : Fin n → α}

theorem firstFailure_ids_eq_none (h : ∀ i, ok (f i) = true) :
    firstFailure (fun i e => if ok e then none else some i) 0 ((ids n).map f) = none :=
  firstFailure_eq_none 0 fun x hx => by
    obtain ⟨i, -, rfl⟩ := List.mem_map.1 hx
    exact h i

/-- The first entry that fails a pass. -/
theorem firstFailure_ids_eq_some {i : Fin n} (hi : ok (f i) = false) (hlt : ∀ j < i, ok (f j) = true) :
    firstFailure (fun i e => if ok e then none else some i) 0 ((ids n).map f) = some i.1 := by
  have hlen : i.1 < ((ids n).map f).length := by simp [ids]
  have hsplit : (ids n).map f = ((ids n).map f).take i.1 ++ f i :: ((ids n).map f).drop (i.1 + 1) := by
    have hget : ((ids n).map f)[i.1] = f i := by simp [ids]
    rw [← hget, ← List.drop_eq_getElem_cons hlen, List.take_append_drop]
  rw [hsplit, firstFailure_append 0 (fun y hy => ?_) hi]
  · simp [ids]
  · obtain ⟨j, hj, rfl⟩ := List.mem_iff_getElem.1 hy
    have hj : j < i.1 := by
      rw [List.length_take] at hj
      omega
    simpa [ids] using hlt ⟨j, hj.trans i.2⟩ hj

end

/-! ## Codes -/

theorem asFin_of_eq {n v : Nat} {k : Fin n} (h : v = k.1) : asFin n v = some k := h ▸ asFin_val k

theorem asFin_of_le {n v : Nat} (h : n ≤ v) : asFin n v = none := dif_neg (not_lt.2 h)

theorem Layout.ofByte_code (l : Layout) : Layout.ofByte l.code = some l := by cases l <;> rfl

theorem Layout.ofByte_of_le {b : Byte} (h : 5 ≤ b.toNat) : Layout.ofByte b = none := by
  unfold Layout.ofByte
  split <;> first | omega | rfl

theorem Layout.exists_code {b : Byte} (h : b.toNat < 5) : ∃ l : Layout, b = l.code := by
  have hb : b.toNat = 0 ∨ b.toNat = 1 ∨ b.toNat = 2 ∨ b.toNat = 3 ∨ b.toNat = 4 := by omega
  rcases hb with hb | hb | hb | hb | hb
  · exact ⟨.full, BitVec.eq_of_toNat_eq hb⟩
  · exact ⟨.pair, BitVec.eq_of_toNat_eq hb⟩
  · exact ⟨.stack, BitVec.eq_of_toNat_eq hb⟩
  · exact ⟨.quad, BitVec.eq_of_toNat_eq hb⟩
  · exact ⟨.trio, BitVec.eq_of_toNat_eq hb⟩

/-- The tile counts in the order of the codes. -/
theorem Layout.tiles_eq (l : Layout) : [1, 2, 2, 4, 3].getD l.code.toNat 0 = l.tiles := by cases l <;> rfl

theorem Layout.tiles_le (l : Layout) : l.tiles ≤ 4 := by cases l <;> decide

theorem boolOf_of_lt {b : Byte} (h : b.toNat < 2) : boolOf b = some (decide (b.toNat = 1)) := by
  have hb : b = 0 ∨ b = 1 := by
    have : b.toNat = 0 ∨ b.toNat = 1 := by omega
    simpa [← BitVec.toNat_inj] using this
  rcases hb with rfl | rfl <;> rfl

theorem boolOf_of_le {b : Byte} (h : 2 ≤ b.toNat) : boolOf b = none :=
  Option.isNone_iff_eq_none.1 ((boolOf_isNone_iff b).2 h)

theorem toNat_eq_one_iff (b : Byte) : b = 1 ↔ b.toNat = 1 := by
  rw [← BitVec.toNat_inj]
  rfl

theorem toNat_eq_zero_iff (b : Byte) : b = 0 ↔ b.toNat = 0 := by
  rw [← BitVec.toNat_inj]
  rfl

/-! ## The fields of a SHARE (R100) -/

section
variable {sc ly ti ta hd le : Byte}

theorem shareOf_eq_none (h : 6 ≤ sc.toNat ∨ 5 ≤ ly.toNat ∨ 8 ≤ ta.toNat ∨ 2 ≤ hd.toNat ∨ 2 ≤ le.toNat) :
    shareOf sc ly ti ta hd le = none := by
  unfold shareOf
  rcases h with h | h | h | h | h
  · rw [asFin_of_le h]
    rfl
  · rw [Layout.ofByte_of_le h]
    simp
  · rw [asFin_of_le h]
    simp
  · rw [boolOf_of_le h]
    simp
  · rw [boolOf_of_le h]
    simp

theorem shareOf_eq_none_of_tile {l : Layout} (hl : ly = l.code) (h : l.tiles ≤ ti.toNat) : shareOf sc ly ti ta hd le = none := by
  unfold shareOf
  rw [hl, Layout.ofByte_code]
  cases ht : asFin 4 ti.toNat with
  | none => simp
  | some k =>
    have hk : k.1 = ti.toNat := by
      unfold asFin at ht
      split at ht
      · rw [← Option.some.inj ht]
      · exact absurd ht nofun
    simp [hk, not_lt.2 h]

theorem headOf_eq {k : TargetId} {n : Nat} {h : HeadId} (hn : n < 2) (hh : h.1 = 2 * k.1 + n) : headOf k (decide (n = 1)) = h := by
  have hn : n = 0 ∨ n = 1 := by omega
  rcases hn with rfl | rfl <;> exact Fin.ext hh.symm

/-- The fields of a SHARE in range. -/
theorem shareOf_eq_some {screen : ScreenId} {l : Layout} {k : TargetId} {tile : Fin 4} {h : HeadId} (hsc : sc.toNat = screen.1)
    (hl : ly = l.code) (hk : ta.toNat = k.1) (hhd : hd.toNat < 2) (hle : le.toNat < 2) (hti : ti.toNat = tile.1)
    (hlt : tile.1 < l.tiles) (hh : h.1 = 2 * k.1 + hd.toNat) :
    shareOf sc ly ti ta hd le = some { screen := screen, layout := l, tile := tile, head := h, lend := decide (le.toNat = 1) } := by
  unfold shareOf
  rw [asFin_of_eq hsc, hl, Layout.ofByte_code, asFin_of_eq hti, asFin_of_eq hk, boolOf_of_lt hhd, boolOf_of_lt hle]
  simp [hlt, headOf_eq hhd hh]

end

/-! ## The operands of actions (R85) -/

/-- An action's operands are out of range. -/
def OperandsBeyond (a : Nat) (o : Operands) : Prop :=
  ((a = 1 ∨ a = 7) ∧ 8 ≤ o.target.toNat) ∨ (a = 6 ∧ 6 ≤ o.screen.toNat) ∨
    (a = 5 ∧ (8 ≤ o.target.toNat ∨ 6 ≤ o.screen.toNat ∨ 5 ≤ o.layout.toNat ∨
      [1, 2, 2, 4, 3].getD o.layout.toNat 0 ≤ o.tile.toNat ∨ 2 ≤ o.head.toNat))

/-- An action's operands name what is not fitted. -/
def OperandsUnfitted (s : State) (a : Nat) (o : Operands) : Prop :=
  ((a = 1 ∨ a = 7) ∧ s.straps.targets ≤ o.target.toNat) ∨ (a = 6 ∧ s.straps.screens ≤ o.screen.toNat) ∨
    (a = 5 ∧ (s.straps.targets ≤ o.target.toNat ∨ s.straps.screens ≤ o.screen.toNat ∨
      (o.head.toNat = 1 ∧ ∃ k : TargetId, o.target.toNat = k.1 ∧ s.setups[k.1].headB = false)))

theorem Action.ofByte_of_le {b : Byte} (h : 11 ≤ b.toNat) : Action.ofByte b = none := by
  unfold Action.ofByte
  split <;> first | omega | rfl

/-- The number of an action among its codes. -/
def Action.number : Action → Nat
  | .nothing => 0
  | .focus => 1
  | .focusNext => 2
  | .focusPrev => 3
  | .focusToggle => 4
  | .share => 5
  | .restore => 6
  | .wake => 7
  | .pinToggle => 8
  | .notify => 9
  | .host => 10

theorem Action.ofByte_of_lt {b : Byte} (h : b.toNat < 11) : ∃ a : Action, Action.ofByte b = some a ∧ b.toNat = a.number := by
  unfold Action.ofByte
  generalize b.toNat = n at h ⊢
  interval_cases n <;> exact ⟨_, rfl, rfl⟩

/-- A SHARE's operands in range, as its fields. -/
theorem shareReq_of_range {o : Operands} (h : ¬OperandsBeyond 5 o) :
    ∃ (r : ShareReq) (k : TargetId), o.shareReq = some r ∧ o.screen.toNat = r.screen.1 ∧ o.target.toNat = k.1 ∧
      r.head.1 = 2 * k.1 + o.head.toNat ∧ o.head.toNat < 2 := by
  have h : ¬_ := fun hc => h (.inr (.inr ⟨rfl, hc⟩))
  simp only [not_or, not_le] at h
  obtain ⟨hta, hsc, hly, hti, hhd⟩ := h
  obtain ⟨l, hl⟩ := Layout.exists_code hly
  rw [hl, Layout.tiles_eq] at hti
  have hti4 := hti.trans_le l.tiles_le
  exact ⟨_, ⟨o.target.toNat, hta⟩, shareOf_eq_some (screen := ⟨o.screen.toNat, hsc⟩) (k := ⟨o.target.toNat, hta⟩)
    (tile := ⟨o.tile.toNat, hti4⟩) (h := ⟨2 * o.target.toNat + o.head.toNat, by omega⟩) rfl hl rfl hhd (by decide) rfl hti rfl,
    rfl, rfl, rfl, hhd⟩

theorem shareReq_of_beyond {o : Operands} (h : OperandsBeyond 5 o) : o.shareReq = none := by
  simp only [OperandsBeyond] at h
  by_cases hly : 5 ≤ o.layout.toNat
  · exact shareOf_eq_none (.inr (.inl hly))
  · obtain ⟨l, hl⟩ := Layout.exists_code (not_le.1 hly)
    rw [hl] at hly
    rw [hl, Layout.tiles_eq] at h
    by_cases hti : l.tiles ≤ o.tile.toNat
    · exact shareOf_eq_none_of_tile hl hti
    · exact shareOf_eq_none (by omega)

theorem inRange_iff (o : Operands) (a : Action) : o.inRange a = true ↔ ¬OperandsBeyond a.number o := by
  cases a with
  | share =>
    refine ⟨fun h hb => ?_, fun h => ?_⟩
    · have hr : o.shareReq.isSome = true := h
      rw [shareReq_of_beyond hb] at hr
      exact absurd hr nofun
    · obtain ⟨r, k, hr, -⟩ := shareReq_of_range h
      show o.shareReq.isSome = true
      rw [hr]
      rfl
  | focus | wake | restore | nothing | focusNext | focusPrev | focusToggle | pinToggle | notify | host =>
    simp [Operands.inRange, OperandsBeyond, Action.number]

theorem headFitted_iff {s : State} {h : HeadId} {k : TargetId} {n : Nat} (hn : n < 2) (hh : h.1 = 2 * k.1 + n) :
    s.headFitted h = true ↔ ¬(n = 1 ∧ s.setups[k.1].headB = false) := by
  have hk : headTarget h = k := Fin.ext (by simp only [headTarget]; omega)
  have hb : isHeadB h = decide (n = 1) := by
    simp only [isHeadB, hh, decide_eq_decide]
    omega
  simp only [State.headFitted, hk, hb]
  by_cases h1 : n = 1 <;> simp [h1]

theorem watched_iff {s : State} {h : HeadId} {k : TargetId} {n : Nat} (hn : n < 2) (hh : h.1 = 2 * k.1 + n) :
    s.watched h = true ↔ k.1 < s.straps.targets ∧ ¬(n = 1 ∧ s.setups[k.1].headB = false) := by
  have hk : headTarget h = k := Fin.ext (by simp only [headTarget]; omega)
  rw [State.watched, Bool.and_eq_true, hk, fittedTarget_iff, headFitted_iff hn hh]

theorem fittedScreen_iff (s : State) (sc : ScreenId) : s.fittedScreen sc = true ↔ sc.1 < s.straps.screens := by
  simp [State.fittedScreen]

theorem fitted_iff {s : State} {o : Operands} {a : Action} (h : ¬OperandsBeyond a.number o) :
    o.fitted s a = true ↔ ¬OperandsUnfitted s a.number o := by
  cases a with
  | share =>
    obtain ⟨r, k, hr, hsc, hta, hh, hhd⟩ := shareReq_of_range h
    have hk : headTarget r.head = k := Fin.ext (by simp only [headTarget]; omega)
    have hfit : o.fitted s .share = (s.fittedScreen r.screen && s.fittedTarget (headTarget r.head) && s.headFitted r.head) := by
      simp only [Operands.fitted, hr]
    have hB : (∃ j : TargetId, o.target.toNat = j.1 ∧ s.setups[j.1].headB = false) ↔ s.setups[k.1].headB = false := by
      refine ⟨fun ⟨j, hj, hb⟩ => ?_, fun hb => ⟨k, hta, hb⟩⟩
      obtain rfl : j = k := Fin.ext (hj.symm.trans hta)
      exact hb
    rw [hfit, hk, Bool.and_eq_true, Bool.and_eq_true, fittedScreen_iff, fittedTarget_iff, headFitted_iff hhd hh]
    unfold OperandsUnfitted
    rw [hB]
    simp only [Action.number, hsc, hta, not_or, not_and, not_le]
    tauto
  | focus | wake | restore | nothing | focusNext | focusPrev | focusToggle | pinToggle | notify | host =>
    simp [Operands.fitted, OperandsUnfitted, Action.number]

end Sys2Proof.Machine
end

section
/-! PROOFS. The hotkey matcher: HOTKEYS_LOAD (R85, R86), LEADER_SET (R87), and the deadlines of the desk (R76, R89, R10, R38). -/

namespace Sys2Proof.Machine

open Sys2Proof

/-! ## HOTKEYS_LOAD (R85, R86) -/

/-- An entry fails the range pass. -/
def HotEntryBeyond (e : List Byte) : Prop :=
  2 ≤ (at8 e 0).toNat ∨ ((at8 e 0).toNat = 1 ∧
    (2 ≤ (at8 e 1).toNat ∨ (at8 e 3).toNat = 0 ∨ (at8 e 4).toNat = 0 ∨ 10 ≤ (at8 e 4).toNat ∨
      OperandsBeyond (at8 e 4).toNat (operandsAt e 5)))

/-- An entry fails the fitting pass. -/
def HotEntryUnfitted (s : State) (e : List Byte) : Prop :=
  (at8 e 0).toNat = 1 ∧ OperandsUnfitted s (at8 e 4).toNat (operandsAt e 5)

theorem hotAction_of_range {b : Byte} (h : 1 ≤ b.toNat) (h' : b.toNat < 10) :
    ∃ a : Action, hotAction b = some a ∧ b.toNat = a.number := by
  obtain ⟨a, ha, hn⟩ := Action.ofByte_of_lt (b := b) (by omega)
  refine ⟨a, ?_, hn⟩
  rw [hn] at h h'
  unfold hotAction
  rw [ha]
  cases a with
  | nothing => exact absurd h (by decide)
  | host => exact absurd h' (by decide)
  | focus | focusNext | focusPrev | focusToggle | share | restore | wake | pinToggle | notify => rfl

theorem hotAction_eq_none {b : Byte} (h : b.toNat = 0 ∨ 10 ≤ b.toNat) : hotAction b = none := by
  unfold hotAction
  by_cases hlt : b.toNat < 11
  · obtain ⟨a, ha, hn⟩ := Action.ofByte_of_lt hlt
    rw [hn] at h
    rw [ha]
    cases a with
    | nothing | host => rfl
    | focus | focusNext | focusPrev | focusToggle | share | restore | wake | pinToggle | notify => exact absurd h (by decide)
  · rw [Action.ofByte_of_le (not_lt.1 hlt)]

theorem hotEntryInRange_of_on {e : List Byte} (h : (at8 e 0).toNat = 1) :
    hotEntryInRange e =
      (decide (at8 e 1 = 0 ∨ at8 e 1 = 1) && decide (at8 e 3 ≠ 0) &&
        match hotAction (at8 e 4) with
        | none => false
        | some a => (operandsAt e 5).inRange a) := by
  unfold hotEntryInRange
  rw [boolOf_of_lt (by omega), h] <;> rfl

theorem hotEntryInRange_iff (e : List Byte) : hotEntryInRange e = true ↔ ¬HotEntryBeyond e := by
  by_cases h2 : 2 ≤ (at8 e 0).toNat
  · have hno : hotEntryInRange e = false := by
      unfold hotEntryInRange
      rw [boolOf_of_le h2]
    rw [hno]
    exact ⟨nofun, fun h => absurd (.inl h2) h⟩
  · by_cases h1 : (at8 e 0).toNat = 1
    · rw [hotEntryInRange_of_on h1, Bool.and_eq_true, Bool.and_eq_true, decide_eq_true_eq, decide_eq_true_eq, toNat_eq_one_iff,
        toNat_eq_zero_iff, Ne, toNat_eq_zero_iff]
      unfold HotEntryBeyond
      by_cases ha : 1 ≤ (at8 e 4).toNat ∧ (at8 e 4).toNat < 10
      · obtain ⟨a, hact, hn⟩ := hotAction_of_range ha.1 ha.2
        rw [hact]
        show _ ∧ (operandsAt e 5).inRange a = true ↔ _
        rw [inRange_iff, ← hn]
        grind
      · rw [hotAction_eq_none (by omega)]
        show _ ∧ false = true ↔ _
        grind
    · have hyes : hotEntryInRange e = true := by
        unfold hotEntryInRange
        rw [boolOf_of_lt (by omega), decide_eq_false h1]
      rw [hyes]
      unfold HotEntryBeyond
      grind

theorem hotEntryFitted_iff {s : State} {e : List Byte} (h : ¬HotEntryBeyond e) :
    hotEntryFitted s e = true ↔ ¬HotEntryUnfitted s e := by
  have henabled : (hotEntryOf e).enabled = decide ((at8 e 0).toNat = 1) := decide_eq_decide.2 (toNat_eq_one_iff _)
  by_cases h1 : (at8 e 0).toNat = 1
  · unfold HotEntryBeyond at h
    obtain ⟨a, hact, hn⟩ := hotAction_of_range (b := at8 e 4) (by omega) (by omega)
    have hops : ¬OperandsBeyond a.number (operandsAt e 5) := by rw [← hn]; tauto
    have hfit : hotEntryFitted s e = (operandsAt e 5).fitted s a := by
      unfold hotEntryFitted
      dsimp only
      rw [henabled, decide_eq_true h1, show (hotEntryOf e).action = at8 e 4 from rfl, hact]
      rfl
    rw [hfit, fitted_iff hops, ← hn]
    unfold HotEntryUnfitted
    tauto
  · have hfit : hotEntryFitted s e = true := by
      unfold hotEntryFitted
      dsimp only
      rw [henabled, decide_eq_false h1]
      rfl
    rw [hfit]
    unfold HotEntryUnfitted
    tauto

/-- An entry of the block as it stands in the memory. -/
def hotBytes (m : Memory) (i : Fin 32) : List Byte := m.block (0x0E00 + 16 * i.1) 16

theorem hotEntries_eq (m : Memory) : entriesOf 16 32 (m.block Config.hotkeyBase 512) = (ids 32).map (hotBytes m) :=
  entriesOf_block m 16 32 0x0E00

section
variable {c : CellId} {p : List Byte} {s : State}

theorem ownHotkeysLoad_of_beyond {i : Fin 32} (hi : HotEntryBeyond (hotBytes s.xm.mem i))
    (hlt : ∀ j < i, ¬HotEntryBeyond (hotBytes s.xm.mem j)) :
    ownHotkeysLoad c p s = complete c .badParam [byte i.1] s := by
  have hfail := firstFailure_ids_eq_some (ok := hotEntryInRange) (f := hotBytes s.xm.mem) (i := i)
    (Bool.eq_false_iff.2 fun h => (hotEntryInRange_iff _).1 h hi) fun j hj => (hotEntryInRange_iff _).2 (hlt j hj)
  dsimp only [ownHotkeysLoad]
  rw [hotEntries_eq, hfail]

theorem hotkeys_range_passes (h : ∀ i, ¬HotEntryBeyond (hotBytes s.xm.mem i)) :
    firstFailure (fun i e => if hotEntryInRange e then none else some i) 0 ((ids 32).map (hotBytes s.xm.mem)) = none :=
  firstFailure_ids_eq_none fun i => (hotEntryInRange_iff _).2 (h i)

theorem ownHotkeysLoad_of_unfitted (hrange : ∀ i, ¬HotEntryBeyond (hotBytes s.xm.mem i)) {i : Fin 32}
    (hi : HotEntryUnfitted s (hotBytes s.xm.mem i)) (hlt : ∀ j < i, ¬HotEntryUnfitted s (hotBytes s.xm.mem j)) :
    ownHotkeysLoad c p s = complete c .notFitted [byte i.1] s := by
  have hfail := firstFailure_ids_eq_some (ok := hotEntryFitted s) (f := hotBytes s.xm.mem) (i := i)
    (Bool.eq_false_iff.2 fun h => (hotEntryFitted_iff (hrange i)).1 h hi) fun j hj => (hotEntryFitted_iff (hrange j)).2 (hlt j hj)
  dsimp only [ownHotkeysLoad]
  rw [hotEntries_eq, hotkeys_range_passes hrange, hfail]

/-- The matcher with the table of a block. -/
def hotLoaded (m : Memory) (h : Hotkeys) : Hotkeys :=
  { h with table := Vector.ofFn fun i => hotEntryOf (hotBytes m i), state := .idle, lastFired := none }

theorem applyHotkeys_eq (m : Memory) (s : State) :
    applyHotkeys ((ids 32).map (hotBytes m)) s = notice .hotkey { s with hot := hotLoaded m s.hot } := by
  unfold applyHotkeys
  simp only [map_ids_getD]
  rfl

theorem ownHotkeysLoad_of_taken (hrange : ∀ i, ¬HotEntryBeyond (hotBytes s.xm.mem i))
    (hfit : ∀ i, ¬HotEntryUnfitted s (hotBytes s.xm.mem i)) :
    ownHotkeysLoad c p s =
      complete c .ok [byte ((hotLoaded s.xm.mem s.hot).countKind 0), byte ((hotLoaded s.xm.mem s.hot).countKind 1)]
        (notice .hotkey { s with hot := hotLoaded s.xm.mem s.hot }) := by
  have hpass : firstFailure (fun i e => if hotEntryFitted s e then none else some i) 0 ((ids 32).map (hotBytes s.xm.mem)) = none :=
    firstFailure_ids_eq_none fun i => (hotEntryFitted_iff (hrange i)).2 (hfit i)
  dsimp only [ownHotkeysLoad]
  rw [hotEntries_eq, hotkeys_range_passes hrange, hpass]
  dsimp only
  rw [applyHotkeys_eq]
  rfl

end

theorem countKind_eq (h : Hotkeys) (kind : Byte) :
    h.countKind kind = ((ids 32).filter fun i => h.table[i.1].enabled && h.table[i.1].kind == kind).length := by
  rw [Hotkeys.countKind, toList_eq_map_ids, List.filter_map, List.length_map]
  rfl

/-- The memory above the cells that a take leaves. -/
theorem take_read_above (c : CellId) (s : State) {a : Nat} (h : 0x0400 ≤ a) : (take c s).xm.mem.read a = s.xm.mem.read a :=
  take_read c s a (by have := c.2; omega)

theorem hotBytes_take (c : CellId) (s : State) (i : Fin 32) {j : Nat} (h : j < 16) :
    at8 (hotBytes (take c s).xm.mem i) j = s.xm.mem.read (0x0E00 + 16 * i.1 + j) := by
  rw [hotBytes, block_at8 _ _ _ _ h, take_read_above c s (by omega)]

/-- Settles O33. -/
theorem hotkeysLoadReplacesTable : Obligations.HotkeysLoadReplacesTable := by
  unfold Obligations.HotkeysLoadReplacesTable
  intro t c s hready u taken count n names tiles outOfRange unfitted
  have hb (i : Fin 32) {j : Nat} (hj : j < 16) : at8 (hotBytes u.xm.mem i) j = s.xm.mem.read (0x0E00 + 16 * i.1 + j) :=
    hotBytes_take c (s.advance t) i hj
  have hops (i : Fin 32) : operandsAt (hotBytes u.xm.mem i) 5 = (taken i).ops := by
    simp only [operandsAt, hb i (show 5 < 16 by omega), hb i (show 6 < 16 by omega), hb i (show 7 < 16 by omega),
      hb i (show 8 < 16 by omega), hb i (show 9 < 16 by omega)]
    rfl
  have hbeyond (i : Fin 32) : HotEntryBeyond (hotBytes u.xm.mem i) ↔ outOfRange i := by
    unfold HotEntryBeyond
    rw [hops, hb i (show 0 < 16 by omega), hb i (show 1 < 16 by omega), hb i (show 3 < 16 by omega), hb i (show 4 < 16 by omega)]
    rfl
  have hunfitted (i : Fin 32) : HotEntryUnfitted u (hotBytes u.xm.mem i) ↔ unfitted i := by
    unfold HotEntryUnfitted
    rw [hops, hb i (show 0 < 16 by omega), hb i (show 4 < 16 by omega)]
    rfl
  have hquiet {v : State} (hv : ownHotkeysLoad c (s.cellParams c) u = v) (hempty : v.focus.inbox = []) :
      exec (.hotkeysLoad t c) s = .next v :=
    (takeCell_quiet (owner := ownHotkeysLoad) hready (by rw [show ownHotkeysLoad _ _ _ = v from hv]; exact hempty)).trans
      (congrArg _ hv)
  have hdone (r : Result) (data : List Byte) : (complete c r data u).focus.inbox = [] := by
    rw [complete_focus]
    exact hready.1.2
  refine ⟨fun i hi hlt => hquiet ?range (hdone _ _), fun hrange => ⟨fun i hi hlt => hquiet ?fitting (hdone _ _), fun hfit => hquiet ?taken ?quiet⟩⟩
  case range => exact ownHotkeysLoad_of_beyond ((hbeyond i).2 hi) fun j hj h => hlt j hj ((hbeyond j).1 h)
  case fitting =>
    exact ownHotkeysLoad_of_unfitted (fun i h => hrange i ((hbeyond i).1 h)) ((hunfitted i).2 hi)
      fun j hj h => hlt j hj ((hunfitted j).1 h)
  case taken =>
    have htable (i : Fin 32) : hotEntryOf (hotBytes u.xm.mem i) = taken i := by
      unfold hotEntryOf
      rw [hops, hb i (show 0 < 16 by omega), hb i (show 1 < 16 by omega), hb i (show 2 < 16 by omega), hb i (show 3 < 16 by omega),
        hb i (show 4 < 16 by omega)]
    have hloaded : hotLoaded u.xm.mem u.hot = { u.hot with table := Vector.ofFn taken, state := .idle, lastFired := none } := by
      simp only [hotLoaded, htable]
    have hcount (kind : Byte) : (hotLoaded u.xm.mem u.hot).countKind kind = count kind := by
      rw [hloaded, countKind_eq]
      simp only [Vector.getElem_ofFn]
      rfl
    rw [ownHotkeysLoad_of_taken (fun i h => hrange i ((hbeyond i).1 h)) fun i h => hfit i ((hunfitted i).1 h), hcount, hcount, hloaded]
  case quiet =>
    rw [complete_focus]
    exact hready.1.2

/-! ## LEADER_SET (R87) -/

/-- Settles O34. -/
theorem leaderSetTakesSettings : Obligations.LeaderSetTakesSettings := by
  unfold Obligations.LeaderSetTakesSettings
  intro t c s hready u key window
  have hkey : at8 (s.cellParams c) 0 = key := cellParams_at8 s c 0 (by omega)
  have hwindow : round10 (at16 (s.cellParams c) 2) = window := by
    rw [cellParams_at16 s c 2 (by omega), round10_eq]
  have hquiet {v : State} (hv : ownLeaderSet c (s.cellParams c) u = v) (hempty : v.focus.inbox = []) :
      exec (.leaderSet t c) s = .next v :=
    (takeCell_quiet (owner := ownLeaderSet) hready (by rw [show ownLeaderSet _ _ _ = v from hv]; exact hempty)).trans (congrArg _ hv)
  refine ⟨fun hbad => hquiet ?refused (by rw [complete_focus]; exact hready.1.2),
    fun hlo hhi => hquiet ?taken (by rw [complete_focus]; exact hready.1.2)⟩
  case refused =>
    dsimp only [ownLeaderSet]
    rw [hwindow, if_pos hbad]
  case taken =>
    dsimp only [ownLeaderSet]
    rw [hwindow, hkey, if_neg (by omega)]
    rfl

end Sys2Proof.Machine
end

section
/-! PROOFS. The deadlines of the desk (R76, R89, R10, R38, R186): what a restart's remaining steps do, and the events that act when a deadline has been reached. -/

namespace Sys2Proof.Machine

open Sys2Proof

theorem reached_some (d : Nat) (s : State) : reached (some d) s = decide (d ≤ s.now) := rfl

theorem reached_none (s : State) : reached none s = false := rfl

/-! ## The remaining steps of a restart (R185) -/

theorem tick_restarting {s : State} {c : CellId} {k : Fin 9} (h : s.runState = .restarting c k) :
    tick s = settle (restartStep c k s) := by
  unfold tick
  rw [h]

theorem startPending_desk (s : State) : (startPending s).desk = s.desk := by
  unfold startPending
  split <;> rfl

/-- From step 5 on a restart's step leaves the desk input unit, and the run state holds the next step. -/
theorem restartStep_late {s : State} {c : CellId} {k : Fin 9} (hk : 4 ≤ k.1) :
    (restartStep c k s).desk = s.desk ∧ (k.1 ≠ 8 → (restartStep c k s).runState = .restarting c (k + 1)) := by
  by_cases h8 : k.1 = 8
  · refine ⟨?_, fun h => absurd h8 h⟩
    rw [restartStep, if_pos h8, startPending_desk]
    exact (kept_complete c .ok [] s).desk
  · rw [restartStep, if_neg h8]
    exact ⟨restartWork_desk k s hk, fun _ => rfl⟩

theorem repeat_tick_desk {n : Nat} {s : State} {c : CellId} {k : Fin 9} (hr : s.runState = .restarting c k) (hn : n + k.1 = 9)
    (hk : 4 ≤ k.1) : (Nat.repeat tick n s).desk = s.desk := by
  induction n generalizing s k with
  | zero => rfl
  | succ n ih =>
    obtain ⟨hdesk, hnext⟩ := restartStep_late (s := s) (c := c) hk
    have htick : (tick s).desk = s.desk := by
      rw [tick_restarting hr, (kept_settle _).desk, hdesk]
    rw [repeat_tick]
    by_cases h8 : k.1 = 8
    · obtain rfl : n = 0 := by omega
      exact htick
    · have hrun : (tick s).runState = .restarting c (k + 1) := by
        rw [tick_restarting hr, (kept_settle _).runState, hnext h8]
      have hval : (k + 1 : Fin 9).1 = k.1 + 1 := by
        rw [Fin.val_add_one_of_lt' (by omega)]
      rw [ih hrun (by omega) (by omega), htick]

theorem finishRestart_late {s : State} {c : CellId} {k : Fin 9} (hr : s.runState = .restarting c k) (hk : 4 ≤ k.1) :
    finishRestart s = Nat.repeat tick (9 - k.1) s := by
  rw [← work_eq_repeat]
  unfold finishRestart
  rw [hr]
  exact if_pos hk

theorem finishRestart_of_early {s : State} (h : ∀ c k, s.runState = .restarting c k → k.1 < 4) : finishRestart s = s := by
  unfold finishRestart
  split
  · rename_i c k hr
    exact if_neg (not_le.2 (h c k hr))
  · rfl
  · rfl

/-! ## Deadlines that act when they are reached (log 3) -/

section
variable {t : Nat} {s : State} (hs : s.live)
include hs

/-- An effect under a test, where it leaves nothing to take. -/
theorem act_if {p : State → Prop} [DecidablePred p] {f : State → State} (hf : (f (s.advance t)).focus.inbox = []) :
    act t (fun s => if p s then f s else s) s = .next (if p (s.advance t) then f (s.advance t) else s.advance t) := by
  refine act_quiet hs ?_
  split
  · exact hf
  · exact hs.2

theorem exec_lineResetEnd_reached {l : LineId} {d : Nat} (hd : s.desk.lines[l.1].resetUntil = some d) (hle : d ≤ (s.advance t).now)
    (hempty : (finishRestart (s.advance t)).focus.inbox = []) :
    exec (.lineResetEnd t l) s = .next (modDeskLine l (fun r => { r with resetUntil := none }) (finishRestart (s.advance t))) := by
  have hdue : reached (s.advance t).desk.lines[l.1].resetUntil (s.advance t) = true := by
    rw [show (s.advance t).desk.lines[l.1].resetUntil = some d from hd, reached_some]
    exact decide_eq_true hle
  refine (act_if (p := fun s => reached s.desk.lines[l.1].resetUntil s = true) (f := fun s => endLineReset l (finishRestart s)) hs
    hempty).trans ?_
  rw [if_pos hdue]
  rfl

theorem exec_lineResetEnd_early {l : LineId} (h : ∀ d, s.desk.lines[l.1].resetUntil = some d → (s.advance t).now < d) :
    exec (.lineResetEnd t l) s = .next (s.advance t) := by
  have hdue : reached (s.advance t).desk.lines[l.1].resetUntil (s.advance t) = false := by
    cases hd : s.desk.lines[l.1].resetUntil with
    | none => rw [show (s.advance t).desk.lines[l.1].resetUntil = none from hd, reached_none]
    | some d =>
      rw [show (s.advance t).desk.lines[l.1].resetUntil = some d from hd, reached_some]
      exact decide_eq_false (not_le.2 (h d hd))
  have hexec : exec (.lineResetEnd t l) s =
      act t (fun s => if reached s.desk.lines[l.1].resetUntil s then endLineReset l (finishRestart s) else s) s := rfl
  rw [hexec, act_live hs, hdue]
  exact congrArg _ (settle_advance hs)

end

/-- The dwell deadline's expiry on a state: a HOLDING dwell whose deadline has been reached becomes READY. -/
def dwellReady (s : State) : State :=
  match s.cur.cursor.dwell with
  | .holding h => if h.due ≤ s.now then rewriteMirror .cursor (modCursor (fun c => { c with dwell := .ready h }) s) else s
  | _ => s

theorem exec_dwellDeadlineExpiry (t : Nat) (s : State) : exec (.dwellDeadlineExpiry t) s = act t dwellReady s := rfl

theorem dwellReady_of_reached {s : State} {h : Hold} (hd : s.cur.cursor.dwell = .holding h) (hle : h.due ≤ s.now) :
    dwellReady s = rewriteMirror .cursor (modCursor (fun c => { c with dwell := .ready h }) s) := by
  unfold dwellReady
  rw [hd]
  exact if_pos hle

theorem dwellReady_of_early {s : State} (h : ∀ h, s.cur.cursor.dwell = .holding h → s.now < h.due) : dwellReady s = s := by
  unfold dwellReady
  split
  · rename_i hold hd
    exact if_neg (not_le.2 (h hold hd))
  · rfl

/-- Settles O35. -/
theorem deskDeadlinesAct : Obligations.DeskDeadlinesAct := by
  unfold Obligations.DeskDeadlinesAct
  intro t s hs u
  refine ⟨?leader, fun l => ⟨fun hearly => ?line, exec_lineResetEnd_early hs, fun c k d hr hk hd hle => ?restart⟩,
    fun h hdwell hle => ?dwell, fun hearly => ?early⟩
  case leader =>
    have hexec : exec (.leaderDeadlineExpiry t) s = .next (if reached u.hot.state.due u then setMatcher .idle u else u) :=
      act_if (p := fun s => reached s.hot.state.due s = true) (f := setMatcher .idle) hs hs.2
    rw [hexec]
    show Host.Outcome.next (if reached s.hot.state.due u then setMatcher .idle u else u) = _
    cases s.hot.state with
    | idle => rfl
    | leaderOne d | armed d =>
      rw [Matcher.due, reached_some]
      simp only [decide_eq_true_eq]
      rfl
  case line =>
    have hfinish : finishRestart u = u := finishRestart_of_early hearly
    cases hd : s.desk.lines[l.1].resetUntil with
    | none => exact exec_lineResetEnd_early hs fun d h => absurd (hd.symm.trans h) nofun
    | some d =>
      show exec (.lineResetEnd t l) s = .next (if d ≤ u.now then _ else u)
      split
      · rename_i hle
        rw [exec_lineResetEnd_reached hs hd hle (by rw [show finishRestart (s.advance t) = s.advance t from hfinish]; exact hs.2)]
        exact congrArg (fun v => Host.Outcome.next (modDeskLine l _ v)) hfinish
      · rename_i hgt
        refine exec_lineResetEnd_early hs fun e he => ?_
        obtain rfl : d = e := Option.some.inj (hd.symm.trans he)
        exact not_le.1 hgt
  case restart =>
    intro r
    have hfinish : finishRestart (s.advance t) = r := finishRestart_late (s := s.advance t) hr hk
    refine ⟨?_, ?_, repeat_tick_desk (s := u) hr (by omega) hk⟩
    · rw [exec_lineResetEnd_reached hs hd hle (by rw [hfinish]; exact repeat_tick_inbox _ _ hs.2), hfinish]
    · show (Nat.repeat tick (9 - k.1) u).runState = .running
      rw [← work_eq_repeat]
      exact work_restart _ c k u hr (by omega)
  case dwell =>
    have hready : dwellReady u = rewriteMirror .cursor (modCursor (fun c => { c with dwell := .ready h }) u) :=
      dwellReady_of_reached (s := u) hdwell hle
    rw [exec_dwellDeadlineExpiry, act_live hs, hready]
    exact congrArg _ (settle_of_empty (rewriteMirror .cursor (modCursor _ u)) hs.2)
  case early =>
    rw [exec_dwellDeadlineExpiry, act_live hs, dwellReady_of_early (s := s.advance t) hearly]
    exact congrArg _ (settle_advance hs)

end Sys2Proof.Machine
end

section
/-! PROOFS. The composer's presentation and the application of a staged plan (R90, R93, R95 to R97). -/

namespace Sys2Proof.Machine

open Sys2Proof

/-! ## Cells completed one after another -/

/-- A cell that is in the in-work set reads DONE after its completion. -/
theorem complete_cellDone {c : CellId} {s : State} (he : s.xm.entry c ≠ none) (r : Result) (data : List Byte) :
    (complete c r data s).cellDone c r data := by
  obtain ⟨e, he⟩ := Option.ne_none_iff_exists'.1 he
  refine ⟨?_, ?_, fun i hi => ?_⟩
  · rw [complete_read_header he (by omega)]
    rfl
  · rw [complete_read_header he (by omega)]
    rfl
  · rw [show 64 * c.1 + 12 + i = 64 * c.1 + 8 + (4 + i) by omega, complete_read_result he (by omega),
      List.getD_append_right _ _ _ _ (by rw [le32_length]; omega), le32_length, Nat.add_sub_cancel_left, padTo_getD 52 data i hi]

/-- Work of the focus controller leaves a cell that has completed as it reads. -/
theorem Kept.cellDone {s t : State} {c : CellId} {r : Result} {data : List Byte} (h : Kept s t) (he : s.xm.entry c = none)
    (hd : s.cellDone c r data) : t.cellDone c r data := by
  obtain ⟨hstate, hresult, hdata⟩ := hd
  refine ⟨?_, ?_, fun i hi => ?_⟩
  · rw [h.cells c he _ (by omega) (by omega), hstate]
  · rw [h.cells c he _ (by omega) (by omega), hresult]
  · rw [h.cells c he _ (by omega) (by omega), hdata i hi]

theorem Kept.entry_none {s t : State} {c : CellId} (h : Kept s t) (he : s.xm.entry c = none) : t.xm.entry c = none :=
  entry_none_of_sublist _ _ h.inWork c he

/-- Every completed cell reads DONE with the data of its owner, which a completion does not change. -/
theorem completeAll_cellDone {cells : List CellId} {r : Result} {data : State → List Byte} {s : State}
    (hdata : ∀ d bs v, data (complete d r bs v) = data v) {c : CellId} (hc : c ∈ cells) (he : s.xm.entry c ≠ none) :
    (completeAll cells r data s).cellDone c r (data s) := by
  induction cells generalizing s with
  | nil => exact absurd hc List.not_mem_nil
  | cons d cs ih =>
    have hstep : completeAll (d :: cs) r data s = completeAll cs r data (complete d r (data s) s) := rfl
    rw [hstep]
    by_cases hcd : c = d
    · subst hcd
      exact (kept_completeAll _ _ _ _).cellDone (by rw [complete_entry, if_pos rfl]) (complete_cellDone he r (data s))
    · have hrest := ih (s := complete d r (data s) s) ((List.mem_cons.1 hc).resolve_left hcd)
        (by rw [complete_entry, if_neg hcd]; exact he)
      rwa [hdata d (data s) s] at hrest

theorem complete_cur (c : CellId) (r : Result) (data : List Byte) (s : State) : (complete c r data s).cur = s.cur := by
  unfold complete
  split <;> rfl

theorem completeAll_cur (cells : List CellId) (r : Result) (data : State → List Byte) (s : State) :
    (completeAll cells r data s).cur = s.cur := by
  induction cells generalizing s with
  | nil => rfl
  | cons c cs ih => exact (ih _).trans (complete_cur ..)

theorem completeAll_focus (cells : List CellId) (r : Result) (data : State → List Byte) (s : State) :
    (completeAll cells r data s).focus = s.focus := by
  induction cells generalizing s with
  | nil => rfl
  | cons c cs ih => exact (ih _).trans (complete_focus ..)

@[simp] theorem noticeOf_comp (p : Share) (s : State) : (noticeOf p s).comp = s.comp := rfl
@[simp] theorem noticeOf_cur (p : Share) (s : State) : (noticeOf p s).cur = s.cur := rfl
@[simp] theorem presentScreen_focus (sc : ScreenId) (s : State) : (presentScreen sc s).focus = s.focus := by dsimp only [presentScreen]
@[simp] theorem presentScreen_cur (sc : ScreenId) (s : State) : (presentScreen sc s).cur = s.cur := by dsimp only [presentScreen]

theorem planToPanel_comp (sc : ScreenId) (s : State) : (planToPanel sc s).comp = s.comp := by
  dsimp only [planToPanel, panelReport]
  split <;> rfl

theorem planToPanel_cur (sc : ScreenId) (s : State) : (planToPanel sc s).cur = s.cur := by
  dsimp only [planToPanel, panelReport]
  split <;> rfl

/-! ## The application of a staged plan (R95 to R97) -/

theorem applied_eq (r : ScreenRec) (g : Staged) :
    r.applied g = { r with
      loans := g.loansAfter, ret := if g.loansAfter = [] then none else some (r.ret.getD r.active), active := g.plan,
      home := if g.home then g.plan else r.home, staged := none } := by
  unfold ScreenRec.applied
  cases hret : r.ret <;> simp

section
variable (sc : ScreenId) (inLoad : Bool) (g : Staged) (s : State)

/-- The plan made active and presented. -/
def planPresented : State := presentScreen sc (modScreen sc (fun r => r.applied g) s)

/-- The cells of the staged plan completed. -/
def planCompleted : State := completeAll g.cells .ok (planData sc) (planPresented sc g s)

/-- The SCREEN notice raised, and the panel scanner and the focus controller told. -/
def planTold : State :=
  post (if inLoad then .planInLoad sc else .plan sc) (planToPanel sc (noticeOf (.plans sc) (planCompleted sc g s)))

theorem planCompleted_comp : (planCompleted sc g s).comp = (planPresented sc g s).comp := completeAll_comp ..

theorem planTold_comp : (planTold sc inLoad g s).comp = (planPresented sc g s).comp :=
  (planToPanel_comp sc _).trans (planCompleted_comp sc g s)

theorem planTold_cur : (planTold sc inLoad g s).cur = s.cur :=
  (planToPanel_cur sc _).trans (completeAll_cur ..)

theorem planPresented_screens : (planPresented sc g s).comp.screens = upd s.comp.screens sc (fun r => r.applied g) :=
  Composer.present_screens _ sc

theorem planCompleted_entry {c : CellId} (h : c ∈ g.cells) : (planCompleted sc g s).xm.entry c = none := by
  rw [planCompleted, completeAll_entry, if_pos h]

variable {sc g s}

theorem applyStaged_none (h : s.comp.screens[sc.1].staged = none) : applyStaged sc inLoad s = presentScreen sc s := by
  unfold applyStaged
  rw [h]

theorem applyStaged_some (h : s.comp.screens[sc.1].staged = some g) :
    applyStaged sc inLoad s = planReportToCursor sc (planTold sc inLoad g s) := by
  unfold applyStaged
  rw [h]
  rfl

theorem planReportToCursor_comp (s : State) : (planReportToCursor sc s).comp = s.comp := by
  unfold planReportToCursor cursorMirrorSince relocate
  split
  · split <;> split <;> rfl
  · rfl

theorem kept_planReportToCursor (s : State) : Kept s (planReportToCursor sc s) := (below_planReportToCursor sc s).kept

theorem applyStaged_comp (h : s.comp.screens[sc.1].staged = some g) : (applyStaged sc inLoad s).comp = (planPresented sc g s).comp := by
  rw [applyStaged_some inLoad h, planReportToCursor_comp, planTold_comp]

theorem applyStaged_screen (h : s.comp.screens[sc.1].staged = some g) :
    (applyStaged sc inLoad s).comp.screens[sc.1] = s.comp.screens[sc.1].applied g := by
  have hscreens : (applyStaged sc inLoad s).comp.screens = upd s.comp.screens sc (fun r => r.applied g) := by
    rw [applyStaged_comp inLoad h, planPresented_screens]
  simp only [hscreens, upd_self]

theorem kept_planCompleted_applyStaged (h : s.comp.screens[sc.1].staged = some g) :
    Kept (planCompleted sc g s) (applyStaged sc inLoad s) := by
  rw [applyStaged_some inLoad h]
  exact (((kept_noticeOf _ _).trans (below_planToPanel sc _).kept).trans (kept_post _ _)).trans (kept_planReportToCursor _)

/-- Each cell of the plan has completed. -/
theorem applyStaged_settle_entry (h : s.comp.screens[sc.1].staged = some g) {c : CellId} (hc : c ∈ g.cells) :
    (settle (applyStaged sc inLoad s)).xm.entry c = none :=
  ((kept_planCompleted_applyStaged inLoad h).trans (kept_settle _)).entry_none (planCompleted_entry sc g s hc)

theorem planData_eq {r : ScreenRec} {s : State} (h : s.comp.screens[sc.1] = r) :
    planData sc s = [byte sc.1] ++ r.active.bytes ++ [boolByte (!r.loans.isEmpty)] := by
  subst h
  rfl

theorem planCompleted_cellDone {c : CellId} (hc : c ∈ g.cells) (he : s.xm.entry c ≠ none) :
    (planCompleted sc g s).cellDone c .ok ([byte sc.1] ++ g.plan.bytes ++ [boolByte (!g.loansAfter.isEmpty)]) := by
  have hscreen : (planPresented sc g s).comp.screens[sc.1] = s.comp.screens[sc.1].applied g := by
    simp only [planPresented_screens, upd_self]
  have hdone := completeAll_cellDone (data := planData sc) (r := .ok)
    (fun d bs v => planData_eq (by rw [complete_comp])) hc (s := planPresented sc g s) he
  rwa [planData_eq hscreen] at hdone

theorem applyStaged_settle_cellDone (h : s.comp.screens[sc.1].staged = some g) {c : CellId} (hc : c ∈ g.cells)
    (he : s.xm.entry c ≠ none) :
    (settle (applyStaged sc inLoad s)).cellDone c .ok ([byte sc.1] ++ g.plan.bytes ++ [boolByte (!g.loansAfter.isEmpty)]) :=
  ((kept_planCompleted_applyStaged inLoad h).trans (kept_settle _)).cellDone (planCompleted_entry sc g s hc)
    (planCompleted_cellDone hc he)

end

theorem relocate_of_located {s : State} {sc : ScreenId} {i : Fin 4} (h : s.underCursor = some (sc, i)) :
    relocate s = modCursor (fun c => { c with screen := some sc, tile := i }) s := by
  simp only [relocate, h]

theorem relocate_of_unlocated {s : State} (h : s.underCursor = none) : relocate s = s := by
  simp only [relocate, h]

/-- The cursor engine's handling of a report of a plan (R40, R47). -/
theorem planReportToCursor_eq (sc : ScreenId) (s : State) :
    planReportToCursor sc s =
      if s.cur.cursor.screen = some sc then
        match s.underCursor with
        | some (j, i) =>
          let located := modCursor (fun c => { c with screen := some j, tile := i }) s
          if cursorFields s.cur.cursor = cursorFields located.cur.cursor then located else rewriteMirror .cursor located
        | none => s
      else s := by
  unfold planReportToCursor
  split
  · cases h : s.underCursor with
    | none =>
      rw [relocate_of_unlocated h]
      exact if_pos rfl
    | some p =>
      obtain ⟨j, i⟩ := p
      rw [relocate_of_located h]
      rfl
  · rfl

/-! ## A frame boundary (R90) -/

theorem boundary_reached_iff (r : ScreenRec) (s : State) :
    reached r.boundaryDue s = true ↔
      ∃ b, r.state = .running ∧ r.timingStart = some b ∧ b + r.boundary * 1000000 / r.refresh ≤ s.now := by
  unfold ScreenRec.boundaryDue
  by_cases hr : r.state = .running
  · rw [if_pos hr]
    cases r.timingStart with
    | none => simp [reached]
    | some b => simp [reached, hr]
  · rw [if_neg hr]
    simp [reached, hr]

theorem exec_frameBoundary (t : Nat) (sc : ScreenId) (s : State) :
    exec (.frameBoundary t sc) s = act t (fun s => if reached s.comp.screens[sc.1].boundaryDue s then frameBoundary sc s else s) s := rfl

/-! ## The presentation (R93) -/

theorem mem_changedFields (c : Composer) (sc : ScreenId) (a : Fin 30) :
    (c.changedFields sc).contains a = true ↔ a.1 / 5 = sc.1 ∧ c.xpoint[a.1] ≠ c.presented a := by
  simp [Composer.changedFields, mem_ids]

theorem present_xpoint (c : Composer) (sc : ScreenId) (a : Fin 30) :
    (c.present sc).xpoint[a.1] = if a.1 / 5 = sc.1 then c.presented a else c.xpoint[a.1] := by
  rw [Composer.present, Composer.writeFields, mapVec_get]
  by_cases hsc : a.1 / 5 = sc.1
  · rw [if_pos hsc]
    split
    · rfl
    · rename_i hno
      rw [mem_changedFields, not_and, not_not] at hno
      exact hno hsc
  · rw [if_neg hsc, if_neg fun h => hsc ((mem_changedFields c sc a).1 h).1]

theorem presented_eq (c : Composer) (sc : ScreenId) {i : Nat} (h : i < 5) :
    c.presented ⟨5 * sc.1 + i, by omega⟩ = (c.presentedFields sc).getD i 0xFF := by
  have hdiv : (5 * sc.1 + i) / 5 = sc.1 := by omega
  have hmod : (5 * sc.1 + i) % 5 = i := by omega
  simp only [Composer.presented, hdiv, hmod]

/-- A source as it is presented: its code while it is LIVE or EXCLUDED. -/
theorem presentedSource_some (view : Vector TargetView 8) (h : HeadId) :
    presentedSource view (some h) =
      (let v := view[(headTarget h).1]
       let presence := if h.1 % 2 = 1 then v.headB else v.headA
       if presence = .present ∧ v.power = .on ∧ v.link = .up then byte h.1 else 0xFF) := by
  have hcond : sourceCond view (some h) =
      (let v := view[(headTarget h).1]
       let presence := if h.1 % 2 = 1 then v.headB else v.headA
       if presence ≠ .present ∨ v.power ≠ .on ∨ v.link ≠ .up then .inert else if v.excluded then .excluded else .live) := by
    simp only [sourceCond, isHeadB, decide_eq_true_eq]
  unfold presentedSource
  rw [hcond]
  dsimp only
  generalize (if h.1 % 2 = 1 then _ else _ : Presence) = presence
  by_cases hall : presence = .present ∧ view[(headTarget h).1].power = .on ∧ view[(headTarget h).1].link = .up
  · have hnot : ¬(presence ≠ .present ∨ view[(headTarget h).1].power ≠ .on ∨ view[(headTarget h).1].link ≠ .up) := by tauto
    rw [if_pos hall, if_neg hnot]
    cases view[(headTarget h).1].excluded <;> rfl
  · have hnot : presence ≠ .present ∨ view[(headTarget h).1].power ≠ .on ∨ view[(headTarget h).1].link ≠ .up := by tauto
    rw [if_neg hall, if_pos hnot]

/-- Settles O36. -/
theorem frameBoundaryAppliesStagedPlan : Obligations.FrameBoundaryAppliesStagedPlan := by
  unfold Obligations.FrameBoundaryAppliesStagedPlan
  intro appliedOf
  have happlied (r : ScreenRec) (g : Staged) : r.applied g = appliedOf r g := applied_eq r g
  refine ⟨?boundary, ?apply, ?present, ?fields⟩
  case boundary =>
    intro t sc s hs r u w due
    rw [exec_frameBoundary, act_live hs]
    have hscreen : w.comp.screens[sc.1] = { r with boundary := r.boundary + 1 } := upd_self ..
    have hdue : reached u.comp.screens[sc.1].boundaryDue u = true ↔ due := boundary_reached_iff r u
    refine ⟨fun hno => ?early, fun hyes => ⟨fun hnone => ?bare, fun g hg => ⟨?applies, ?frame, fun c hc => ?cells⟩⟩⟩
    case early =>
      rw [if_neg fun h => hno (hdue.1 h)]
      exact congrArg _ (settle_advance hs)
    case bare =>
      have hw : w.comp.screens[sc.1].staged = none := (congrArg ScreenRec.staged hscreen).trans hnone
      have happly : frameBoundary sc u = presentScreen sc w := applyStaged_none false hw
      rw [if_pos (hdue.2 hyes), happly]
      exact congrArg _ (settle_of_empty _ hs.2)
    case applies =>
      rw [if_pos (hdue.2 hyes)]
      rfl
    case frame =>
      have hw : modScreen sc ScreenRec.afterApply w = modScreen sc (fun _ => { appliedOf r g with boundary := r.boundary + 1 }) u := by
        have hrec : ScreenRec.afterApply { r with boundary := r.boundary + 1 } = { appliedOf r g with boundary := r.boundary + 1 } := by
          unfold ScreenRec.afterApply
          rw [hg]
          exact happlied { r with boundary := r.boundary + 1 } g
        rw [← hrec]
        simp only [w, modScreen, upd, Vector.set_set, Vector.getElem_set_self]
        rfl
      rw [← hw]
      exact (below_applyStaged sc false w).kept.trans (kept_settle _)
    case cells =>
      have hw : w.comp.screens[sc.1].staged = some g := (congrArg ScreenRec.staged hscreen).trans hg
      exact applyStaged_settle_entry false hw hc
  case apply =>
    intro sc inLoad g s hg presented completed told
    have hpresented : planPresented sc g s = presented := by
      unfold planPresented
      simp only [happlied]
      rfl
    have hcompleted : planCompleted sc g s = completed := by
      unfold planCompleted
      rw [hpresented]
    have htold : planTold sc inLoad g s = told := by
      unfold planTold
      rw [hcompleted]
    have hcur : told.cur = s.cur := htold ▸ planTold_cur sc inLoad g s
    refine ⟨?_, hpresented ▸ applyStaged_comp inLoad hg, ?_, fun c hc he => hcompleted ▸ planCompleted_cellDone hc he⟩
    · rw [applyStaged_some inLoad hg, htold, planReportToCursor_eq, hcur] <;> rfl
    · rw [← hpresented, planPresented_screens]
      simp only [happlied]
  case present =>
    intro sc s changed
    exact ⟨rfl, fun a => present_xpoint s.comp sc a⟩
  case fields =>
    intro c sc r field
    have hfield (i : Nat) (h : i < 5) : field i h = (c.presentedFields sc).getD i 0xFF := presented_eq c sc h
    refine ⟨fun hr => ?unfitted, fun hr => ?fitted⟩
    case unfitted =>
      have hfields : c.presentedFields sc = [Layout.full.code, 0xFF, 0xFF, 0xFF, 0xFF] := by
        unfold Composer.presentedFields
        dsimp only
        rw [show c.screens[sc.1].state = .unfitted from hr]
      refine ⟨(hfield 0 (by omega)).trans (by rw [hfields]; rfl), fun i hi => (hfield (i + 1) (by omega)).trans ?_⟩
      rw [hfields]
      interval_cases i <;> rfl
    case fitted =>
      have hfields : c.presentedFields sc = [r.active.layout.code, presentedSource c.view r.active.src[0],
          presentedSource c.view r.active.src[1], presentedSource c.view r.active.src[2], presentedSource c.view r.active.src[3]] := by
        dsimp only [Composer.presentedFields]
        split
        · rename_i h
          exact absurd h hr
        · rfl
      have hsource (i : Fin 4) : field (i.1 + 1) (by omega) = presentedSource c.view r.active.src[i.1] := by
        refine (hfield (i.1 + 1) (by omega)).trans ?_
        rw [hfields]
        fin_cases i <;> rfl
      refine ⟨(hfield 0 (by omega)).trans (by rw [hfields]; rfl), fun i => ⟨fun hnone => ?_, fun h hsome => ?_⟩⟩
      · rw [hsource, hnone]
        rfl
      · rw [hsource, hsome]
        exact presentedSource_some c.view h

end Sys2Proof.Machine
end

section
/-! PROOFS. The commands PLAN_SET (R98, R99), SHARE (R100, R101) and RESTORE (R102), and the requests of hotkeys and panel keys for the last two (R82). -/

namespace Sys2Proof.Machine

open Sys2Proof

/-! ## Staging (R94) -/

/-- The cells that wait for a screen's staged plan. -/
def ScreenRec.waitingCells (r : ScreenRec) : List CellId :=
  match r.staged with
  | some g => g.cells
  | none => []

/-- A plan staged and the cells of the one it replaces completed. -/
def planStaged (sc : ScreenId) (g : Staged) (s : State) : State :=
  completeAll s.comp.screens[sc.1].waitingCells .superseded (planData sc) (modScreen sc (fun r => { r with staged := some g }) s)

section
variable {sc : ScreenId} {g : Staged} {s : State}

theorem stage_of_unfitted (h : s.comp.screens[sc.1].state = .unfitted) : stage sc g s = s := by
  dsimp only [stage]
  rw [h]

theorem stage_of_running (h : s.comp.screens[sc.1].state = .running) : stage sc g s = noticeOf (.plans sc) (planStaged sc g s) := by
  dsimp only [stage]
  rw [h]
  exact if_neg nofun

theorem stage_of_disabled (h : s.comp.screens[sc.1].state = .disabled) : stage sc g s = applyStaged sc false (planStaged sc g s) := by
  dsimp only [stage]
  rw [h]
  exact if_pos rfl

theorem planStaged_focus : (planStaged sc g s).focus = s.focus := completeAll_focus ..

theorem planStaged_screen : (planStaged sc g s).comp.screens[sc.1] = { s.comp.screens[sc.1] with staged := some g } := by
  have hcomp : (planStaged sc g s).comp = (modScreen sc (fun r => { r with staged := some g }) s).comp := completeAll_comp ..
  simp only [hcomp, modScreen_comp, upd_self]

theorem planStaged_staged : (planStaged sc g s).comp.screens[sc.1].staged = some g := by
  rw [planStaged_screen]

theorem kept_applied (h : s.comp.screens[sc.1].state = .disabled) : Kept s (settle (applyStaged sc false (planStaged sc g s))) := by
  rw [← stage_of_disabled h]
  exact (kept_stage sc g s).trans (kept_settle _)

/-- A plan staged with no loan on a DISABLED screen is the screen's active plan at once. -/
theorem applied_screen (hg : g.loansAfter = []) :
    (applyStaged sc false (planStaged sc g s)).comp.screens[sc.1] =
      { s.comp.screens[sc.1] with
        loans := [], ret := none, active := g.plan, home := if g.home then g.plan else s.comp.screens[sc.1].home, staged := none } := by
  rw [applyStaged_screen false planStaged_staged, applied_eq, planStaged_screen, hg]
  rfl

theorem applied_entry {c : CellId} (hc : c ∈ g.cells) : (settle (applyStaged sc false (planStaged sc g s))).xm.entry c = none :=
  applyStaged_settle_entry false planStaged_staged hc

/-- Its cell completes OK. -/
theorem applied_cellDone (hg : g.loansAfter = []) (hstaged : s.comp.screens[sc.1].staged = none) {c : CellId} (hc : c ∈ g.cells)
    (he : s.xm.entry c ≠ none) :
    (settle (applyStaged sc false (planStaged sc g s))).cellDone c .ok ([byte sc.1] ++ g.plan.bytes ++ [0]) := by
  have hentry : (planStaged sc g s).xm.entry c ≠ none := by
    rw [planStaged, completeAll_entry, ScreenRec.waitingCells, hstaged]
    exact he
  have hdone := applyStaged_settle_cellDone false planStaged_staged hc hentry
  rw [hg] at hdone
  exact hdone

end

theorem take_entry (c : CellId) (s : State) : (take c s).xm.entry c ≠ none := by
  have hentry : (take c s).xm.inWork =
      s.xm.inWork ++ [{ cell := c, tag := s.xm.mem.word (cellBase c), kind := s.cellKind c }] := rfl
  rw [Exchange.entry, hentry]
  simp

/-! ## Sources of a plan (R98) -/

theorem sourceOf_isNone_iff (b : Byte) : (sourceOf b).isNone = true ↔ 16 ≤ b.toNat ∧ b ≠ 0xFF := by
  unfold sourceOf
  by_cases hb : b = 0xFF
  · simp [hb]
  · rw [if_neg hb]
    by_cases h : b.toNat < 16
    · simp [asFin, h, not_le.2 h]
    · have hb : b ≠ 255#8 := hb
      simp [asFin, h, not_lt.1 h, hb]

theorem sourceUnfitted_iff (s : State) (b : Byte) :
    sourceUnfitted s b = true ↔ ∃ h : HeadId, b.toNat = h.1 ∧ s.watched h = false := by
  unfold sourceUnfitted sourceOf
  by_cases hb : b = 0xFF
  · subst hb
    simp only [if_true]
    refine ⟨nofun, fun ⟨h, hh, _⟩ => ?_⟩
    have h255 : (0xFF : Byte).toNat = 255 := rfl
    have := h.2
    omega
  · rw [if_neg hb]
    by_cases h : b.toNat < 16
    · have hsome : asFin 16 b.toNat = some ⟨b.toNat, h⟩ := dif_pos h
      rw [hsome]
      simp only [Option.map_some, Bool.not_eq_true']
      refine ⟨fun hw => ⟨_, rfl, hw⟩, fun ⟨k, hk, hw⟩ => ?_⟩
      obtain rfl : (⟨b.toNat, h⟩ : HeadId) = k := Fin.ext hk
      exact hw
    · rw [asFin_of_le (not_lt.1 h)]
      refine ⟨nofun, fun ⟨k, hk, _⟩ => ?_⟩
      have := k.2
      omega

theorem sourceOf_getD (b : Byte) : (sourceOf b).getD none = asFin 16 b.toNat := by
  unfold sourceOf
  by_cases hb : b = 0xFF
  · rw [if_pos hb, hb]
    rfl
  · rw [if_neg hb]
    cases asFin 16 b.toNat <;> rfl

theorem firstTile_eq_some {n : Nat} {bad : Fin 4 → Bool} {i : Fin 4} (hn : i.1 < n) (hi : bad i = true)
    (hlt : ∀ j < i, ¬(j.1 < n ∧ bad j = true)) : firstTile n bad = some i :=
  find_ids_eq_some (by simp [hn, hi]) fun j hj h => hlt j hj (by simpa using h)

theorem firstTile_eq_none {n : Nat} {bad : Fin 4 → Bool} (h : ∀ i : Fin 4, ¬(i.1 < n ∧ bad i = true)) : firstTile n bad = none :=
  find_ids_eq_none fun i hi => h i (by simpa using hi)

/-! ## PLAN_SET (R98, R99) -/

section
variable {s : State} {p : List Byte}

theorem planCheck_of_bad_header (h : 6 ≤ (at8 p 0).toNat ∨ 5 ≤ (at8 p 1).toNat ∨ 2 ≤ (at8 p 2).toNat) :
    planCheck s p = .refuse .badParam none := by
  unfold planCheck
  rcases h with h | h | h
  · rw [asFin_of_le h]
  · rw [Layout.ofByte_of_le h]
    cases asFin 6 (at8 p 0).toNat <;> rfl
  · rw [boolOf_of_le h]
    cases asFin 6 (at8 p 0).toNat <;> cases Layout.ofByte (at8 p 1) <;> rfl

theorem planCheck_of_header {sc : ScreenId} {l : Layout} (hsc : (at8 p 0).toNat = sc.1) (hl : at8 p 1 = l.code)
    (hhome : (at8 p 2).toNat < 2) :
    planCheck s p =
      match firstTile l.tiles fun i => (sourceOf (tileByte p i)).isNone with
      | some i => .refuse .badParam (some i)
      | none =>
        if s.fittedScreen sc = false then .refuse .notFitted none
        else
          match firstTile l.tiles fun i => sourceUnfitted s (tileByte p i) with
          | some i => .refuse .notFitted (some i)
          | none => .stage sc (planOf l p) (decide ((at8 p 2).toNat = 1)) := by
  unfold planCheck
  rw [asFin_of_eq hsc, hl, Layout.ofByte_code, boolOf_of_lt hhome] <;> rfl

end

theorem watched_congr {s v : State} (hstraps : v.straps = s.straps) (hsetups : v.setups = s.setups) (h : HeadId) :
    v.watched h = s.watched h := by
  simp only [State.watched, State.fittedTarget, State.headFitted, hstraps, hsetups]

theorem watched_take_advance (t : Nat) (c : CellId) (s : State) (h : HeadId) : (take c (s.advance t)).watched h = s.watched h :=
  watched_congr rfl rfl h

/-- Settles O37. -/
theorem planSetStagesPlan : Obligations.PlanSetStagesPlan := by
  unfold Obligations.PlanSetStagesPlan
  intro t c s hready u p src tiles badHeader badSource unfitted
  have hp (i : Nat) (hi : i < 52) : at8 (s.cellParams c) i = p i := cellParams_at8 s c i hi
  have hsrc (i : Fin 4) : tileByte (s.cellParams c) i = src i := hp (3 + i.1) (by omega)
  have hexec : exec (.planSet t c) s = .next (settle (ownPlanSet c (s.cellParams c) u)) := takeCell_ready hready
  have hrefused {r : Result} {i : Option (Fin 4)} (h : planCheck u (s.cellParams c) = .refuse r i) :
      exec (.planSet t c) s = .next (complete c r [p 0, optByte i] u) := by
    have hown : ownPlanSet c (s.cellParams c) u = complete c r [p 0, optByte i] u := by
      unfold ownPlanSet
      rw [h, ← hp 0 (by omega)]
    rw [hexec, hown, settle_of_empty _ (by rw [complete_focus]; exact hready.1.2)]
  have hrefusedAll {r : Result} (h : planCheck u (s.cellParams c) = .refuse r none) :
      exec (.planSet t c) s = .next (complete c r [p 0, 0xFF] u) := hrefused (i := none) h
  have hrefusedAt {r : Result} {i : Fin 4} (h : planCheck u (s.cellParams c) = .refuse r (some i)) :
      exec (.planSet t c) s = .next (complete c r [p 0, byte i.1] u) := hrefused (i := some i) h
  refine ⟨fun hbad => hrefusedAll (planCheck_of_bad_header (by rwa [hp 0 (by omega), hp 1 (by omega), hp 2 (by omega)])),
    fun hheader => ?_⟩
  have hheader : (p 0).toNat < 6 ∧ (p 1).toNat < 5 ∧ (p 2).toNat < 2 := by
    simp only [badHeader] at hheader
    omega
  obtain ⟨hsc, hly, hhome⟩ := hheader
  obtain ⟨l, hl⟩ := Layout.exists_code hly
  have htiles : tiles = l.tiles := by
    show (match (p 1).toNat with
      | 0 => 1
      | 3 => 4
      | 4 => 3
      | _ => 2) = l.tiles
    rw [hl]
    cases l <;> rfl
  have hcheck {sc : ScreenId} (hsc : (p 0).toNat = sc.1) :=
    planCheck_of_header (s := u) (p := s.cellParams c) (sc := sc) (l := l) (by rwa [hp 0 (by omega)]) (by rwa [hp 1 (by omega)])
      (by rwa [hp 2 (by omega)])
  have hbadSource (i : Fin 4) : i.1 < l.tiles ∧ (sourceOf (tileByte (s.cellParams c) i)).isNone = true ↔ badSource i := by
    rw [sourceOf_isNone_iff, hsrc, ← htiles]
  have hunfitted (i : Fin 4) : i.1 < l.tiles ∧ sourceUnfitted u (tileByte (s.cellParams c) i) = true ↔ unfitted i := by
    simp only [sourceUnfitted_iff, hsrc, ← htiles, u, watched_take_advance]
    rfl
  refine ⟨fun i hi hlt => ?badSource, fun hsources sc hsc => ?_⟩
  case badSource =>
    obtain ⟨hn, hbad⟩ := (hbadSource i).2 hi
    have h := hcheck (sc := ⟨(p 0).toNat, hsc⟩) rfl
    rw [firstTile_eq_some hn hbad fun j hj hb => hlt j hj ((hbadSource j).1 hb)] at h
    exact hrefusedAt h
  have h := hcheck hsc
  rw [firstTile_eq_none fun i hb => hsources i ((hbadSource i).1 hb)] at h
  refine ⟨fun hunfit => ?screen, fun hfit => ?_⟩
  case screen =>
    have hfitted : u.fittedScreen sc = false := Bool.eq_false_iff.2 fun hf => absurd ((fittedScreen_iff u sc).1 hf) (not_lt.2 hunfit)
    exact hrefusedAll (h.trans (if_pos hfitted))
  have hfitted : ¬u.fittedScreen sc = false := by
    rw [(fittedScreen_iff u sc).2 hfit]
    nofun
  have h := h.trans (if_neg hfitted)
  refine ⟨fun i hi hlt => ?tile, fun hheads l' hl' => ?staged⟩
  case tile =>
    obtain ⟨hn, hbad⟩ := (hunfitted i).2 hi
    rw [firstTile_eq_some hn hbad fun j hj hb => hlt j hj ((hunfitted j).1 hb)] at h
    exact hrefusedAt h
  case staged =>
    intro plan g r old
    rw [firstTile_eq_none fun i hb => hheads i ((hunfitted i).1 hb)] at h
    obtain rfl : l' = l := by
      have hcode : Layout.ofByte l'.code = Layout.ofByte l.code := by rw [hl', hl]
      rw [Layout.ofByte_code, Layout.ofByte_code] at hcode
      exact Option.some.inj hcode
    have hplan : planOf l' (s.cellParams c) = plan := by
      show ({ layout := l', src := Vector.ofFn fun i =>
        if i.1 < l'.tiles then (sourceOf (tileByte (s.cellParams c) i)).getD none else none } : Plan) =
        { layout := l', src := Vector.ofFn fun i => if i.1 < tiles then asFin 16 (src i).toNat else none }
      simp only [sourceOf_getD, hsrc, htiles]
    have hhome' : decide ((at8 (s.cellParams c) 2).toNat = 1) = decide (p 2 = 1) := by
      rw [hp 2 (by omega), decide_eq_decide]
      exact (toNat_eq_one_iff _).symm
    have hown : ownPlanSet c (s.cellParams c) u = stage sc g u := by
      unfold ownPlanSet
      rw [h, hplan, hhome']
    rw [hexec, hown]
    refine ⟨fun hrun => ?running, fun hdis => ?disabled⟩
    case running =>
      rw [stage_of_running (s := u) hrun, settle_of_empty _ (by rw [noticeOf_focus, planStaged_focus]; exact hready.1.2)]
      rfl
    case disabled =>
      intro w applied
      have hw : planStaged sc g u = w := rfl
      have hrec : applied.comp.screens[sc.1] =
          { r with loans := [], ret := none, active := plan, home := if g.home then plan else r.home, staged := none } :=
        applied_screen (s := u) (g := g) rfl
      have hhomeIf : (if g.home then plan else r.home) = if p 2 = 1 then plan else r.home := by
        show (if decide (p 2 = 1) = true then plan else r.home) = _
        simp only [decide_eq_true_eq]
      refine ⟨by rw [stage_of_disabled (s := u) hdis, hw], kept_applied (s := u) hdis, congrArg ScreenRec.active hrec,
        (congrArg ScreenRec.home hrec).trans hhomeIf, congrArg ScreenRec.loans hrec, congrArg ScreenRec.ret hrec,
        congrArg ScreenRec.staged hrec, applied_entry (s := u) (g := g) (List.mem_singleton.2 rfl), fun hnone => ?_⟩
      have hdone := applied_cellDone (s := u) (g := g) (sc := sc) rfl hnone (List.mem_singleton.2 rfl) (take_entry c (s.advance t))
      rw [byte_of_toNat hsc] at hdone
      exact hdone

end Sys2Proof.Machine
end

section
/-! PROOFS. The commands SHARE (R100, R101) and RESTORE (R102), and the requests of hotkeys and panel keys for them (R82). -/

namespace Sys2Proof.Machine

open Sys2Proof

/-- A RUNNING screen's staged plan waits, and there is nothing for the focus controller to take. -/
theorem settle_stage_of_running {sc : ScreenId} {g : Staged} {s : State} (h : s.comp.screens[sc.1].state = .running)
    (hempty : s.focus.inbox = []) : settle (stage sc g s) = noticeOf (.plans sc) (planStaged sc g s) := by
  rw [stage_of_running h, settle_of_empty _ (by rw [noticeOf_focus, planStaged_focus]; exact hempty)]

/-! ## SHARE (R100, R101) -/

/-- The loans after a SHARE: those carried on the other tiles that remain, and the new one when it lends. -/
theorem mem_shareLoans (r : ShareReq) (base : List Loan) (x : Loan) :
    x ∈ shareLoans r base ↔
      (x ∈ base ∧ x.tile ≠ r.tile ∧ x.tile.1 < r.layout.tiles) ∨
        (r.lend = true ∧ x = { tile := r.tile, kind := .share, lender := r.head }) := by
  have hside : x.tile ≠ r.tile ↔ x.tile.1 < r.tile.1 ∨ r.tile.1 < x.tile.1 := by
    rw [Ne, Fin.ext_iff]
    omega
  unfold shareLoans
  cases hl : r.lend
  · simp
  · simp only [if_true, List.mem_append, List.mem_filter, List.mem_singleton, Bool.and_eq_true, decide_eq_true_eq, true_and, hside]
    tauto

theorem isEmpty_iff_eq_nil {α : Type} (xs : List α) : xs.isEmpty = true ↔ xs = [] := List.isEmpty_iff

section
variable {s : State} {r : ShareReq}

theorem shareRefusal_of_unfitted (h : s.straps.screens ≤ r.screen.1 ∨ s.watched r.head = false) : shareRefusal s r = some .notFitted := by
  refine if_pos fun ⟨hsc, hk, hh⟩ => ?_
  rcases h with h | h
  · exact absurd ((fittedScreen_iff s r.screen).1 hsc) (not_lt.2 h)
  · rw [State.watched, hk, hh] at h
    exact absurd h nofun

theorem shareRefusal_of_fitted (hsc : r.screen.1 < s.straps.screens) (hh : s.watched r.head = true) :
    shareRefusal s r = if s.comp.screens[r.screen.1].state = .disabled then some .notReachable else none := by
  rw [State.watched, Bool.and_eq_true] at hh
  exact if_neg fun hn => hn ⟨(fittedScreen_iff s r.screen).2 hsc, hh.1, hh.2⟩

end

/-- What a SHARE stages. -/
def sharedPlan (r : ShareReq) (b : ScreenRec) (cells : List CellId) : Staged :=
  { plan := sharePlan r b.active, purpose := if shareLoans r b.loans = [] then .host else .loan, home := false,
    loansAfter := shareLoans r b.loans, cells := cells }

theorem stageShare_eq (r : ShareReq) (cells : List CellId) (s : State) :
    stageShare r cells s = stage r.screen (sharedPlan r s.comp.screens[r.screen.1] cells) s := by
  unfold stageShare sharedPlan
  simp only [isEmpty_iff_eq_nil]

/-- A SHARE that lends always carries a loan. -/
theorem sharedPlan_purpose_of_lend {r : ShareReq} (h : r.lend = true) (b : ScreenRec) (cells : List CellId) :
    (sharedPlan r b cells).purpose = .loan := by
  refine if_neg fun hnil => ?_
  have hmem := (mem_shareLoans r b.loans { tile := r.tile, kind := .share, lender := r.head }).2 (.inr ⟨h, rfl⟩)
  rw [hnil] at hmem
  exact List.not_mem_nil hmem

/-- Settles O38. -/
theorem shareStagesPlan : Obligations.ShareStagesPlan := by
  unfold Obligations.ShareStagesPlan
  refine ⟨?command, ?request⟩
  case command =>
    intro t c s hready u p refused
    have hexec : exec (.share t c) s = .next (settle (ownShare c (s.cellParams c) u)) := takeCell_ready hready
    have hfields : shareOf (at8 (s.cellParams c) 0) (at8 (s.cellParams c) 1) (at8 (s.cellParams c) 2) (at8 (s.cellParams c) 3)
        (at8 (s.cellParams c) 4) (at8 (s.cellParams c) 5) =
        shareOf (s.param c 0) (s.param c 1) (s.param c 2) (s.param c 3) (s.param c 4) (s.param c 5) := by
      rw [cellParams_at8 s c 0 (by omega), cellParams_at8 s c 1 (by omega), cellParams_at8 s c 2 (by omega),
        cellParams_at8 s c 3 (by omega), cellParams_at8 s c 4 (by omega), cellParams_at8 s c 5 (by omega)]
    have hdone (r : Result) : settle (complete c r [s.param c 0] u) = complete c r [s.param c 0] u :=
      settle_of_empty _ (by rw [complete_focus]; exact hready.1.2)
    have hbad (h : shareOf (s.param c 0) (s.param c 1) (s.param c 2) (s.param c 3) (s.param c 4) (s.param c 5) = none) :
        refused .badParam := by
      have hown : ownShare c (s.cellParams c) u = complete c .badParam [s.param c 0] u := by
        unfold ownShare
        rw [hfields, h, ← cellParams_at8 s c 0 (by omega)]
      exact hexec.trans (by rw [hown, hdone])
    refine ⟨fun h => hbad (shareOf_eq_none (by omega)), fun sc l k hsc hl hk hhd hle =>
      ⟨fun h => hbad (shareOf_eq_none_of_tile hl h), fun tile h htile hlt hh => ?_⟩⟩
    have hreq := shareOf_eq_some hsc hl hk hhd hle htile hlt hh
    intro r
    have hown : ownShare c (s.cellParams c) u =
        match shareRefusal u { screen := sc, layout := l, tile := tile, head := h, lend := decide ((s.param c 5).toNat = 1) } with
        | some e => complete c e [s.param c 0] u
        | none => stageShare { screen := sc, layout := l, tile := tile, head := h, lend := decide ((s.param c 5).toNat = 1) } [c] u := by
      unfold ownShare
      rw [hfields, hreq, ← cellParams_at8 s c 0 (by omega)] <;> rfl
    have hwatched : u.watched h = s.watched h := watched_take_advance t c s h
    refine ⟨fun hunfit => ?unfitted, fun hfit hwatch => ⟨fun hdis => ?disabled, fun hrun => ?running⟩⟩
    case unfitted =>
      have href := shareRefusal_of_unfitted (s := u) (r := ⟨sc, l, tile, h, decide ((s.param c 5).toNat = 1)⟩) (by rwa [hwatched])
      rw [href] at hown
      exact hexec.trans (by rw [hown, hdone])
    case disabled =>
      have href := shareRefusal_of_fitted (s := u) (r := ⟨sc, l, tile, h, decide ((s.param c 5).toNat = 1)⟩) hfit (by rwa [hwatched])
      rw [href, if_pos (show u.comp.screens[sc.1].state = .disabled from hdis)] at hown
      exact hexec.trans (by rw [hown, hdone])
    case running =>
      intro plan old
      have href := shareRefusal_of_fitted (s := u) (r := ⟨sc, l, tile, h, decide ((s.param c 5).toNat = 1)⟩) hfit (by rwa [hwatched])
      have hnot : u.comp.screens[sc.1].state ≠ .disabled := by
        rw [show u.comp.screens[sc.1].state = .running from hrun]
        nofun
      rw [href, if_neg hnot] at hown
      refine ⟨_, fun x => (mem_shareLoans ⟨sc, l, tile, h, decide ((s.param c 5).toNat = 1)⟩ r.loans x).trans ?_, ?_⟩
      · rw [decide_eq_true_eq]
      · rw [hexec, hown, stageShare_eq, settle_stage_of_running (s := u) hrun hready.1.2]
        rfl
  case request =>
    intro o s
    refine ⟨fun h => ?_, fun sc l k hsc hl hk hhd => ⟨fun h => ?_, fun tile h htile hlt hh => ?_⟩⟩
    · have hnone : o.shareReq = none := shareOf_eq_none (by omega)
      simp only [shareRequest, hnone]
    · have hnone : o.shareReq = none := shareOf_eq_none_of_tile hl h
      simp only [shareRequest, hnone]
    · intro r
      have hreq : o.shareReq = some ⟨sc, l, tile, h, true⟩ := shareOf_eq_some hsc hl hk hhd (by decide) htile hlt hh
      have hrequest : shareRequest o s =
          if (shareRefusal s ⟨sc, l, tile, h, true⟩).isSome then s else stageShare ⟨sc, l, tile, h, true⟩ [] s := by
        simp only [shareRequest, hreq]
      rw [hrequest]
      refine ⟨fun hno => ?declined, fun hfit hwatch hon => ?taken⟩
      case declined =>
        by_cases hunfit : s.straps.screens ≤ sc.1 ∨ s.watched h = false
        · rw [shareRefusal_of_unfitted (r := ⟨sc, l, tile, h, true⟩) hunfit]
          rfl
        · have hfit : sc.1 < s.straps.screens := by omega
          have hwatch : s.watched h = true := by
            rw [not_or, Bool.not_eq_false] at hunfit
            exact hunfit.2
          have hdis : s.comp.screens[sc.1].state = .disabled := by
            rcases hno with hno | hno | hno
            · exact absurd (.inl hno) hunfit
            · exact absurd (.inr hno) hunfit
            · exact hno
          rw [shareRefusal_of_fitted (r := ⟨sc, l, tile, h, true⟩) hfit hwatch, if_pos hdis]
          rfl
      case taken =>
        intro plan
        refine ⟨_, fun x => (mem_shareLoans ⟨sc, l, tile, h, true⟩ r.loans x).trans (by simp only [true_and]), ?_⟩
        rw [shareRefusal_of_fitted (r := ⟨sc, l, tile, h, true⟩) hfit hwatch, if_neg hon, stageShare_eq]
        have hpurpose := sharedPlan_purpose_of_lend (r := ⟨sc, l, tile, h, true⟩) rfl r []
        have hstaged : sharedPlan ⟨sc, l, tile, h, true⟩ r [] =
            { plan := plan, purpose := .loan, home := false, loansAfter := shareLoans ⟨sc, l, tile, h, true⟩ r.loans, cells := [] } := by
          rw [← hpurpose]
          rfl
        rw [← hstaged]
        rfl

/-! ## RESTORE (R102) -/

theorem modScreen_of_same {sc : ScreenId} {f : ScreenRec → ScreenRec} {s : State} (h : f s.comp.screens[sc.1] = s.comp.screens[sc.1]) :
    modScreen sc f s = s := by
  simp only [modScreen, upd_same _ _ _ h]

theorem ScreenRec.with_staged_same {r : ScreenRec} {x : Option Staged} (h : r.staged = x) : { r with staged := x } = r := by
  subst h
  rfl

/-- The RETURN plan a RESTORE stages. -/
def returnPlan (r : ScreenRec) (cells : List CellId) : Staged :=
  { plan := r.ret.getD r.home, purpose := .giveBack, home := false, loansAfter := [], cells := cells }

section
variable {sc : ScreenId} {cells : List CellId} {s : State}

theorem restoreScreen_joins {g : Staged} (hg : s.comp.screens[sc.1].staged = some g) (hp : g.purpose = .giveBack) :
    restoreScreen sc cells s = modScreen sc (fun r => { r with staged := some { g with cells := g.cells ++ cells } }) s := by
  simp only [restoreScreen, hg, if_pos hp]

theorem restoreScreen_stages (h : ∀ g, s.comp.screens[sc.1].staged = some g → g.purpose ≠ .giveBack) :
    restoreScreen sc cells s = stage sc (returnPlan s.comp.screens[sc.1] cells) s := by
  dsimp only [restoreScreen]
  cases hg : s.comp.screens[sc.1].staged with
  | none => rfl
  | some g => exact if_neg (h g hg)

end

/-- Settles O39. -/
theorem restoreStagesReturn : Obligations.RestoreStagesReturn := by
  unfold Obligations.RestoreStagesReturn
  refine ⟨?command, ?request⟩
  case command =>
    intro t c s hready u p
    have hp : at8 (s.cellParams c) 0 = s.param c 0 := cellParams_at8 s c 0 (by omega)
    have hexec : exec (.restore t c) s = .next (settle (ownRestore c (s.cellParams c) u)) := takeCell_ready hready
    have hdone (r : Result) : settle (complete c r [s.param c 0] u) = complete c r [s.param c 0] u :=
      settle_of_empty _ (by rw [complete_focus]; exact hready.1.2)
    refine ⟨fun hbad => ?range, fun sc hsc => ?_⟩
    case range =>
      have hown : ownRestore c (s.cellParams c) u = complete c .badParam [s.param c 0] u := by
        unfold ownRestore
        rw [hp, asFin_of_le hbad]
      rw [hexec, hown, hdone]
    intro r
    have hown : ownRestore c (s.cellParams c) u =
        if u.fittedScreen sc then restoreScreen sc [c] u else complete c .notFitted [s.param c 0] u := by
      unfold ownRestore
      rw [hp, asFin_of_eq hsc]
    refine ⟨fun hunfit => ?unfitted, fun hfit => ?_⟩
    case unfitted =>
      rw [hexec, hown, if_neg fun hf => absurd ((fittedScreen_iff u sc).1 hf) (not_lt.2 hunfit), hdone]
    rw [if_pos ((fittedScreen_iff u sc).2 hfit)] at hown
    refine ⟨fun g hg hgive => ?joins, fun hno => ?stages⟩
    case joins =>
      rw [hexec, hown, restoreScreen_joins (s := u) hg hgive]
      exact congrArg _ (settle_of_empty (modScreen sc _ u) hready.1.2)
    case stages =>
      intro plan g old
      have hown : ownRestore c (s.cellParams c) u = stage sc g u := hown.trans (restoreScreen_stages (s := u) hno)
      rw [hexec, hown]
      refine ⟨fun hrun => ?running, fun hdis => ?disabled⟩
      case running =>
        rw [settle_stage_of_running (s := u) hrun hready.1.2]
        rfl
      case disabled =>
        intro w applied
        have hw : planStaged sc g u = w := rfl
        have hrec : applied.comp.screens[sc.1] =
            { r with loans := [], ret := none, active := plan, home := r.home, staged := none } :=
          applied_screen (s := u) (g := g) rfl
        refine ⟨by rw [stage_of_disabled (s := u) hdis, hw], kept_applied (s := u) hdis, congrArg ScreenRec.active hrec,
          (congrArg ScreenRec.home hrec :), congrArg ScreenRec.loans hrec, congrArg ScreenRec.ret hrec,
          congrArg ScreenRec.staged hrec, applied_entry (s := u) (g := g) (List.mem_singleton.2 rfl), fun hnone => ?_⟩
        exact applied_cellDone (s := u) (g := g) (sc := sc) rfl hnone (List.mem_singleton.2 rfl) (take_entry c (s.advance t))
  case request =>
    intro o s
    refine ⟨fun hunfit => ?unfitted, fun sc hsc hfit => ?_⟩
    case unfitted =>
      unfold restoreRequest
      by_cases h : o.screen.toNat < 6
      · have hno := hunfit ⟨o.screen.toNat, h⟩ rfl
        rw [asFin_of_eq (k := ⟨o.screen.toNat, h⟩) rfl]
        exact if_neg fun hf => absurd ((fittedScreen_iff s ⟨o.screen.toNat, h⟩).1 hf) (not_lt.2 hno)
      · rw [asFin_of_le (not_lt.1 h)]
    intro r
    have hrequest : restoreRequest o s = restoreScreen sc [] s := by
      unfold restoreRequest
      rw [asFin_of_eq hsc]
      exact if_pos ((fittedScreen_iff s sc).2 hfit)
    refine ⟨fun g hg hgive => ?_, fun hno => hrequest.trans (restoreScreen_stages hno)⟩
    rw [hrequest, restoreScreen_joins hg hgive]
    refine modScreen_of_same ?_
    rw [List.append_nil]
    exact ScreenRec.with_staged_same hg

end Sys2Proof.Machine
end

section
/-! PROOFS. The head signal monitor: the rules of a period, one equation per case, and the new record with its reports. -/

namespace Sys2Proof.Machine

open Sys2Proof

/-! ## Expiry rows (log 3) -/

section
variable {t : Nat} {due : State → Option Nat} {f : State → State} {s : State}

/-- An expiry whose deadline has not come, or that has none, does nothing. -/
theorem act_undue (hs : s.live) (hd : ∀ d, due (s.advance t) = some d → (s.advance t).now < d) :
    act t (fun s => if reached (due s) s then f s else s) s = .next (s.advance t) := by
  have hno : ¬reached (due (s.advance t)) (s.advance t) = true := by
    cases hdue : due (s.advance t) with
    | none => nofun
    | some d => exact fun hr => absurd (of_decide_eq_true hr) (not_le.2 (hd d hdue))
  refine (act_quiet hs ?_).trans ?_
  all_goals rw [if_neg hno]
  exact hs.2

theorem act_due {d : Nat} (hs : s.live) (hd : due (s.advance t) = some d) (hle : d ≤ (s.advance t).now) :
    act t (fun s => if reached (due s) s then f s else s) s = .next (settle (f (s.advance t))) := by
  refine (act_live hs).trans ?_
  rw [if_pos (by rw [hd]; exact decide_eq_true hle)]

theorem act_due_quiet {d : Nat} (hs : s.live) (hd : due (s.advance t) = some d) (hle : d ≤ (s.advance t).now)
    (hf : (f (s.advance t)).focus = (s.advance t).focus) :
    act t (fun s => if reached (due s) s then f s else s) s = .next (f (s.advance t)) := by
  rw [act_due hs hd hle, settle_of_empty _ ((congrArg Focus.inbox hf).trans hs.2)]
end

/-! ## The rules of a period -/

/-- The record after an edge at `now`, with these four mirrored fields. -/
def HeadRec.edged (now : Nat) (presence : Presence) (period good rate : Nat) : HeadRec :=
  { presence := presence, lastPeriod := period, good := good, rate := rate, lastEdge := some now,
    absenceDue := some (now + 100000) }

theorem goodPeriod_iff (p : Nat) : goodPeriod p = true ↔ 10000 ≤ p ∧ p ≤ 50000 := decide_eq_true_iff

theorem goodPeriod_eq_false (p : Nat) : goodPeriod p = false ↔ ¬(10000 ≤ p ∧ p ≤ 50000) := decide_eq_false_iff_not

theorem steadyPeriod_iff (p q : Nat) : steadyPeriod p q = true ↔ (p - q) + (q - p) ≤ q / 200 := decide_eq_true_iff

theorem wildPeriod_iff (p q : Nat) : wildPeriod p q = true ↔ q / 50 < (p - q) + (q - p) := decide_eq_true_iff

section
variable {r : HeadRec} {p now e : Nat}

theorem HeadRec.acquire_of_bad (h : ¬(10000 ≤ p ∧ p ≤ 50000)) : r.acquire p = { r with good := 0, lastPeriod := p } :=
  if_pos ((goodPeriod_eq_false p).2 h)

theorem HeadRec.acquire_of_good (h : 10000 ≤ p ∧ p ≤ 50000) :
    r.acquire p =
      if r.good = 0 then { r with good := 1, lastPeriod := p }
      else if steadyPeriod p r.lastPeriod then
        if 8 ≤ r.good + 1 then { r with good := 8, lastPeriod := p, presence := .present, rate := rateOf p }
        else { r with good := r.good + 1, lastPeriod := p }
      else { r with good := 1, lastPeriod := p } :=
  if_neg fun hf => (goodPeriod_eq_false p).1 hf h

theorem HeadRec.acquire_first (h : 10000 ≤ p ∧ p ≤ 50000)
    (hq : r.good = 0 ∨ r.lastPeriod / 200 < (p - r.lastPeriod) + (r.lastPeriod - p)) :
    r.acquire p = { r with good := 1, lastPeriod := p } := by
  rw [HeadRec.acquire_of_good h]
  obtain h0 | hd := hq
  · exact if_pos h0
  · rw [if_neg (c := steadyPeriod p r.lastPeriod = true) fun hs => absurd ((steadyPeriod_iff _ _).1 hs) (not_le.2 hd), ite_self]

theorem HeadRec.acquire_steady (h : 10000 ≤ p ∧ p ≤ 50000) (hgood : 1 ≤ r.good)
    (hd : (p - r.lastPeriod) + (r.lastPeriod - p) ≤ r.lastPeriod / 200) :
    r.acquire p =
      if 8 ≤ r.good + 1 then { r with good := 8, lastPeriod := p, presence := .present, rate := rateOf p }
      else { r with good := r.good + 1, lastPeriod := p } := by
  rw [HeadRec.acquire_of_good h, if_neg (by omega), if_pos ((steadyPeriod_iff _ _).2 hd)]

theorem HeadRec.hold_of_wild
    (h : ¬(10000 ≤ p ∧ p ≤ 50000) ∨ r.lastPeriod / 50 < (p - r.lastPeriod) + (r.lastPeriod - p)) :
    r.hold p = { r with good := 0, lastPeriod := p, presence := .unstable } :=
  if_pos (h.imp (goodPeriod_eq_false p).2 (wildPeriod_iff _ _).2)

theorem HeadRec.hold_of_calm (h : 10000 ≤ p ∧ p ≤ 50000)
    (hd : (p - r.lastPeriod) + (r.lastPeriod - p) ≤ r.lastPeriod / 50) :
    r.hold p = { r with lastPeriod := p, rate := rateOf p } :=
  if_neg fun ho => ho.elim (fun hf => (goodPeriod_eq_false p).1 hf h) fun hw => absurd ((wildPeriod_iff _ _).1 hw) (not_lt.2 hd)

/-- The edge that starts an acquisition. -/
theorem HeadRec.edge_first (h : r.presence = .absent ∨ r.lastEdge = none) : r.edge now = HeadRec.edged now .acquiring 0 0 0 := by
  unfold HeadRec.edge
  split
  · rfl
  · rfl
  · next he hne => exact absurd (h.resolve_left hne) (by rw [he]; nofun)

/-- An edge that ends a period. -/
theorem HeadRec.edge_period (hp : r.presence ≠ .absent) (he : r.lastEdge = some e) :
    r.edge now = { r.period (now - e) with lastEdge := some now, absenceDue := some (now + 100000) } := by
  unfold HeadRec.edge
  split
  · next ha => exact absurd ha hp
  · next hn _ => rw [he] at hn; cases hn
  · next he' _ => rw [he] at he'; cases he'; rfl

/-- While ACQUIRING or UNSTABLE a period is one of the run that makes the head PRESENT. -/
theorem HeadRec.period_acquire (h : r.presence = .acquiring ∨ r.presence = .unstable) : r.period p = r.acquire p := by
  unfold HeadRec.period
  obtain h | h := h
  all_goals rw [h]

theorem HeadRec.period_hold (h : r.presence = .present) : r.period p = r.hold p := by
  unfold HeadRec.period
  rw [h]

theorem HeadRec.edge_acquire (h : r.presence = .acquiring ∨ r.presence = .unstable) (he : r.lastEdge = some e) :
    r.edge now = { r.acquire (now - e) with lastEdge := some now, absenceDue := some (now + 100000) } := by
  rw [HeadRec.edge_period (by rintro ha; rw [ha] at h; simp at h) he, HeadRec.period_acquire h]

theorem HeadRec.edge_hold (h : r.presence = .present) (he : r.lastEdge = some e) :
    r.edge now = { r.hold (now - e) with lastEdge := some now, absenceDue := some (now + 100000) } := by
  rw [HeadRec.edge_period (by rw [h]; nofun) he, HeadRec.period_hold h]

theorem HeadRec.lapsed_none (h : r.lastEdge = none) : r.lapsed now = false := by
  unfold HeadRec.lapsed
  rw [h]

theorem HeadRec.lapsed_some (h : r.lastEdge = some e) : r.lapsed now = decide (e + 100000 < now) := by
  unfold HeadRec.lapsed
  rw [h]
  rfl
end

/-! ## A new record and its reports -/

theorem upd_upd {α : Type} {n : Nat} (v : Vector α n) (i : Fin n) (f g : α → α) : upd (upd v i f) i g = upd v i fun x => g (f x) := by
  simp [upd]

/-- Work that does not write the head records is the same work on any of them. -/
theorem kept_modHead {s t : State} (h : Kept s t) (k : HeadId) (f : HeadRec → HeadRec) : Kept (modHead k f s) (modHead k f t) := by
  have houter : (modHead k f t).outer = (modHead k f s).outer := by
    have ho := h.outer
    simp only [State.outer, Prod.mk.injEq] at ho
    simp [State.outer, ho]
  exact ⟨houter, h.screens, h.lines, h.canonical, h.above, h.cells, h.inWork, h.residuals, h.done⟩

section
variable (h : HeadId) (r : HeadRec) (s : State)

theorem setHead_of_presence (hp : s.heads[h.1].presence ≠ r.presence) :
    setHead h r s = presenceToComposer h r.presence
      (if h.1 % 2 = 1 then noticeOf (.signal h) (modHead h (fun _ => r) s)
        else post (.headA (headTarget h) r.presence) (noticeOf (.signal h) (modHead h (fun _ => r) s))) := by
  unfold setHead
  rw [if_pos hp]
  simp only [isHeadB, decide_eq_true_eq]

theorem setHead_of_mirrored (hp : s.heads[h.1].presence = r.presence)
    (hm : s.heads[h.1].lastPeriod ≠ r.lastPeriod ∨ s.heads[h.1].good ≠ r.good ∨ s.heads[h.1].rate ≠ r.rate) :
    setHead h r s = rewriteOf (.signal h) (modHead h (fun _ => r) s) := by
  unfold setHead
  rw [if_neg (not_not.2 hp), if_pos hm]

theorem setHead_of_quiet (hp : s.heads[h.1].presence = r.presence) (hl : s.heads[h.1].lastPeriod = r.lastPeriod)
    (hg : s.heads[h.1].good = r.good) (hr : s.heads[h.1].rate = r.rate) : setHead h r s = modHead h (fun _ => r) s := by
  unfold setHead
  rw [if_neg (not_not.2 hp), if_neg (by simp [hl, hg, hr])]

theorem kept_setHead : Kept (modHead h (fun _ => r) s) (setHead h r s) := by
  by_cases hp : s.heads[h.1].presence = r.presence
  · by_cases hm : s.heads[h.1].lastPeriod ≠ r.lastPeriod ∨ s.heads[h.1].good ≠ r.good ∨ s.heads[h.1].rate ≠ r.rate
    · rw [setHead_of_mirrored h r s hp hm]
      exact kept_rewriteOf _ _
    · push Not at hm
      obtain ⟨hl, hg, hr⟩ := hm
      rw [setHead_of_quiet h r s hp hl hg hr]
      exact Kept.refl _
  · rw [setHead_of_presence h r s hp]
    refine Kept.trans ?_ (kept_presenceToComposer _ _ _)
    split
    · exact kept_noticeOf _ _
    · exact (kept_noticeOf _ _).trans (kept_post _ _)

/-- A second new record takes the place of the first. -/
theorem kept_setHead_setHead (r' : HeadRec) : Kept (modHead h (fun _ => r') s) (setHead h r' (setHead h r s)) := by
  have hfirst := kept_modHead (kept_setHead h r s) h fun _ => r'
  have hsame : modHead h (fun _ => r') (modHead h (fun _ => r) s) = modHead h (fun _ => r') s := by
    simp only [modHead, upd_upd]
  rw [hsame] at hfirst
  exact hfirst.trans (kept_setHead h r' _)

theorem setHead_heads : (setHead h r s).heads[h.1] = r := by
  rw [(kept_setHead h r s).heads]
  exact upd_self _ _ _
end

/-! ## An edge and the absence deadline -/

theorem takeEdge_of_lapsed {h : HeadId} {s : State} (hl : s.heads[h.1].lapsed s.now = true) :
    takeEdge h s = setHead h (HeadRec.edged s.now .acquiring 0 0 0) (setHead h HeadRec.initial s) := by
  have hnow : (setHead h HeadRec.initial s).now = s.now := (kept_setHead h HeadRec.initial s).now
  unfold takeEdge makeAbsent
  rw [if_pos hl]
  dsimp only
  rw [setHead_heads, hnow, HeadRec.edge_first (.inl rfl)]

theorem takeEdge_of_timely {h : HeadId} {s : State} (hl : s.heads[h.1].lapsed s.now = false) :
    takeEdge h s = setHead h (s.heads[h.1].edge s.now) s := by
  unfold takeEdge
  rw [if_neg (by rw [hl]; nofun)]

/-- The state an edge finds, the head ABSENT when the edge is a lapsed one. -/
def foundByEdge (h : HeadId) (s : State) : State := if s.heads[h.1].lapsed s.now then setHead h HeadRec.initial s else s

theorem kept_foundByEdge (h : HeadId) (r : HeadRec) (s : State) :
    Kept (modHead h (fun _ => r) s) (setHead h r (foundByEdge h s)) := by
  unfold foundByEdge
  split
  · exact kept_setHead_setHead h _ s r
  · exact kept_setHead h r s

theorem exec_syncEdge_ignored {t : Nat} {h : HeadId} {s : State} (hs : s.live) (hi : s.watched h = false ∨ s.runState = .starting) :
    exec (.syncEdge t h) s = .next (s.advance t) := by
  have hno : ¬((s.advance t).watched h && decide ((s.advance t).runState ≠ .starting)) = true := by
    show ¬(s.watched h && decide (s.runState ≠ .starting)) = true
    obtain hw | hr := hi
    · simp [hw]
    · simp [hr]
  refine (act_quiet hs ?_).trans ?_
  all_goals rw [if_neg hno]
  exact hs.2

theorem exec_syncEdge_taken {t : Nat} {h : HeadId} {s : State} (hs : s.live) (hw : s.watched h = true) (hr : s.runState ≠ .starting) :
    exec (.syncEdge t h) s = .next (settle (takeEdge h (s.advance t))) := by
  have hyes : ((s.advance t).watched h && decide ((s.advance t).runState ≠ .starting)) = true := by
    show (s.watched h && decide (s.runState ≠ .starting)) = true
    simp [hw, hr]
  refine (act_live hs).trans ?_
  rw [if_pos hyes]

/-- Settles O40. -/
theorem edgesAndAbsenceSetPresence : Obligations.EdgesAndAbsenceSetPresence := by
  unfold Obligations.EdgesAndAbsenceSetPresence
  refine ⟨fun h r' s => ⟨setHead_of_presence h r' s, fun hp => ⟨setHead_of_mirrored h r' s hp, setHead_of_quiet h r' s hp⟩⟩,
    fun t h s hs => ?_⟩
  intro u r absent lapsed after becomes
  have hfound : lapsed = foundByEdge h u := by
    show (match r.lastEdge with | some e => _ | none => _) = _
    unfold foundByEdge HeadRec.lapsed
    show _ = if (match r.lastEdge with | some e => _ | none => _) = true then _ else _
    cases r.lastEdge with
    | none => rfl
    | some e => simp only [decide_eq_true_eq]; rfl
  have hbecomes {p : Presence} {q g c : Nat} (hw : s.watched h = true) (hr : s.runState ≠ .starting)
      (he : takeEdge h u = setHead h (HeadRec.edged u.now p q g c) (foundByEdge h u)) : becomes p q g c := by
    refine ⟨_, exec_syncEdge_taken hs hw hr, ?_, ?_⟩
    · rw [hfound]; exact congrArg settle he
    · have hkept := kept_foundByEdge h (HeadRec.edged u.now p q g c) u
      rw [← he] at hkept
      exact hkept.trans (kept_settle _)
  refine ⟨exec_syncEdge_ignored hs, fun hw hr => ⟨fun hfirst => hbecomes hw hr ?first, fun e he hle => ?_⟩, fun d hd hle => ?expired,
    fun hd => ?early⟩
  case first =>
    unfold foundByEdge
    by_cases hl : u.heads[h.1].lapsed u.now = true
    · rw [takeEdge_of_lapsed hl, if_pos hl]
    · have hnone : u.heads[h.1].presence = .absent ∨ u.heads[h.1].lastEdge = none := by
        obtain ha | hn | ⟨e, he, hlt⟩ := hfirst
        · exact .inl ha
        · exact .inr hn
        · exact absurd ((HeadRec.lapsed_some (r := u.heads[h.1]) he).trans (decide_eq_true hlt)) hl
      rw [takeEdge_of_timely (Bool.eq_false_iff.2 hl), if_neg hl, HeadRec.edge_first hnone]
  case expired => 
    exact ⟨_, act_due (due := fun s => s.heads[h.1].absenceDue) (f := makeAbsent h) hs hd hle, rfl, (kept_setHead h absent u).trans (kept_settle _)⟩
  case early => exact act_undue (due := fun s => s.heads[h.1].absenceDue) (f := makeAbsent h) hs hd
  intro p q d good
  have hlapsed : u.heads[h.1].lapsed u.now = false :=
    (HeadRec.lapsed_some (r := u.heads[h.1]) he).trans (decide_eq_false (not_lt.2 hle))
  have hedge {p : Presence} {q g c : Nat} (hedged : u.heads[h.1].edge u.now = HeadRec.edged u.now p q g c) : becomes p q g c := by
    refine hbecomes hw hr ?_
    rw [takeEdge_of_timely hlapsed, hedged, foundByEdge, if_neg (by rw [hlapsed]; nofun)]
  refine ⟨fun hpres => ?run, fun hpres => ?present⟩
  case run =>
    have hacquire := HeadRec.edge_acquire (r := u.heads[h.1]) (now := u.now) hpres he
    refine ⟨fun hbad => hedge ?_, fun hgood hq => hedge ?_, fun hgood h1 h7 hd => hedge ?_, fun hgood h7 hd => hedge ?_⟩
    · rw [hacquire, HeadRec.acquire_of_bad hbad]
      rfl
    · rw [hacquire, HeadRec.acquire_first (r := u.heads[h.1]) hgood hq]
      rfl
    · rw [hacquire, HeadRec.acquire_steady (r := u.heads[h.1]) hgood h1 hd, if_neg (c := 8 ≤ u.heads[h.1].good + 1) (show ¬8 ≤ r.good + 1 by omega)]
      rfl
    · rw [hacquire, HeadRec.acquire_steady (r := u.heads[h.1]) hgood (show 1 ≤ r.good by omega) hd, if_pos (c := 8 ≤ u.heads[h.1].good + 1) (show 8 ≤ r.good + 1 by omega)]
      rfl
  case present =>
    have hhold := HeadRec.edge_hold (r := u.heads[h.1]) (now := u.now) hpres he
    refine ⟨fun hwild => hedge ?_, fun hgood hd => hedge ?_⟩
    · rw [hhold, HeadRec.hold_of_wild (r := u.heads[h.1]) hwild]
      rfl
    · rw [hhold, HeadRec.hold_of_calm (r := u.heads[h.1]) hgood hd, ← (hpres : u.heads[h.1].presence = .present)]
      rfl

end Sys2Proof.Machine
end

section
/-! PROOFS. The display identity unit: what its work leaves unchanged, the debounce of a presence input, and the start of a read (R121, R122, R125). -/

namespace Sys2Proof.Machine

open Sys2Proof

/-! ## What the display identity unit leaves unchanged -/

/-- `t` is `s` but for the unit's records, the mirrors, the notices and the cells. -/
def IdentityOnly (s t : State) : Prop :=
  t = { s with
    idents := t.idents, served := t.served,
    xm := { s.xm with
      mem := t.xm.mem, revision := t.xm.revision, given := t.xm.given, completionNo := t.xm.completionNo, inWork := t.xm.inWork } }

theorem IdentityOnly.trans {s t u : State} (h : IdentityOnly s t) (g : IdentityOnly t u) : IdentityOnly s u := by
  unfold IdentityOnly at *
  rw [g, h]

theorem IdentityOnly.focus {s t : State} (h : IdentityOnly s t) : t.focus = s.focus := by rw [h]
theorem IdentityOnly.now {s t : State} (h : IdentityOnly s t) : t.now = s.now := by rw [h]

/-- Work of the unit on its records and on the cells that wait: nothing else of the state, no byte of the staging area or the images, and no cell that is not IN_WORK. -/
structure IdentityWork (s t : State) : Prop where
  only : IdentityOnly s t
  above : ∀ a, 0x0C00 ≤ a → t.xm.mem.read a = s.xm.mem.read a
  cells : ∀ c : CellId, s.xm.entry c = none → ∀ a, 64 * c.1 ≤ a → a < 64 * c.1 + 64 → t.xm.mem.read a = s.xm.mem.read a
  inWork : t.xm.inWork.Sublist s.xm.inWork

namespace IdentityWork
variable {s t u : State}

theorem refl (s : State) : IdentityWork s s := ⟨rfl, fun _ _ => rfl, fun _ _ _ _ _ => rfl, List.Sublist.refl _⟩

theorem trans (h : IdentityWork s t) (g : IdentityWork t u) : IdentityWork s u :=
  ⟨h.only.trans g.only, fun a ha => (g.above a ha).trans (h.above a ha),
    fun c hc a h1 h2 => (g.cells c (entry_none_of_sublist _ _ h.inWork c hc) a h1 h2).trans (h.cells c hc a h1 h2),
    g.inWork.trans h.inWork⟩

/-- Work that the focus controller's blocks could do as well, and that keeps to the unit's part of the state. -/
theorem of_kept (h : Kept s t) (ho : IdentityOnly s t) : IdentityWork s t := ⟨ho, h.above, h.cells, h.inWork⟩

theorem focus (h : IdentityWork s t) : t.focus = s.focus := h.only.focus
theorem now (h : IdentityWork s t) : t.now = s.now := h.only.now

theorem entry_none (h : IdentityWork s t) {c : CellId} (hc : s.xm.entry c = none) : t.xm.entry c = none :=
  entry_none_of_sublist _ _ h.inWork c hc

/-- A cell that has completed reads as it did. -/
theorem cellDone (h : IdentityWork s t) {c : CellId} {r : Result} {data : List Byte} (he : s.xm.entry c = none)
    (hd : s.cellDone c r data) : t.cellDone c r data := by
  obtain ⟨hstate, hresult, hdata⟩ := hd
  refine ⟨?_, ?_, fun i hi => ?_⟩
  · rw [h.cells c he _ (by omega) (by omega), hstate]
  · rw [h.cells c he _ (by omega) (by omega), hresult]
  · rw [h.cells c he _ (by omega) (by omega), hdata i hi]
end IdentityWork

theorem identityWork_modIdent (sc : ScreenId) (f : ScreenIdent → ScreenIdent) (s : State) : IdentityWork s (modIdent sc f s) :=
  ⟨rfl, fun _ _ => rfl, fun _ _ _ _ _ => rfl, List.Sublist.refl _⟩

theorem identityWork_modServed (h : HeadId) (f : Served → Served) (s : State) : IdentityWork s (modServed h f s) :=
  ⟨rfl, fun _ _ => rfl, fun _ _ _ _ _ => rfl, List.Sublist.refl _⟩

theorem identityWork_noticeOf (p : Share) (s : State) : IdentityWork s (noticeOf p s) := .of_kept (kept_noticeOf p s) rfl

theorem identityOnly_complete (c : CellId) (r : Result) (data : List Byte) (s : State) : IdentityOnly s (complete c r data s) := by
  unfold complete
  split
  · rfl
  · rfl

theorem identityWork_complete (c : CellId) (r : Result) (data : List Byte) (s : State) : IdentityWork s (complete c r data s) :=
  .of_kept (kept_complete c r data s) (identityOnly_complete c r data s)

theorem identityWork_completeAll (cells : List CellId) (r : Result) (data : State → List Byte) (s : State) :
    IdentityWork s (completeAll cells r data s) := by
  induction cells generalizing s with
  | nil => exact .refl s
  | cons c cs ih => exact (identityWork_complete c r (data s) s).trans (ih _)

theorem identityWork_changeIdent (sc : ScreenId) (f : ScreenIdent → ScreenIdent) (s : State) : IdentityWork s (changeIdent sc f s) := by
  unfold changeIdent
  dsimp only
  split
  · exact identityWork_modIdent sc f s
  · exact (identityWork_modIdent sc f s).trans (identityWork_noticeOf _ _)

theorem identityWork_completeReads (sc : ScreenId) (r : Result) (changed : Bool) (s : State) :
    IdentityWork s (completeReads sc r changed s) :=
  (identityWork_completeAll _ _ _ _).trans (identityWork_modIdent _ _ _)

theorem identityWork_changeServed (h : HeadId) (f : Served → Served) (s : State) : IdentityWork s (changeServed h f s) := by
  unfold changeServed
  dsimp only
  split
  · exact identityWork_modServed h f s
  · exact (identityWork_modServed h f s).trans (identityWork_noticeOf _ _)

theorem identityWork_completeServe (h : HeadId) (c : Option CellId) (r : Result) (sums : List Byte) (s : State) :
    IdentityWork s (completeServe h c r sums s) := by
  cases c with
  | none => exact .refl s
  | some c => exact identityWork_complete c r _ s

/-! ## The records of the screens -/

@[simp] theorem noticeOf_idents (p : Share) (s : State) : (noticeOf p s).idents = s.idents := rfl
@[simp] theorem noticeOf_served (p : Share) (s : State) : (noticeOf p s).served = s.served := rfl

theorem complete_records (c : CellId) (r : Result) (data : List Byte) (s : State) :
    (complete c r data s).idents = s.idents ∧ (complete c r data s).served = s.served := by
  unfold complete
  split
  · exact ⟨rfl, rfl⟩
  · exact ⟨rfl, rfl⟩

@[simp] theorem complete_idents (c : CellId) (r : Result) (data : List Byte) (s : State) : (complete c r data s).idents = s.idents :=
  (complete_records c r data s).1

@[simp] theorem complete_served (c : CellId) (r : Result) (data : List Byte) (s : State) : (complete c r data s).served = s.served :=
  (complete_records c r data s).2

@[simp] theorem completeAll_idents (cells : List CellId) (r : Result) (data : State → List Byte) (s : State) :
    (completeAll cells r data s).idents = s.idents := by
  induction cells generalizing s with
  | nil => rfl
  | cons c cs ih => exact (ih _).trans (complete_idents c r (data s) s)

@[simp] theorem completeAll_served (cells : List CellId) (r : Result) (data : State → List Byte) (s : State) :
    (completeAll cells r data s).served = s.served := by
  induction cells generalizing s with
  | nil => rfl
  | cons c cs ih => exact (ih _).trans (complete_served c r (data s) s)

theorem modIdent_modIdent (sc : ScreenId) (f g : ScreenIdent → ScreenIdent) (s : State) :
    modIdent sc g (modIdent sc f s) = modIdent sc (fun i => g (f i)) s := by
  simp only [modIdent, upd_upd]

theorem upd_congr {α : Type} {n : Nat} {v : Vector α n} {i : Fin n} {f g : α → α} (h : f v[i.1] = g v[i.1]) : upd v i f = upd v i g := by
  simp only [upd, h]

theorem modIdent_congr {sc : ScreenId} {f g : ScreenIdent → ScreenIdent} {s : State} (h : f s.idents[sc.1] = g s.idents[sc.1]) :
    modIdent sc f s = modIdent sc g s := by
  simp only [modIdent, upd_congr h]

theorem modIdent_self (sc : ScreenId) (f : ScreenIdent → ScreenIdent) (s : State) : (modIdent sc f s).idents[sc.1] = f s.idents[sc.1] :=
  upd_self _ _ _

theorem changeIdent_of_changed {sc : ScreenId} {f : ScreenIdent → ScreenIdent} {s : State}
    (h : (f s.idents[sc.1]).mirrored ≠ s.idents[sc.1].mirrored) : changeIdent sc f s = noticeOf (.ident sc) (modIdent sc f s) := by
  unfold changeIdent
  dsimp only
  rw [if_neg (by rw [modIdent_self]; exact h)]

theorem changeIdent_idents (sc : ScreenId) (f : ScreenIdent → ScreenIdent) (s : State) :
    (changeIdent sc f s).idents = upd s.idents sc f := by
  unfold changeIdent
  dsimp only
  split
  · rfl
  · rfl

theorem changeIdent_served (sc : ScreenId) (f : ScreenIdent → ScreenIdent) (s : State) : (changeIdent sc f s).served = s.served := by
  unfold changeIdent
  dsimp only
  split
  · rfl
  · rfl

theorem changeIdent_entry (sc : ScreenId) (f : ScreenIdent → ScreenIdent) (s : State) (c : CellId) :
    (changeIdent sc f s).xm.entry c = s.xm.entry c := by
  unfold changeIdent
  dsimp only
  split
  · rfl
  · rfl

theorem changeIdent_self (sc : ScreenId) (f : ScreenIdent → ScreenIdent) (s : State) :
    (changeIdent sc f s).idents[sc.1] = f s.idents[sc.1] := by
  simp only [changeIdent_idents, upd_self]

/-- The state a completion of the reads leaves in the screen's record is the one it finds, but for the list of waiting cells. -/
theorem completeReads_eq {sc : ScreenId} {r : Result} {changed : Bool} {cells : List CellId} {s : State}
    (h : s.idents[sc.1].waiting = cells) :
    completeReads sc r changed s =
      modIdent sc (fun i => { i with waiting := [] }) (completeAll cells r (rereadData sc changed) s) := by
  subst h
  rfl

theorem completeReads_idents (sc : ScreenId) (r : Result) (changed : Bool) (s : State) :
    (completeReads sc r changed s).idents = upd s.idents sc fun i => { i with waiting := [] } := by
  simp only [completeReads, modIdent, completeAll_idents]

theorem completeReads_served (sc : ScreenId) (r : Result) (changed : Bool) (s : State) : (completeReads sc r changed s).served = s.served := by
  simp only [completeReads, modIdent, completeAll_served]

theorem completeReads_entry (sc : ScreenId) (r : Result) (changed : Bool) (s : State) (c : CellId) :
    (completeReads sc r changed s).xm.entry c = if c ∈ s.idents[sc.1].waiting then none else s.xm.entry c :=
  completeAll_entry _ _ _ _ _

/-! ## The presence input -/

theorem inputChanged_same {sc : ScreenId} {level : Bool} {s : State} (h : s.idents[sc.1].input = level) : inputChanged sc level s = s :=
  if_pos h

theorem inputChanged_new {sc : ScreenId} {level : Bool} {s : State} (h : s.idents[sc.1].input ≠ level) :
    inputChanged sc level s =
      if s.fittedScreen sc && decide (s.runState ≠ .starting) then
        modIdent sc (fun i => i.debounce s.now) (setInput sc level s)
      else setInput sc level s :=
  if_neg h

theorem inputChanged_focus (sc : ScreenId) (level : Bool) (s : State) : (inputChanged sc level s).focus = s.focus := by
  by_cases h : s.idents[sc.1].input = level
  · rw [inputChanged_same h]
  · rw [inputChanged_new h]
    split
    · rfl
    · rfl

theorem exec_presenceInput {t : Nat} {sc : ScreenId} {level : Bool} {s : State} (hs : s.live) :
    exec (.screenPresenceInputChange t sc level) s = .next (inputChanged sc level (s.advance t)) := by
  rw [(exec_screenPresenceInputChange t sc level s).2 hs.1]
  refine act_quiet hs ?_
  rw [inputChanged_focus]
  exact hs.2

theorem startRead_of_changed {sc : ScreenId} {f : ScreenIdent → ScreenIdent} {s : State}
    (h : s.idents[sc.1].state ≠ .reading ∨ (f s.idents[sc.1]).presence ≠ s.idents[sc.1].presence) :
    startRead sc f s =
      noticeOf (.ident sc) (modIdent sc (fun i => { f i with state := .reading, attempts := 1, phase := .attempting }) s) := by
  refine changeIdent_of_changed fun hm => ?_
  obtain h | h := h
  · exact h (congrArg IdentShare.state hm).symm
  · exact h (congrArg IdentShare.presence hm)

theorem identityWork_startRead (sc : ScreenId) (f : ScreenIdent → ScreenIdent) (s : State) : IdentityWork s (startRead sc f s) :=
  identityWork_changeIdent _ _ _

theorem identityWork_presenceChange (sc : ScreenId) (level : Bool) (s : State) : IdentityWork s (presenceChange sc level s) := by
  cases level with
  | true => exact identityWork_startRead _ _ _
  | false => exact (identityWork_changeIdent _ _ _).trans (identityWork_completeReads _ _ _ _)

theorem presenceChange_rise {sc : ScreenId} {s : State} (h : s.idents[sc.1].presence = false) :
    presenceChange sc true s = noticeOf (.ident sc) (modIdent sc (fun i => { i with
      presence := true, state := .reading, attempts := 1, phase := .attempting }) s) :=
  startRead_of_changed (.inr (by rw [h]; nofun))

theorem presenceChange_fall {sc : ScreenId} {s : State} (h : s.idents[sc.1].presence = true) :
    presenceChange sc false s = modIdent sc (fun i => { i with waiting := [] })
      (completeAll s.idents[sc.1].waiting .notReachable (rereadData sc false)
        (noticeOf (.ident sc) (modIdent sc (fun i => { i with presence := false, state := .noScreen, phase := .noRead }) s))) := by
  have hchanged := changeIdent_of_changed (sc := sc) (s := s)
    (f := fun i => { i with presence := false, state := .noScreen, phase := .noRead })
    fun hm => by have hp := congrArg IdentShare.presence hm; rw [ScreenIdent.mirrored, ScreenIdent.mirrored, h] at hp; cases hp
  have hcells := changeIdent_self sc (fun i => { i with presence := false, state := .noScreen, phase := .noRead }) s
  rw [← hchanged]
  exact completeReads_eq (congrArg ScreenIdent.waiting hcells :)

/-- What an expired debounce does (R121, R122). -/
def debounced (sc : ScreenId) (s : State) : State :=
  presenceChange sc s.idents[sc.1].input (modIdent sc (fun i => { i with debounceDue := none }) s)

theorem debounced_focus (sc : ScreenId) (s : State) : (debounced sc s).focus = s.focus :=
  ((identityWork_modIdent sc _ s).trans (identityWork_presenceChange sc _ _)).focus

/-- Settles O41. -/
theorem presenceInputIsDebounced : Obligations.PresenceInputIsDebounced := by
  unfold Obligations.PresenceInputIsDebounced
  intro t sc s hs u r
  refine ⟨fun level => ⟨fun heq => ?same, fun hne => ⟨fun hfit hrun => ?timed, fun hout => ?untimed⟩⟩, fun hd => ?early,
    fun d hd hle hne => ?due⟩
  case same => rw [exec_presenceInput hs, inputChanged_same (s := s.advance t) heq]
  case timed =>
    have hyes : ((s.advance t).fittedScreen sc && decide ((s.advance t).runState ≠ .starting)) = true := by
      show (s.fittedScreen sc && decide (s.runState ≠ .starting)) = true
      simp [hfit, hrun]
    rw [exec_presenceInput hs, inputChanged_new (s := s.advance t) hne, if_pos hyes, setInput, modIdent_modIdent]
    rfl
  case untimed =>
    have hno : ¬((s.advance t).fittedScreen sc && decide ((s.advance t).runState ≠ .starting)) = true := by
      show ¬(s.fittedScreen sc && decide (s.runState ≠ .starting)) = true
      obtain hf | hr := hout
      · simp [hf]
      · simp [hr]
    rw [exec_presenceInput hs, inputChanged_new (s := s.advance t) hne, if_neg hno]
    rfl
  case early => exact act_undue (due := fun s => s.idents[sc.1].debounceDue) (f := debounced sc) hs hd
  case due =>
    have hexec : exec (.presenceDebounceExpiry t sc) s = .next (debounced sc u) :=
      act_due_quiet (due := fun s => s.idents[sc.1].debounceDue) (f := debounced sc) hs hd hle (debounced_focus sc u)
    have hself := modIdent_self sc (fun i => { i with debounceDue := none }) u
    refine ⟨fun hin => ?_, fun hin => ?_⟩
    · have hlow : (modIdent sc (fun i => { i with debounceDue := none }) u).idents[sc.1].presence = false :=
        (congrArg ScreenIdent.presence hself).trans (by rw [hin] at hne; exact Bool.eq_false_iff.2 hne)
      rw [hexec, debounced, show u.idents[sc.1].input = true from hin, presenceChange_rise hlow, modIdent_modIdent]
    · have hhigh : (modIdent sc (fun i => { i with debounceDue := none }) u).idents[sc.1].presence = true :=
        (congrArg ScreenIdent.presence hself).trans (show r.presence = true by rw [hin] at hne; simpa using hne)
      rw [hexec, debounced, show u.idents[sc.1].input = false from hin, presenceChange_fall hhigh, modIdent_modIdent]
      rw [hself]
      rfl

theorem ownIdentReread_focus (c : CellId) (p : List Byte) (s : State) : (ownIdentReread c p s).focus = s.focus := by
  unfold ownIdentReread
  split
  · exact complete_focus ..
  split
  · exact complete_focus ..
  split
  · exact complete_focus ..
  · rfl
  · exact (identityWork_startRead _ _ _).focus
  · exact (identityWork_startRead _ _ _).focus

/-- Settles O43. -/
theorem identRereadStartsRead : Obligations.IdentRereadStartsRead := by
  unfold Obligations.IdentRereadStartsRead
  intro t c s hready u p
  have hexec : exec (.identReread t c) s = .next (ownIdentReread c (s.cellParams c) u) :=
    takeCell_quiet hready (by rw [ownIdentReread_focus]; exact hready.1.2)
  have hp : at8 (s.cellParams c) 0 = s.param c 0 := cellParams_at8 s c 0 (by omega)
  refine ⟨fun hle => ?_, fun sc hsc => ?_⟩
  · rw [hexec, ownIdentReread, hp, asFin_of_le hle]
  intro r
  have hown := hexec
  unfold ownIdentReread at hown
  rw [hp, asFin_of_eq hsc] at hown
  refine ⟨fun hunfit => ?_, fun hfit => ?_⟩
  · exact hown.trans (congrArg _ (if_pos (Bool.eq_false_iff.2 fun hf => absurd ((fittedScreen_iff u sc).1 hf) (not_lt.2 hunfit))))
  have hread := hown.trans (congrArg _ (if_neg (by rw [(fittedScreen_iff u sc).2 hfit]; nofun)))
  refine ⟨fun hst => ?_, fun hst => ?_, fun hst => ?_⟩
  · rw [hread, show u.idents[sc.1].state = .noScreen from hst]
  · rw [hread, show u.idents[sc.1].state = .reading from hst]
  · have hne : u.idents[sc.1].state ≠ .reading := by
      intro hr
      rw [show r.state = .reading from hr] at hst
      simp at hst
    refine hread.trans ?_
    rw [← startRead_of_changed (f := fun i => { i with waiting := [c] }) (.inl hne)]
    obtain hst | hst := hst
    all_goals rw [show u.idents[sc.1].state = _ from hst]

end Sys2Proof.Machine
end

section
/-! PROOFS. The end of an attempt of a read (R123, R124): what a bus delivers, the read buffer, and the end of the read. -/

namespace Sys2Proof.Machine

open Sys2Proof

/-! ## What a screen's bus delivers -/

/-- `n` bytes of a block arrive before the first fault of the bus. -/
def Arrives (b : BlockAnswer) (n : Nat) : Prop :=
  ((b.address.ack = true ∧ b.address.low ≤ 10000) ∧ b.offset.ack = true ∧ b.offset.low ≤ 10000 →
    n ≤ 128 ∧ (∀ i : Fin 128, i.1 < n → b.bytes[i.1].2 ≤ 10000) ∧ ∀ i : Fin 128, i.1 = n → 10000 < b.bytes[i.1].2) ∧
  (¬((b.address.ack = true ∧ b.address.low ≤ 10000) ∧ b.offset.ack = true ∧ b.offset.low ≤ 10000) → n = 0)

/-- The block arrives whole and its sum is 0. -/
def Intact (b : BlockAnswer) : Prop := Arrives b 128 ∧ byteSum (b.bytes.toList.map Prod.fst) = 0

theorem takeWhile_eq_take {α : Type} {p : α → Bool} {xs : List α} {n : Nat} (hn : n ≤ xs.length)
    (hp : ∀ (i : Nat) (hi : i < xs.length), i < n → p xs[i] = true) (hq : ∀ h : n < xs.length, p xs[n] = false) :
    xs.takeWhile p = xs.take n := by
  induction xs generalizing n with
  | nil => simp
  | cons x xs ih =>
    cases n with
    | zero =>
      have hx : p x = false := hq (by simp)
      simp [hx]
    | succ n =>
      have hx : p x = true := hp 0 (by simp) (by omega)
      have hrest := ih (n := n) (by simpa using hn)
        (fun i hi hin => hp (i + 1) (by simpa using hi) (by omega)) (fun h => hq (by simpa using h))
      simp [hx, hrest]

theorem busTaken_iff (a : BusAnswer) : busTaken a = true ↔ a.ack = true ∧ a.low ≤ 10000 := by
  show (a.ack && decide (a.low ≤ 10000)) = true ↔ _
  simp

section
variable {b : BlockAnswer} {n : Nat}

theorem Arrives.le (h : Arrives b n) : n ≤ 128 := by
  by_cases hgood : (b.address.ack = true ∧ b.address.low ≤ 10000) ∧ b.offset.ack = true ∧ b.offset.low ≤ 10000
  · exact (h.1 hgood).1
  · rw [h.2 hgood]
    omega

theorem blockReceived_of_arrives (h : Arrives b n) : blockReceived b = (b.bytes.toList.map Prod.fst).take n := by
  unfold blockReceived
  by_cases hgood : (b.address.ack = true ∧ b.address.low ≤ 10000) ∧ b.offset.ack = true ∧ b.offset.low ≤ 10000
  · obtain ⟨hn, hlow, hhigh⟩ := h.1 hgood
    have htaken : (busTaken b.address && busTaken b.offset) = true := by
      rw [Bool.and_eq_true, busTaken_iff, busTaken_iff]
      exact hgood
    rw [if_pos htaken, ← List.map_take]
    congr 1
    refine takeWhile_eq_take (by simpa using hn) (fun i hi hin => ?_) fun hlt => ?_
    · rw [Vector.getElem_toList]
      exact decide_eq_true (hlow ⟨i, by simpa using hi⟩ hin)
    · rw [Vector.getElem_toList]
      exact decide_eq_false (not_le.2 (hhigh ⟨n, by simpa using hlt⟩ rfl))
  · have htaken : ¬(busTaken b.address && busTaken b.offset) = true := by
      rw [Bool.and_eq_true, busTaken_iff, busTaken_iff]
      exact hgood
    rw [if_neg htaken, h.2 hgood]
    rfl

theorem blockReceived_length (h : Arrives b n) : (blockReceived b).length = n := by
  rw [blockReceived_of_arrives h]
  simpa using h.le

theorem blockReceived_getD (h : Arrives b n) {i : Nat} (hi : i < n) (hlt : i < 128) :
    (blockReceived b).getD i 0 = b.bytes[i].1 := by
  rw [blockReceived_of_arrives h, List.getD_eq_getElem?_getD, List.getElem?_take_of_lt hi]
  simp [hlt]

theorem blockIntact_iff (h : Arrives b n) : blockIntact (blockReceived b) = true ↔ Intact b := by
  unfold blockIntact
  rw [Bool.and_eq_true, decide_eq_true_eq, decide_eq_true_eq, blockReceived_length h]
  constructor
  · rintro ⟨rfl, hsum⟩
    rw [blockReceived_of_arrives h, List.take_of_length_le (by simp)] at hsum
    exact ⟨h, hsum⟩
  · rintro ⟨h128, hsum⟩
    have hn : n = 128 := (blockReceived_length h).symm.trans (blockReceived_length h128)
    subst hn
    rw [blockReceived_of_arrives h, List.take_of_length_le (by simp)]
    exact ⟨rfl, hsum⟩
end

/-! ## The read buffer -/

/-- The buffer with bytes read into it from an offset on. -/
theorem imageOf_filled_getElem (v : Image) (start : Nat) (bs : List Byte) {i : Nat} (hi : i < 256) (hs : start ≤ 256) :
    (imageOf (v.toList.take start ++ bs ++ v.toList.drop (start + bs.length)))[i] =
      if start ≤ i ∧ i < start + bs.length then bs.getD (i - start) 0 else v[i] := by
  have hlen : (v.toList.take start).length = start := by simpa using hs
  rw [imageOf, Vector.getElem_ofFn, List.append_assoc]
  dsimp only
  by_cases h1 : i < start
  · rw [List.getD_append _ _ _ _ (by omega), if_neg (by omega), List.getD_eq_getElem?_getD, List.getElem?_take_of_lt h1]
    simp [hi]
  rw [List.getD_append_right _ _ _ _ (by omega), hlen]
  by_cases h2 : i < start + bs.length
  · rw [List.getD_append _ _ _ _ (by omega), if_pos ⟨by omega, h2⟩]
  · rw [List.getD_append_right _ _ _ _ (by omega), if_neg (by omega), List.getD_eq_getElem?_getD, List.getElem?_drop,
      show start + bs.length + (i - start - bs.length) = i by omega]
    simp [hi]

/-- The read buffer after `n0` bytes of block 0 and `n1` of block 1. -/
def buffered (res : ReadResult) (v : Image) (n0 n1 : Nat) : Image := Vector.ofFn fun i =>
  if h : i.1 < 128 then if i.1 < n0 then res.block0.bytes[i.1].1 else v[i.1]
  else if i.1 - 128 < n1 then res.block1.bytes[i.1 - 128].1 else v[i.1]

section
variable {res : ReadResult} {v : Image} {n0 n1 : Nat}

theorem buffered_block0 (h : Arrives res.block0 n0) :
    imageOf (v.toList.take 0 ++ blockReceived res.block0 ++ v.toList.drop (0 + (blockReceived res.block0).length)) =
      buffered res v n0 0 := by
  have hle := h.le
  refine Vector.ext fun i hi => ?_
  rw [imageOf_filled_getElem v 0 _ hi (by omega), blockReceived_length h, buffered, Vector.getElem_ofFn]
  dsimp only
  by_cases h1 : i < n0
  · rw [if_pos (by omega), dif_pos (by omega), if_pos h1, Nat.sub_zero, blockReceived_getD h h1 (by omega)]
  · rw [if_neg (by omega)]
    split
    · rfl
    · rw [if_neg (by omega)]

theorem buffered_block1 (h : Arrives res.block1 n1) :
    imageOf ((buffered res v 128 0).toList.take 128 ++ blockReceived res.block1 ++
        (buffered res v 128 0).toList.drop (128 + (blockReceived res.block1).length)) =
      buffered res v 128 n1 := by
  have hle := h.le
  refine Vector.ext fun i hi => ?_
  rw [imageOf_filled_getElem _ 128 _ hi (by omega), blockReceived_length h, buffered, Vector.getElem_ofFn, buffered,
    Vector.getElem_ofFn]
  dsimp only
  by_cases h1 : i < 128
  · rw [if_neg (by omega), dif_pos h1, dif_pos h1]
  · rw [dif_neg h1, dif_neg h1, if_neg (c := i - 128 < 0) (by omega)]
    by_cases h2 : i - 128 < n1
    · rw [if_pos (by omega), if_pos h2, blockReceived_getD h h2 (by omega)]
    · rw [if_neg (by omega), if_neg h2]
end

/-! ## The end of an attempt -/

section
variable {sc : ScreenId} {res : ReadResult} {n0 n1 : Nat} {s : State}

/-- The screen's record with this buffer. -/
def withBuffer (sc : ScreenId) (v : Image) (s : State) : State := modIdent sc (fun i => { i with buffer := v }) s

theorem withBuffer_self (v : Image) : (withBuffer sc v s).idents[sc.1] = { s.idents[sc.1] with buffer := v } := modIdent_self _ _ _

theorem fillBuffer_block0 (h : Arrives res.block0 n0) :
    fillBuffer sc 0 (blockReceived res.block0) s = withBuffer sc (buffered res s.idents[sc.1].buffer n0 0) s := by
  rw [← buffered_block0 h]
  exact modIdent_congr rfl

theorem fillBuffer_block1 (h : Arrives res.block1 n1) {v : Image} :
    fillBuffer sc 128 (blockReceived res.block1) (withBuffer sc (buffered res v 128 0) s) =
      withBuffer sc (buffered res v 128 n1) s := by
  unfold fillBuffer withBuffer
  rw [modIdent_modIdent]
  exact modIdent_congr (by rw [buffered_block1 h])

theorem attemptEnd_of_not_intact0 (h : Arrives res.block0 n0) (hbad : ¬Intact res.block0) :
    attemptEnd sc res s = readFailed sc (withBuffer sc (buffered res s.idents[sc.1].buffer n0 0) s) := by
  unfold attemptEnd
  dsimp only
  rw [if_neg (by rw [blockIntact_iff h]; exact hbad), fillBuffer_block0 h]

theorem attemptEnd_of_not_intact1 (h0 : Intact res.block0) (h : Arrives res.block1 n1) (hbad : ¬Intact res.block1) :
    attemptEnd sc res s = readFailed sc (withBuffer sc (buffered res s.idents[sc.1].buffer 128 n1) s) := by
  unfold attemptEnd
  dsimp only
  rw [if_pos ((blockIntact_iff h0.1).2 h0), if_neg (by rw [blockIntact_iff h]; exact hbad), fillBuffer_block0 h0.1, fillBuffer_block1 h]

theorem attemptEnd_of_intact (h0 : Intact res.block0) (h1 : Intact res.block1) :
    attemptEnd sc res s =
      readValid sc (buffered res s.idents[sc.1].buffer 128 128) (withBuffer sc (buffered res s.idents[sc.1].buffer 128 128) s) := by
  unfold attemptEnd
  dsimp only
  rw [if_pos ((blockIntact_iff h0.1).2 h0), if_pos ((blockIntact_iff h1.1).2 h1), fillBuffer_block0 h0.1, fillBuffer_block1 h1.1,
    withBuffer_self]

theorem readFailed_retry (h : s.idents[sc.1].attempts < 3) :
    readFailed sc s = modIdent sc (fun i => { i with phase := .retryAt (s.now + 100000) }) s :=
  if_pos h

theorem readFailed_last (h : 3 ≤ s.idents[sc.1].attempts) (hst : s.idents[sc.1].state = .reading) :
    readFailed sc s = modIdent sc (fun i => { i with waiting := [] })
      (completeAll s.idents[sc.1].waiting .identBad (rereadData sc false)
        (noticeOf (.ident sc) (modIdent sc (fun i => { i with state := .invalid, phase := .noRead }) s))) := by
  have hchanged := changeIdent_of_changed (sc := sc) (s := s) (f := fun i => { i with state := .invalid, phase := .noRead })
    fun hm => by have hp := congrArg IdentShare.state hm; rw [ScreenIdent.mirrored, ScreenIdent.mirrored, hst] at hp; cases hp
  have hcells := changeIdent_self sc (fun i => { i with state := .invalid, phase := .noRead }) s
  unfold readFailed
  rw [if_neg (show ¬s.idents[sc.1].attempts < Config.readAttempts from not_lt.2 h), ← hchanged]
  exact completeReads_eq (congrArg ScreenIdent.waiting hcells :)
end

/-! ## A read that ends VALID -/

theorem changeServed_served (h : HeadId) (f : Served → Served) (s : State) : (changeServed h f s).served = upd s.served h f := by
  unfold changeServed
  dsimp only
  split
  · rfl
  · rfl

theorem changeServed_idents (h : HeadId) (f : Served → Served) (s : State) : (changeServed h f s).idents = s.idents := by
  unfold changeServed
  dsimp only
  split
  · rfl
  · rfl

theorem completeServe_none (h : HeadId) (r : Result) (sums : List Byte) (s : State) : completeServe h none r sums s = s := rfl

theorem completeServe_served (h : HeadId) (c : Option CellId) (r : Result) (sums : List Byte) (s : State) :
    (completeServe h c r sums s).served = s.served := by
  cases c with
  | none => rfl
  | some c => exact complete_served ..

theorem completeServe_idents (h : HeadId) (c : Option CellId) (r : Result) (sums : List Byte) (s : State) :
    (completeServe h c r sums s).idents = s.idents := by
  cases c with
  | none => rfl
  | some c => exact complete_idents ..

/-- The head's record at the begin of a copy (R129). -/
def Served.replacing (v : Served) (rep : Replacement) (image : Image) (now : Nat) : Served :=
  { v with
    state := .replacing, pending := none, completing := none, announceUntil := none,
    copy := some { rep := rep, image := image, due := now + 1000, before := v.state } }

theorem beginReplacement_screen {h : HeadId} {rep : Replacement} {sc : ScreenId} {s : State} (hsrc : rep.source = .screen sc) :
    beginReplacement h rep s =
      completeServe h s.served[h.1].completing .superseded (sumsFor s.served[h.1].source s.served[h.1].store)
        (changeServed h (fun v => v.replacing rep s.idents[sc.1].image s.now) s) := by
  obtain ⟨src, announce, follow, cell⟩ := rep
  subst hsrc
  rfl

/-- A head follows a screen: no replacement is pending, and what it copies or serves is the screen's image (R132). -/
def Served.follows (v : Served) (sc : ScreenId) : Prop :=
  v.pending = none ∧
    ((∃ c, v.copy = some c ∧ c.rep.source = .screen sc) ∨ (v.copy = none ∧ v.source = .screen sc))

theorem followScreen_of_not {sc : ScreenId} {h : HeadId} {s : State} (hn : ¬s.served[h.1].follows sc) : followScreen sc s h = s := by
  unfold followScreen
  dsimp only
  refine if_neg ?_
  rintro ⟨hp, hsrc⟩
  refine hn ⟨Option.isNone_iff_eq_none.1 hp, ?_⟩
  cases hc : s.served[h.1].copy with
  | none => exact .inr ⟨rfl, by simpa [hc] using hsrc⟩
  | some c => exact .inl ⟨c, rfl, by simpa [hc] using hsrc⟩

/-- The replacement that a change of the screen's image asks of a head that follows it. -/
def Served.followOf (v : Served) (sc : ScreenId) : Replacement :=
  { source := .screen sc, announce := v.follow, follow := v.follow, cell := none }

theorem followScreen_of_follows {sc : ScreenId} {h : HeadId} {s : State} (hf : s.served[h.1].follows sc) :
    followScreen sc s h = requestReplacement h (s.served[h.1].followOf sc) s := by
  obtain ⟨hp, hsrc⟩ := hf
  unfold followScreen
  dsimp only
  refine if_pos ⟨by rw [hp]; rfl, ?_⟩
  obtain ⟨c, hc, hsrc⟩ | ⟨hc, hsrc⟩ := hsrc
  · rw [hc]; exact hsrc
  · rw [hc]; exact hsrc

theorem requestReplacement_now {h : HeadId} {rep : Replacement} {s : State} (hp : s.served[h.1].pending = none)
    (ht : s.served[h.1].inTransaction = false) (hst : s.served[h.1].state ≠ .replacing) :
    requestReplacement h rep s = beginReplacement h rep s := by
  unfold requestReplacement
  dsimp only
  rw [hp]
  exact if_pos ⟨ht, hst⟩

theorem requestReplacement_later {h : HeadId} {rep : Replacement} {s : State} (hp : s.served[h.1].pending = none)
    (hb : s.served[h.1].inTransaction = true ∨ s.served[h.1].state = .replacing) :
    requestReplacement h rep s = changeServed h (fun v => { v with pending := some rep }) s := by
  unfold requestReplacement
  dsimp only
  rw [hp]
  refine if_neg ?_
  rintro ⟨ht, hst⟩
  obtain hb | hb := hb
  · rw [ht] at hb; cases hb
  · exact hst hb

/-- The head's record after a change of the image of a screen (R132). -/
def Served.following (v : Served) (sc : ScreenId) (image : Image) (now : Nat) (v' : Served) : Prop :=
  (v.follows sc → v.inTransaction = false → v.state ≠ .replacing → v' = v.replacing (v.followOf sc) image now) ∧
  (v.follows sc → v.inTransaction = true ∨ v.state = .replacing → v' = { v with pending := some (v.followOf sc) }) ∧
  (¬v.follows sc → v' = v)

/-- One head's part of a change of a screen's image. -/
structure FollowStep (sc : ScreenId) (h : HeadId) (s t : State) : Prop where
  work : IdentityWork s t
  idents : t.idents = s.idents
  others : ∀ k : HeadId, k ≠ h → t.served[k.1] = s.served[k.1]
  own : s.served[h.1].following sc s.idents[sc.1].image s.now t.served[h.1]

theorem followScreen_step (sc : ScreenId) (h : HeadId) (s : State) : FollowStep sc h s (followScreen sc s h) := by
  by_cases hf : s.served[h.1].follows sc
  · rw [followScreen_of_follows hf]
    by_cases hb : s.served[h.1].inTransaction = true ∨ s.served[h.1].state = .replacing
    · rw [requestReplacement_later hf.1 hb]
      refine ⟨identityWork_changeServed _ _ _, changeServed_idents _ _ _, fun k hk => ?_, fun _ ht hst => ?_, fun _ _ => ?_,
        fun hn => absurd hf hn⟩
      · simp only [changeServed_served, upd_ne _ _ _ _ hk.symm]
      · simp [ht, hst] at hb
      · simp only [changeServed_served, upd_self]
    · have hidle : s.served[h.1].inTransaction = false ∧ s.served[h.1].state ≠ .replacing := by simpa using hb
      rw [requestReplacement_now hf.1 hidle.1 hidle.2, beginReplacement_screen (sc := sc) rfl]
      refine ⟨(identityWork_changeServed _ _ _).trans (identityWork_completeServe _ _ _ _ _),
        (completeServe_idents _ _ _ _ _).trans (changeServed_idents _ _ _), fun k hk => ?_, fun _ _ _ => ?_,
        fun _ hb' => absurd hb' hb, fun hn => absurd hf hn⟩
      · simp only [completeServe_served, changeServed_served, upd_ne _ _ _ _ hk.symm]
      · simp only [completeServe_served, changeServed_served, upd_self]
  · rw [followScreen_of_not hf]
    exact ⟨.refl s, rfl, fun _ _ => rfl, fun h' => absurd h' hf, fun h' => absurd h' hf, fun _ => rfl⟩

/-- The heads that follow the screen, one after another. -/
structure FollowSteps (sc : ScreenId) (hs : List HeadId) (s t : State) : Prop where
  work : IdentityWork s t
  idents : t.idents = s.idents
  others : ∀ k : HeadId, k ∉ hs → t.served[k.1] = s.served[k.1]
  own : ∀ h ∈ hs, s.served[h.1].following sc s.idents[sc.1].image s.now t.served[h.1]

theorem foldl_followScreen (sc : ScreenId) (hs : List HeadId) (s : State) (hn : hs.Nodup) :
    FollowSteps sc hs s (hs.foldl (followScreen sc) s) := by
  induction hs generalizing s with
  | nil => exact ⟨.refl s, rfl, fun _ _ => rfl, fun _ h => absurd h List.not_mem_nil⟩
  | cons h hs ih =>
    obtain ⟨hnot, hn⟩ := List.nodup_cons.1 hn
    have hfirst := followScreen_step sc h s
    have hrest := ih (followScreen sc s h) hn
    refine ⟨hfirst.work.trans hrest.work, hrest.idents.trans hfirst.idents, fun k hk => ?_, fun k hk => ?_⟩
    · rw [List.mem_cons, not_or] at hk
      exact (hrest.others k hk.2).trans (hfirst.others k hk.1)
    · obtain rfl | hk := List.mem_cons.1 hk
      · rw [List.foldl_cons, hrest.others k hnot]
        exact hfirst.own
      · have hne : k ≠ h := fun e => hnot (e ▸ hk)
        have hown := hrest.own k hk
        rwa [hfirst.others k hne, hfirst.idents, hfirst.work.now] at hown

end Sys2Proof.Machine
end

section
/-! PROOFS. The end of a read VALID, its image and its followers (R124, R132). -/

namespace Sys2Proof.Machine

open Sys2Proof

section
variable (sc : ScreenId) (img : Image) (s : State)

/-- The read's image is a changed one. -/
def imageChanged : Bool := !s.idents[sc.1].held || decide (s.idents[sc.1].image ≠ img)

/-- The image written to the screen's image area, if it is a changed one. -/
def imageStored : State := if imageChanged sc img s then writeMem (Config.imageBase + 256 * sc.1) img.toList s else s

/-- The screen's record at the end of the read. -/
def identValid : State :=
  changeIdent sc (fun i => { i with
    image := if imageChanged sc img s then img else i.image, held := true, state := .valid, phase := .noRead }) (imageStored sc img s)

/-- The waiting cells completed. -/
def readsCompleted : State := completeReads sc .ok (imageChanged sc img s) (identValid sc img s)

theorem readValid_eq :
    readValid sc img s =
      if imageChanged sc img s then (ids 16).foldl (followScreen sc) (readsCompleted sc img s) else readsCompleted sc img s := rfl

theorem imageChanged_iff : imageChanged sc img s = true ↔ s.idents[sc.1].held = false ∨ s.idents[sc.1].image ≠ img := by
  simp [imageChanged]

theorem imageChanged_eq_false : imageChanged sc img s = false ↔ s.idents[sc.1].held = true ∧ s.idents[sc.1].image = img := by
  simp [imageChanged]

theorem identityOnly_imageStored : IdentityOnly s (imageStored sc img s) := by
  unfold imageStored
  split
  · rfl
  · rfl

theorem imageStored_idents : (imageStored sc img s).idents = s.idents := by
  unfold imageStored
  split
  · rfl
  · rfl

theorem imageStored_served : (imageStored sc img s).served = s.served := by
  unfold imageStored
  split
  · rfl
  · rfl

theorem imageStored_entry (c : CellId) : (imageStored sc img s).xm.entry c = s.xm.entry c := by
  unfold imageStored
  split
  · rfl
  · rfl

theorem imageStored_read_beside {a : Nat} (ha : ¬(0x2000 + 256 * sc.1 ≤ a ∧ a < 0x2000 + 256 * sc.1 + 256)) :
    (imageStored sc img s).xm.mem.read a = s.xm.mem.read a := by
  unfold imageStored
  split
  · refine Memory.read_write_outside _ _ _ _ ?_
    rw [Vector.length_toList]
    show a < 0x2000 + 256 * sc.1 ∨ 0x2000 + 256 * sc.1 + 256 ≤ a
    omega
  · rfl

theorem imageStored_read_image (i : Fin 256) :
    (imageStored sc img s).xm.mem.read (0x2000 + 256 * sc.1 + i.1) =
      if s.idents[sc.1].held = true ∧ s.idents[sc.1].image = img then s.xm.mem.read (0x2000 + 256 * sc.1 + i.1) else img[i.1] := by
  unfold imageStored
  by_cases hc : imageChanged sc img s = true
  · have hnot : ¬(s.idents[sc.1].held = true ∧ s.idents[sc.1].image = img) := by
      rw [← imageChanged_eq_false, hc]
      nofun
    rw [if_pos hc, if_neg hnot]
    have hbase : Config.imageBase = 0x2000 := rfl
    simp only [writeMem_xm, Memory.read_write, Vector.length_toList, hbase]
    rw [if_pos (by omega), Nat.add_sub_cancel_left]
    simp
  · rw [if_neg hc, if_pos ((imageChanged_eq_false sc img s).1 (Bool.eq_false_iff.2 hc))]

theorem identityWork_readsCompleted : IdentityWork (imageStored sc img s) (readsCompleted sc img s) :=
  (identityWork_changeIdent _ _ _).trans (identityWork_completeReads _ _ _ _)

theorem identValid_self : (identValid sc img s).idents[sc.1] =
    { s.idents[sc.1] with image := img, held := true, state := .valid, phase := .noRead } := by
  unfold identValid
  rw [changeIdent_self]
  simp only [imageStored_idents]
  cases hc : imageChanged sc img s with
  | true => rfl
  | false =>
    have himage := ((imageChanged_eq_false sc img s).1 hc).2
    rw [if_neg (by nofun), ← himage]

theorem readsCompleted_idents : (readsCompleted sc img s).idents =
    upd s.idents sc fun i => { i with image := img, held := true, state := .valid, phase := .noRead, waiting := [] } := by
  rw [readsCompleted, completeReads_idents, identValid, changeIdent_idents, imageStored_idents, upd_upd]
  have hself := identValid_self sc img s
  rw [identValid, changeIdent_self, imageStored_idents] at hself
  refine upd_congr ?_
  rw [hself]

theorem readsCompleted_served : (readsCompleted sc img s).served = s.served := by
  rw [readsCompleted, completeReads_served, identValid, changeIdent_served, imageStored_served]

theorem readsCompleted_entry {c : CellId} (hc : c ∈ s.idents[sc.1].waiting) : (readsCompleted sc img s).xm.entry c = none := by
  rw [readsCompleted, completeReads_entry, identValid_self, if_pos hc]

theorem readsCompleted_cellDone {c : CellId} (hc : c ∈ s.idents[sc.1].waiting) (he : s.xm.entry c ≠ none) :
    (readsCompleted sc img s).cellDone c .ok
      [byte sc.1, 2, byte s.idents[sc.1].attempts, if s.idents[sc.1].held = true ∧ s.idents[sc.1].image = img then 0 else 1] := by
  have hentry : (identValid sc img s).xm.entry c ≠ none := by
    rwa [identValid, changeIdent_entry, imageStored_entry]
  have hdone := completeAll_cellDone (data := rereadData sc (imageChanged sc img s)) (r := .ok) (s := identValid sc img s)
    (cells := (identValid sc img s).idents[sc.1].waiting) (c := c)
    (fun d bs v => by unfold rereadData; rw [complete_idents]) (by rw [identValid_self]; exact hc) hentry
  have hdata : rereadData sc (imageChanged sc img s) (identValid sc img s) =
      [byte sc.1, 2, byte s.idents[sc.1].attempts, if s.idents[sc.1].held = true ∧ s.idents[sc.1].image = img then 0 else 1] := by
    unfold rereadData
    rw [identValid_self]
    by_cases hsame : s.idents[sc.1].held = true ∧ s.idents[sc.1].image = img
    · rw [(imageChanged_eq_false sc img s).2 hsame, if_pos hsame]
      rfl
    · have hchanged : imageChanged sc img s = true := by
        rw [← Bool.not_eq_false, imageChanged_eq_false]
        exact hsame
      rw [hchanged, if_neg hsame]
      rfl
  rw [hdata] at hdone
  exact hdone

/-- The heads that follow the screen are asked for a changed image. -/
theorem readValid_followed : ∃ hs, (imageChanged sc img s = true → hs = ids 16) ∧ (imageChanged sc img s = false → hs = []) ∧
    FollowSteps sc hs (readsCompleted sc img s) (readValid sc img s) := by
  rw [readValid_eq]
  cases imageChanged sc img s with
  | true => exact ⟨ids 16, fun _ => rfl, nofun, foldl_followScreen sc _ _ (List.nodup_finRange 16)⟩
  | false => exact ⟨[], nofun, fun _ => rfl, foldl_followScreen sc [] _ List.nodup_nil⟩

/-- What a read that ends VALID leaves. -/
structure ReadValid (t : State) : Prop where
  only : IdentityOnly s t
  idents : t.idents = upd s.idents sc fun i => { i with image := img, held := true, state := .valid, phase := .noRead, waiting := [] }
  cells : ∀ c ∈ s.idents[sc.1].waiting, t.xm.entry c = none ∧ (s.xm.entry c ≠ none → t.cellDone c .ok
    [byte sc.1, 2, byte s.idents[sc.1].attempts, if s.idents[sc.1].held = true ∧ s.idents[sc.1].image = img then 0 else 1])
  above : ∀ a, 0x0C00 ≤ a → t.xm.mem.read a = (imageStored sc img s).xm.mem.read a
  followed : s.idents[sc.1].held = false ∨ s.idents[sc.1].image ≠ img →
    ∀ h : HeadId, s.served[h.1].following sc img s.now t.served[h.1]
  unfollowed : ¬(s.idents[sc.1].held = false ∨ s.idents[sc.1].image ≠ img) → t.served = s.served

theorem readValid_spec : ReadValid sc img s (readValid sc img s) := by
  obtain ⟨hs, hall, hnone, hsteps⟩ := readValid_followed sc img s
  have hcompleted := identityWork_readsCompleted sc img s
  refine ⟨((identityOnly_imageStored sc img s).trans hcompleted.only).trans hsteps.work.only,
    hsteps.idents.trans (readsCompleted_idents sc img s), fun c hc => ?cells,
    fun a ha => (hsteps.work.above a ha).trans (hcompleted.above a ha), fun hch h => ?followed, fun hch => ?unfollowed⟩
  case cells =>
    have hentry := readsCompleted_entry sc img s hc
    exact ⟨hsteps.work.entry_none hentry, fun he => hsteps.work.cellDone hentry (readsCompleted_cellDone sc img s hc he)⟩
  case followed =>
    obtain rfl := hall ((imageChanged_iff sc img s).2 hch)
    have hown := hsteps.own h (mem_ids h)
    have hself : (readsCompleted sc img s).idents[sc.1].image = img := by
      simp only [readsCompleted_idents, upd_self]
    have hnow : (readsCompleted sc img s).now = s.now := ((identityOnly_imageStored sc img s).trans hcompleted.only).now
    simp only [readsCompleted_served, hself, hnow] at hown
    exact hown
  case unfollowed =>
    obtain rfl := hnone (Bool.eq_false_iff.2 fun h => hch ((imageChanged_iff sc img s).1 h))
    refine Vector.ext fun i hi => ?_
    have hsame := hsteps.others ⟨i, hi⟩ List.not_mem_nil
    simp only [readsCompleted_served] at hsame
    exact hsame
end

theorem identityOnly_readFailed (sc : ScreenId) (s : State) : IdentityOnly s (readFailed sc s) := by
  unfold readFailed
  split
  · rfl
  · exact ((identityWork_changeIdent _ _ _).trans (identityWork_completeReads _ _ _ _)).only

theorem identityOnly_attemptEnd (sc : ScreenId) (res : ReadResult) (s : State) : IdentityOnly s (attemptEnd sc res s) := by
  have hfill (start : Nat) (bs : List Byte) (s : State) : IdentityOnly s (fillBuffer sc start bs s) := rfl
  unfold attemptEnd
  dsimp only
  split
  · refine (hfill 0 (blockReceived res.block0) s).trans ((hfill 128 (blockReceived res.block1) _).trans ?_)
    split
    · exact (readValid_spec _ _ _).only
    · exact identityOnly_readFailed _ _
  · exact (hfill 0 (blockReceived res.block0) s).trans (identityOnly_readFailed _ _)

theorem exec_readAttemptEnd {t : Nat} {sc : ScreenId} {res : ReadResult} {s : State} (hs : s.live) :
    exec (.readAttemptEnd t sc res) s =
      .next (if s.idents[sc.1].phase = .attempting then attemptEnd sc res (s.advance t) else s.advance t) :=
  act_if (p := fun s => s.idents[sc.1].phase = .attempting) (f := attemptEnd sc res) hs
    ((congrArg Focus.inbox (identityOnly_attemptEnd sc res (s.advance t)).focus).trans hs.2)

/-- The retry of a read, when its time has come (R124). -/
def retryRead (sc : ScreenId) (s : State) : State :=
  changeIdent sc (fun i => { i with attempts := i.attempts + 1, phase := .attempting }) s

theorem retryRead_eq (sc : ScreenId) (s : State) :
    retryRead sc s = noticeOf (.ident sc) (modIdent sc (fun i => { i with attempts := i.attempts + 1, phase := .attempting }) s) :=
  changeIdent_of_changed fun hm => absurd (congrArg IdentShare.attempts hm) (Nat.succ_ne_self _)

/-- The retry's expiry: nothing outside a wait for the retry (R124; log 3). -/
def retryExpiry (sc : ScreenId) (s : State) : State :=
  match s.idents[sc.1].phase with
  | .retryAt due => if due ≤ s.now then retryRead sc s else s
  | _ => s

theorem retryExpiry_retryAt {sc : ScreenId} {s : State} {d : Nat} (h : s.idents[sc.1].phase = .retryAt d) :
    retryExpiry sc s = if d ≤ s.now then retryRead sc s else s := by
  unfold retryExpiry
  rw [h]

theorem retryExpiry_of_not {sc : ScreenId} {s : State} (h : ∀ d, s.idents[sc.1].phase ≠ .retryAt d) : retryExpiry sc s = s := by
  unfold retryExpiry
  split
  · next d hd => exact absurd hd (h d)
  · rfl

theorem exec_readRetryExpiry {t : Nat} {sc : ScreenId} {s : State} (hs : s.live) :
    exec (.readRetryExpiry t sc) s = .next (retryExpiry sc (s.advance t)) := by
  refine act_quiet (f := retryExpiry sc) hs ?_
  unfold retryExpiry
  split
  · split
    · exact (congrArg Focus.inbox (identityWork_changeIdent _ _ _).focus).trans hs.2
    · exact hs.2
  · exact hs.2

/-- Settles O42. -/
theorem readAttemptsEnd : Obligations.ReadAttemptsEnd := by
  unfold Obligations.ReadAttemptsEnd
  refine ⟨fun sc changed s => by cases changed <;> rfl, fun t sc res s hs => ?_⟩
  intro u r good arrive intact bufferOf fails
  have hfails {buffer : Image} (hphase : r.phase = .attempting)
      (hend : attemptEnd sc res u = readFailed sc (withBuffer sc buffer u)) : fails buffer := by
    have hexec : exec (.readAttemptEnd t sc res) s = .next (readFailed sc (withBuffer sc buffer u)) := by
      rw [exec_readAttemptEnd hs, if_pos hphase, hend]
    have hself : (withBuffer sc buffer u).idents[sc.1] = { r with buffer := buffer } := withBuffer_self _
    refine ⟨fun hlt => ?_, fun hle hst => ?_⟩
    · rw [hexec, readFailed_retry (by rw [hself]; exact hlt), withBuffer, modIdent_modIdent]
      rfl
    · rw [hexec, readFailed_last (by rw [hself]; exact hle) (by rw [hself]; exact hst), hself, withBuffer, modIdent_modIdent]
  refine ⟨fun hphase => ?idle, fun hphase n0 n1 h0 h1 => ⟨fun hbad => ?bad0, fun hgood hbad => ?bad1, fun hgood0 hgood1 => ?valid⟩,
    fun d hphase => ?retry, fun hphase => ?noRetry⟩
  case idle => rw [exec_readAttemptEnd hs, if_neg hphase]
  case bad0 => exact hfails hphase (attemptEnd_of_not_intact0 (s := u) h0 hbad)
  case bad1 => exact hfails hphase (attemptEnd_of_not_intact1 (s := u) hgood h1 hbad)
  case valid =>
    intro img changed follows
    have hexec : exec (.readAttemptEnd t sc res) s = .next (readValid sc img (withBuffer sc img u)) := by
      rw [exec_readAttemptEnd hs, if_pos hphase]
      exact congrArg _ (attemptEnd_of_intact (s := u) hgood0 hgood1)
    have hself : (withBuffer sc img u).idents[sc.1] = { r with buffer := img } := withBuffer_self _
    have hvalid := readValid_spec sc img (withBuffer sc img u)
    have hfollowed := hvalid.followed
    have hunfollowed := hvalid.unfollowed
    have hcells := hvalid.cells
    rw [hself] at hfollowed hunfollowed hcells
    refine ⟨_, hexec, ?idents, hcells, fun a ha hout => ?beside, fun i => ?image, fun h => ?served,
      (identityWork_modIdent _ _ _).only.trans hvalid.only⟩
    case idents => exact hvalid.idents.trans (upd_upd s.idents sc (fun i => { i with buffer := img }) _)
    case beside =>
      rw [hvalid.above a ha]
      exact imageStored_read_beside _ _ _ hout
    case image =>
      rw [hvalid.above _ (by omega), imageStored_read_image, hself]
      rfl
    case served =>
      by_cases hch : changed
      · obtain ⟨hnow, hlater, hnot⟩ := hfollowed hch h
        exact ⟨fun _ => hnow, fun _ => hlater, fun ho => hnot (ho.resolve_left (not_not.2 hch))⟩
      · have hsame : (readValid sc img (withBuffer sc img u)).served[h.1] = s.served[h.1] := by
          simp only [hunfollowed hch]
          rfl
        exact ⟨fun hc => absurd hc hch, fun hc => absurd hc hch, fun _ => hsame⟩
  case retry =>
    rw [exec_readRetryExpiry hs, retryExpiry_retryAt (s := u) hphase, ← retryRead_eq]
    exact ⟨fun hle => by rw [if_pos hle], fun hlt => by rw [if_neg (not_le.2 hlt)]⟩
  case noRetry => rw [exec_readRetryExpiry hs, retryExpiry_of_not (s := u) hphase]

end Sys2Proof.Machine
end

section
/-! PROOFS. Host writes (R168, R169, R180): what a write stores, the banks held, and the stretched accesses. -/

namespace Sys2Proof.Machine

open Sys2Proof

/-! ## A write made -/

theorem inSummary_iff (b : Nat) : inSummary b = true ↔ 0x0400 ≤ b ∧ b < 0x0420 := decide_eq_true_iff

/-- The memory after a host write of a word. -/
def storedMem (b : Nat) (v : Word16) (m : Memory) : Memory :=
  if inSummary b then
    m.write b [clearedByte (m.read b) (v.extractLsb' 0 8), clearedByte (m.read (b + 1)) (v.extractLsb' 8 8)]
  else m.write b (le16 v)

theorem storeWord_eq (b : Nat) (v : Word16) (s : State) :
    storeWord b v s = { s with xm := { s.xm with mem := storedMem b v s.xm.mem } } := by
  unfold storeWord storedMem
  split
  · rfl
  · rfl

theorem storedMem_read_beside {b : Nat} {v : Word16} {m : Memory} {i : Nat} (h0 : i ≠ b) (h1 : i ≠ b + 1) :
    (storedMem b v m).read i = m.read i := by
  unfold storedMem
  split
  · exact Memory.read_write_outside _ _ _ _ (by simp only [List.length_cons, List.length_nil]; omega)
  · exact Memory.read_write_outside _ _ _ _ (by simp only [le16_length]; omega)

theorem storedMem_word {b : Nat} {v : Word16} {m : Memory} (h : ¬(0x0400 ≤ b ∧ b < 0x0420)) : (storedMem b v m).word b = v := by
  unfold storedMem
  rw [if_neg fun hs => h ((inSummary_iff b).1 hs)]
  exact Memory.word_write_le16 _ _ _

theorem storedMem_summary {b : Nat} {v : Word16} {m : Memory} (h : 0x0400 ≤ b ∧ b < 0x0420) :
    (storedMem b v m).read b = clearedByte (m.read b) (v.extractLsb' 0 8) ∧
      (storedMem b v m).read (b + 1) = clearedByte (m.read (b + 1)) (v.extractLsb' 8 8) := by
  unfold storedMem
  rw [if_pos ((inSummary_iff b).2 h), Memory.read_write, Memory.read_write, if_pos (by simp), if_pos (by simp), Nat.sub_self,
    Nat.add_sub_cancel_left]
  exact ⟨rfl, rfl⟩

/-! ## Held banks -/

/-- A copy from the head's slot holds the bank of a byte. -/
def SlotHeld (s : State) (b : Nat) : Prop :=
  ∃ h : HeadId, 0x2600 + 256 * h.1 ≤ b ∧ b < 0x2600 + 256 * h.1 + 256 ∧
    ∃ c, s.served[h.1].copy = some c ∧ c.rep.source = .slot

theorem slotOf_eq_some {b : Nat} {h : HeadId} : slotOf b = some h ↔ 0x2600 + 256 * h.1 ≤ b ∧ b < 0x2600 + 256 * h.1 + 256 := by
  unfold slotOf asFin
  show (if 0x2600 ≤ b then if hv : (b - 0x2600) / 256 < 16 then some ⟨(b - 0x2600) / 256, hv⟩ else none else none) = some h ↔ _
  split_ifs with h1 h2
  · rw [Option.some.injEq, Fin.ext_iff]
    show (b - 0x2600) / 256 = h.1 ↔ _
    omega
  · have := h.2
    exact ⟨nofun, by omega⟩
  · exact ⟨nofun, by omega⟩

theorem bankHeld_iff (s : State) (b : Nat) : s.bankHeld b = true ↔ SlotHeld s b := by
  unfold State.bankHeld
  constructor
  · intro hheld
    split at hheld
    · cases hheld
    · next h hslot =>
      split at hheld
      · next c hc =>
        obtain ⟨hlow, hhigh⟩ := slotOf_eq_some.1 hslot
        exact ⟨h, hlow, hhigh, c, hc, of_decide_eq_true hheld⟩
      · cases hheld
  · rintro ⟨h, hlow, hhigh, c, hc, hsrc⟩
    rw [slotOf_eq_some.2 ⟨hlow, hhigh⟩]
    dsimp only
    rw [hc]
    exact decide_eq_true hsrc

/-- An access to a byte cannot be made now. -/
def Stretched (s : State) (b : Nat) : Prop := s.runState = .starting ∨ SlotHeld s b

theorem stretched_iff (s : State) (b : Nat) : s.runState = .starting ∨ s.bankHeld b = true ↔ Stretched s b := by
  rw [bankHeld_iff, Stretched]

theorem mustWait_iff (s : State) (b : Nat) : s.mustWait b = true ↔ s.runState = .starting ∨ SlotHeld s b ∨ s.xm.waiting ≠ [] := by
  rw [State.mustWait, Bool.or_eq_true, Bool.or_eq_true, bankHeld_iff, decide_eq_true_eq, or_assoc]
  simp

theorem hostWrite_waits {a : BitVec 14} {v : Word16} {s : State} (h : s.mustWait (byteAddress a) = true) :
    hostWrite a v s = { s with xm := { s.xm with waiting := s.xm.waiting ++ [{ addr := a, value := v }] } } := if_pos h

theorem hostWrite_stores {a : BitVec 14} {v : Word16} {s : State} (h : ¬s.mustWait (byteAddress a) = true) :
    hostWrite a v s = storeWord (byteAddress a) v s := if_neg h

/-! ## The stretched accesses -/

/-- The oldest stretched access made. -/
def madeAccess (w : HeldAccess) (ws : List HeldAccess) (s : State) : State :=
  storeWord (byteAddress w.addr) w.value { s with xm := { s.xm with waiting := ws } }

theorem madeAccess_eq (w : HeldAccess) (ws : List HeldAccess) (s : State) :
    madeAccess w ws s =
      { s with xm := { s.xm with mem := storedMem (byteAddress w.addr) w.value s.xm.mem, waiting := ws } } :=
  storeWord_eq _ _ _

theorem makeReady_stretched {w : HeldAccess} {ws : List HeldAccess} {s : State} (h : Stretched s (byteAddress w.addr)) :
    makeReady (w :: ws) s = s :=
  if_pos ((stretched_iff s _).2 h)

theorem makeReady_made {w : HeldAccess} {ws : List HeldAccess} {s : State} (h : ¬Stretched s (byteAddress w.addr)) :
    makeReady (w :: ws) s = makeReady ws (madeAccess w ws s) :=
  if_neg fun hs => h ((stretched_iff s _).1 hs)

theorem releaseReady_nil {s : State} (h : s.xm.waiting = []) : releaseReady s = s := by
  rw [releaseReady, h, makeReady]

theorem releaseReady_stretched {w : HeldAccess} {ws : List HeldAccess} {s : State} (hw : s.xm.waiting = w :: ws)
    (h : Stretched s (byteAddress w.addr)) : releaseReady s = s := by
  rw [releaseReady, hw, makeReady_stretched h]

theorem releaseReady_made {w : HeldAccess} {ws : List HeldAccess} {s : State} (hw : s.xm.waiting = w :: ws)
    (h : ¬Stretched s (byteAddress w.addr)) : releaseReady s = releaseReady (madeAccess w ws s) := by
  rw [releaseReady, hw, makeReady_made h, releaseReady, madeAccess_eq]

/-- `t` is `s` after host writes. -/
def HostOnly (s t : State) : Prop := t = { s with xm := { s.xm with mem := t.xm.mem, waiting := t.xm.waiting } }

theorem HostOnly.trans {s t u : State} (h : HostOnly s t) (g : HostOnly t u) : HostOnly s u := by
  unfold HostOnly at *
  rw [g, h]

theorem hostOnly_madeAccess (w : HeldAccess) (ws : List HeldAccess) (s : State) : HostOnly s (madeAccess w ws s) := by
  rw [madeAccess_eq]
  rfl

/-- After the accesses that no bank stretches are made, none is left, or a bank stretches the oldest. -/
structure Released (s t : State) : Prop where
  only : HostOnly s t
  settled : t.xm.waiting = [] ∨ ∃ w ws, t.xm.waiting = w :: ws ∧ Stretched t (byteAddress w.addr)

theorem releaseReady_released (s : State) : Released s (releaseReady s) := by
  obtain ⟨ws, hws⟩ : ∃ ws, s.xm.waiting = ws := ⟨_, rfl⟩
  induction ws generalizing s with
  | nil =>
    rw [releaseReady_nil hws]
    exact ⟨rfl, .inl hws⟩
  | cons w ws ih =>
    by_cases h : Stretched s (byteAddress w.addr)
    · rw [releaseReady_stretched hws h]
      exact ⟨rfl, .inr ⟨w, ws, hws, h⟩⟩
    · rw [releaseReady_made hws h]
      obtain ⟨honly, hsettled⟩ := ih (madeAccess w ws s) (by rw [madeAccess_eq])
      exact ⟨(hostOnly_madeAccess w ws s).trans honly, hsettled⟩

theorem releaseReady_served (s : State) : (releaseReady s).served = s.served := by rw [(releaseReady_released s).only]

theorem releaseReady_releaseReady (s : State) : releaseReady (releaseReady s) = releaseReady s := by
  obtain h | ⟨w, ws, hw, h⟩ := (releaseReady_released s).settled
  · exact releaseReady_nil h
  · exact releaseReady_stretched hw h

theorem releaseAccess_nil {s : State} (h : s.xm.waiting = []) : releaseAccess s = s := by
  unfold releaseAccess
  rw [h]

theorem releaseAccess_stretched {w : HeldAccess} {ws : List HeldAccess} {s : State} (hw : s.xm.waiting = w :: ws)
    (h : Stretched s (byteAddress w.addr)) : releaseAccess s = s := by
  unfold releaseAccess
  rw [hw]
  exact if_pos ((stretched_iff s _).2 h)

theorem releaseAccess_made {w : HeldAccess} {ws : List HeldAccess} {s : State} (hw : s.xm.waiting = w :: ws)
    (h : ¬Stretched s (byteAddress w.addr)) : releaseAccess s = madeAccess w ws s := by
  unfold releaseAccess
  rw [hw]
  exact if_neg fun hs => h ((stretched_iff s _).1 hs)

/-! ## The commands of the port -/

/-- `x` is `u` after a host write of `v` to the word at `b`. -/
def Stored (u : State) (b : Nat) (v : Word16) (x : State) : Prop :=
  x = { u with xm := { u.xm with mem := x.xm.mem, waiting := x.xm.waiting } } ∧
  (∀ i, i ≠ b → i ≠ b + 1 → x.xm.mem.read i = u.xm.mem.read i) ∧
  (¬(0x0400 ≤ b ∧ b < 0x0420) → x.xm.mem.word b = v) ∧
  (0x0400 ≤ b → b < 0x0420 →
    x.xm.mem.read b = (if v.extractLsb' 0 8 = 0 then 0 else u.xm.mem.read b) ∧
    x.xm.mem.read (b + 1) = (if v.extractLsb' 8 8 = 0 then 0 else u.xm.mem.read (b + 1)))

theorem stored_of_mem {u x : State} {b : Nat} {v : Word16} (ho : HostOnly u x) (hm : x.xm.mem = storedMem b v u.xm.mem) :
    Stored u b v x := by
  unfold Stored
  rw [hm]
  exact ⟨by rw [← hm]; exact ho, fun _ h0 h1 => storedMem_read_beside h0 h1, storedMem_word,
    fun h0 h1 => storedMem_summary ⟨h0, h1⟩⟩

theorem hostWrite_focus (a : BitVec 14) (v : Word16) (s : State) : (hostWrite a v s).focus = s.focus := by
  unfold hostWrite
  split
  · rfl
  · rw [storeWord_eq]

/-- Settles O55. -/
theorem hostWritesStoreOrWait : Obligations.HostWritesStoreOrWait := by
  unfold Obligations.HostWritesStoreOrWait
  intro t a v s hs u b slotHeld waits stored holds
  have hwrite {c : Instr} (hc : exec c s = act t (hostWrite a v) s) : holds c := by
    have hexec : exec c s = .next (hostWrite a v u) :=
      hc.trans (act_quiet hs ((congrArg Focus.inbox (hostWrite_focus a v (s.advance t))).trans hs.2))
    refine ⟨fun hw => ?_, fun hn => ⟨_, hexec, ?_, ?_⟩⟩
    · rw [hexec, hostWrite_waits ((mustWait_iff u (byteAddress a)).2 hw)]
    · rw [hostWrite_stores fun hm => hn ((mustWait_iff u (byteAddress a)).1 hm), storeWord_eq]
      exact stored_of_mem (u := u) rfl rfl
    · rw [hostWrite_stores fun hm => hn ((mustWait_iff u (byteAddress a)).1 hm), storeWord_eq]
      exact not_not.1 fun hne => hn (.inr (.inr hne))
  have hrelease (hf : (releaseAccess u).focus = u.focus) : exec (.heldAccessRelease t) s = .next (releaseAccess u) :=
    act_quiet hs ((congrArg Focus.inbox hf).trans hs.2)
  refine ⟨fun hb => hwrite ?window, fun w hb => hwrite ?summary, fun hnil => ?none, fun w ws hws => ⟨fun hst => ?held, fun hrun hslot => ?made⟩⟩
  case window =>
    have hwindow : windowWrite a v = hostWrite a v := funext fun x => if_pos hb
    show act t (windowWrite a v) s = _
    rw [hwindow]
  case summary =>
    have haddr : summaryAddress w = a := by
      refine BitVec.eq_of_toNat_eq ?_
      rw [summaryAddress, BitVec.toNat_ofNat]
      show (0x0400 / 2 + w.1) % 2 ^ 14 = a.toNat
      omega
    show act t (hostWrite (summaryAddress w) v) s = _
    rw [haddr]
  case none =>
    have hsame : releaseAccess u = u := releaseAccess_nil hnil
    rw [hrelease (by rw [hsame]), hsame]
    exact ⟨rfl, releaseReady_nil hnil⟩
  case held =>
    have hsame : releaseAccess u = u := releaseAccess_stretched (s := u) hws hst
    rw [hrelease (by rw [hsame]), hsame]
    exact ⟨rfl, releaseReady_stretched (s := u) hws hst⟩
  case made =>
    have hfree : ¬Stretched u (byteAddress w.addr) := fun h => h.elim hrun hslot
    have hmade : releaseAccess u = madeAccess w ws u := releaseAccess_made (s := u) hws hfree
    refine ⟨madeAccess w ws u, ?_, ?_, ?_, releaseReady_made (s := u) hws hfree⟩
    · rw [hrelease (by rw [hmade, madeAccess_eq]), hmade]
    · exact stored_of_mem (u := u) (hostOnly_madeAccess w ws u) (by rw [madeAccess_eq]; rfl)
    · rw [madeAccess_eq]

end Sys2Proof.Machine
end

section
/-! PROOFS. Replacements of a served image and the responder on a head's bus (R127 to R131). -/

namespace Sys2Proof.Machine

open Sys2Proof

/-! ## The record of a head -/

theorem modServed_modServed (h : HeadId) (f g : Served → Served) (s : State) :
    modServed h g (modServed h f s) = modServed h (fun v => g (f v)) s := by
  simp only [modServed, upd_upd]

theorem modServed_congr {h : HeadId} {f g : Served → Served} {s : State} (e : f s.served[h.1] = g s.served[h.1]) :
    modServed h f s = modServed h g s := by
  simp only [modServed, upd_congr e]

theorem modServed_of_same {h : HeadId} {f : Served → Served} {s : State} (e : f s.served[h.1] = s.served[h.1]) :
    modServed h f s = s := by
  simp only [modServed, upd_same _ _ _ e]

theorem modServed_self (h : HeadId) (f : Served → Served) (s : State) : (modServed h f s).served[h.1] = f s.served[h.1] :=
  upd_self _ _ _

theorem changeServed_self (h : HeadId) (f : Served → Served) (s : State) : (changeServed h f s).served[h.1] = f s.served[h.1] := by
  simp only [changeServed_served, upd_self]

theorem changeServed_congr {h : HeadId} {f g : Served → Served} {s : State} (e : f s.served[h.1] = g s.served[h.1]) :
    changeServed h f s = changeServed h g s := by
  unfold changeServed
  rw [modServed_congr e]

theorem served_mirrored_eq_iff (n o : Served) :
    n.mirrored = o.mirrored ↔ n.state = o.state ∧ n.source = o.source ∧ n.follow = o.follow ∧ n.hotplug = o.hotplug ∧
      n.pending.isSome = o.pending.isSome := by
  unfold Served.mirrored
  rw [ServedShare.mk.injEq]

theorem changeServed_of_same {h : HeadId} {f : Served → Served} {s : State}
    (e : (f s.served[h.1]).mirrored = s.served[h.1].mirrored) : changeServed h f s = modServed h f s := by
  unfold changeServed
  dsimp only
  rw [if_pos (by rw [modServed_self]; exact e)]

theorem changeServed_of_changed {h : HeadId} {f : Served → Served} {s : State}
    (e : (f s.served[h.1]).mirrored ≠ s.served[h.1].mirrored) : changeServed h f s = noticeOf (.served h) (modServed h f s) := by
  unfold changeServed
  dsimp only
  rw [if_neg (by rw [modServed_self]; exact e)]

theorem changeServed_focus (h : HeadId) (f : Served → Served) (s : State) : (changeServed h f s).focus = s.focus :=
  (identityWork_changeServed h f s).focus

theorem completeServe_focus (h : HeadId) (c : Option CellId) (r : Result) (sums : List Byte) (s : State) :
    (completeServe h c r sums s).focus = s.focus :=
  (identityWork_completeServe h c r sums s).focus

theorem beforeSlot_focus (src : ServedSource) (s : State) : (beforeSlot src s).focus = s.focus := by
  unfold beforeSlot
  split
  · rw [(releaseReady_released s).only]
  · rfl

theorem beginReplacement_focus (h : HeadId) (rep : Replacement) (s : State) : (beginReplacement h rep s).focus = s.focus := by
  unfold beginReplacement
  dsimp only
  split
  · rw [completeServe_focus, completeServe_focus, changeServed_focus, beforeSlot_focus]
  · rw [completeServe_focus, changeServed_focus, beforeSlot_focus]

theorem requestReplacement_focus (h : HeadId) (rep : Replacement) (s : State) : (requestReplacement h rep s).focus = s.focus := by
  unfold requestReplacement
  dsimp only
  split
  · rw [completeServe_focus, changeServed_focus]
  · split
    · exact beginReplacement_focus h rep s
    · exact changeServed_focus _ _ _

/-! ## The begin of a replacement (R129) -/

section
variable {h : HeadId} {rep : Replacement} {s : State}

theorem beginReplacement_nothing (hsrc : rep.source = .nothing) :
    beginReplacement h rep s =
      completeServe h s.served[h.1].completing .superseded (sumsFor s.served[h.1].source s.served[h.1].store)
        (completeServe h rep.cell .ok [0, 0] (changeServed h (fun v => { v with
          state := .silent, source := .nothing, follow := rep.follow, answering := false, hotplug := false, pending := none,
          completing := none, announceUntil := none }) s)) := by
  obtain ⟨src, announce, follow, cell⟩ := rep
  subst hsrc
  rfl

theorem imageOf_slot (h : HeadId) (m : Memory) :
    imageOf (m.block (slotAddress h) 256) = Vector.ofFn fun i => m.read (0x2600 + 256 * h.1 + i.1) := by
  refine Vector.ext fun i hi => ?_
  rw [imageOf, Vector.getElem_ofFn, Vector.getElem_ofFn, Memory.block_getD _ _ _ _ hi]
  rfl

theorem beginReplacement_slot (hsrc : rep.source = .slot) :
    beginReplacement h rep s =
      completeServe h s.served[h.1].completing .superseded (sumsFor s.served[h.1].source s.served[h.1].store)
        (changeServed h (fun v => v.replacing rep
          (Vector.ofFn fun i => (releaseReady s).xm.mem.read (0x2600 + 256 * h.1 + i.1)) s.now) (releaseReady s)) := by
  have hw := (releaseReady_released s).only
  have hserved : (releaseReady s).served = s.served := by rw [hw]
  have hnow : (releaseReady s).now = s.now := by rw [hw]
  rw [← imageOf_slot, ← hserved, ← hnow]
  obtain ⟨src, announce, follow, cell⟩ := rep
  subst hsrc
  rfl
end

/-! ## The end of a copy and of an announce (R130) -/

/-- The head's record after a copy's end. -/
def Served.afterCopy (v : Served) (c : Copy) (now : Nat) : Served :=
  let announcing : Bool := decide (c.before = .announcing) || (decide (c.before = .serving) && c.rep.announce)
  { v with
    source := c.rep.source, follow := c.rep.follow, store := c.image, copy := none, lastActivity := now,
    answering := true, state := if announcing then .announcing else .serving, hotplug := !announcing,
    announceUntil := if announcing then some (now + 200000) else v.announceUntil,
    completing := if announcing then (if c.rep.announce then c.rep.cell else none) else v.completing }

theorem copied_eq (v : Served) (c : Copy) (now : Nat) : v.copied c now = v.afterCopy c now := by
  obtain ⟨rep, image, due, before⟩ := c
  obtain ⟨source, announce, follow, cell⟩ := rep
  cases before with
  | silent => rfl
  | replacing => rfl
  | announcing => rfl
  | serving =>
    cases announce with
    | true => rfl
    | false => rfl

theorem afterCopy_state (v : Served) (c : Copy) (now : Nat) : (v.afterCopy c now).state ≠ .replacing := by
  unfold Served.afterCopy
  dsimp only
  split
  · nofun
  · nofun

theorem beginPending_of_none {h : HeadId} {s : State} (hp : s.served[h.1].pending = none) : beginPending h s = s := by
  unfold beginPending
  dsimp only
  rw [hp]

theorem beginPending_of_open {h : HeadId} {s : State} (ht : s.served[h.1].inTransaction = true) : beginPending h s = s := by
  unfold beginPending
  dsimp only
  split
  · exact if_neg fun hn => by rw [ht] at hn; exact absurd hn.1 (by nofun)
  · rfl

theorem beginPending_of_free {h : HeadId} {s : State} {rep : Replacement} (hp : s.served[h.1].pending = some rep)
    (ht : s.served[h.1].inTransaction = false) (hst : s.served[h.1].state ≠ .replacing) :
    beginPending h s = beginReplacement h rep s := by
  unfold beginPending
  dsimp only
  rw [hp]
  exact if_pos ⟨ht, hst⟩

theorem beginPending_focus (h : HeadId) (s : State) : (beginPending h s).focus = s.focus := by
  unfold beginPending
  dsimp only
  split
  · split
    · exact beginReplacement_focus _ _ _
    · rfl
  · rfl

/-- A copy's end before a pending replacement may begin. -/
def copyEnded (h : HeadId) (c : Copy) (s : State) : State :=
  let o' := s.served[h.1].afterCopy c s.now
  let copied := changeServed h (fun _ => o') s
  if o'.completing.isSome then copied else completeServe h c.rep.cell .ok (sumsFor c.rep.source c.image) copied

theorem endCopy_eq (h : HeadId) (c : Copy) (s : State) : endCopy h c s = beginPending h (copyEnded h c s) := by
  have hcopied : changeServed h (fun v => v.copied c s.now) s = changeServed h (fun _ => s.served[h.1].afterCopy c s.now) s :=
    changeServed_congr (copied_eq _ _ _)
  unfold endCopy copyEnded
  dsimp only
  rw [hcopied, changeServed_self]

theorem copyEnded_self (h : HeadId) (c : Copy) (s : State) :
    (copyEnded h c s).served[h.1] = s.served[h.1].afterCopy c s.now := by
  unfold copyEnded
  dsimp only
  split
  · exact changeServed_self _ _ _
  · simp only [completeServe_served, changeServed_served, upd_self]

theorem copyEnded_focus (h : HeadId) (c : Copy) (s : State) : (copyEnded h c s).focus = s.focus := by
  unfold copyEnded
  dsimp only
  split
  · exact changeServed_focus _ _ _
  · rw [completeServe_focus, changeServed_focus]

theorem endAnnounce_focus (h : HeadId) (s : State) : (endAnnounce h s).focus = s.focus := by
  unfold endAnnounce
  dsimp only
  rw [completeServe_focus, changeServed_focus]

/-- The row of a copy's end: nothing without a copy (log 3). -/
def copyEnd (h : HeadId) (s : State) : State :=
  match s.served[h.1].copy with
  | some c => if c.due ≤ s.now then endCopy h c s else s
  | none => s

theorem copyEnd_none {h : HeadId} {s : State} (hc : s.served[h.1].copy = none) : copyEnd h s = s := by
  unfold copyEnd
  rw [hc]

theorem copyEnd_some {h : HeadId} {s : State} {c : Copy} (hc : s.served[h.1].copy = some c) :
    copyEnd h s = if c.due ≤ s.now then endCopy h c s else s := by
  unfold copyEnd
  rw [hc]

theorem exec_copyEnd {t : Nat} {h : HeadId} {s : State} (hs : s.live) : exec (.copyEnd t h) s = .next (copyEnd h (s.advance t)) := by
  refine act_quiet (f := copyEnd h) hs ?_
  refine Eq.trans (congrArg Focus.inbox ?_) hs.2
  cases hc : (s.advance t).served[h.1].copy with
  | none => rw [copyEnd_none hc]; rfl
  | some c =>
    rw [copyEnd_some hc]
    split
    · rw [endCopy_eq, beginPending_focus, copyEnded_focus]; rfl
    · rfl

/-- Settles O45. -/
theorem copyAndAnnounceEnd : Obligations.CopyAndAnnounceEnd := by
  unfold Obligations.CopyAndAnnounceEnd
  refine ⟨fun h f s => ⟨fun hsame => ?same, fun hdiff => ?changed⟩, fun t h s hs => ?_, fun h rep s => ?begins⟩
  case same => exact changeServed_of_same ((served_mirrored_eq_iff _ _).2 hsame)
  case changed => exact changeServed_of_changed fun e => hdiff ((served_mirrored_eq_iff _ _).1 e)
  case begins =>
    exact ⟨beginReplacement_nothing, fun sc hsrc => beginReplacement_screen hsrc, fun hsrc => by
      have hnow : (releaseReady s).now = s.now := by rw [(releaseReady_released s).only]
      exact beginReplacement_slot hsrc⟩
  intro u o
  refine ⟨fun hnot => ?early, fun c hc hdue => ?due, fun hd => ?_, fun d hd hle => ?_⟩
  case early =>
    rw [exec_copyEnd hs]
    cases hc : u.served[h.1].copy with
    | none => rw [copyEnd_none hc]
    | some c => rw [copyEnd_some hc, if_neg (not_le.2 (hnot c hc))]
  case due =>
    intro announcing o' copied ended
    have hexec : exec (.copyEnd t h) s = .next (beginPending h ended) := by
      rw [exec_copyEnd hs, copyEnd_some (s := u) hc, if_pos hdue, endCopy_eq]
      rfl
    have hself : ended.served[h.1] = o' := copyEnded_self h c u
    refine ⟨fun hno => ?_, fun rep hrep ht => ?_⟩
    · rw [hexec]
      obtain hp | ht := hno
      · rw [beginPending_of_none (by rw [hself]; exact hp)]
      · rw [beginPending_of_open (by rw [hself]; exact ht)]
    · rw [hexec, beginPending_of_free (rep := rep) (by rw [hself]; exact hrep) (by rw [hself]; exact ht)
        (by rw [hself]; exact afterCopy_state u.served[h.1] c u.now)]
  · exact act_undue (due := fun s => s.served[h.1].announceUntil) (f := endAnnounce h) hs hd
  · exact act_due_quiet (due := fun s => s.served[h.1].announceUntil) (f := endAnnounce h) hs hd hle (endAnnounce_focus h _)

/-! ## The responder (R127) -/

theorem busHeld_iff (v : Served) : v.busHeld = true ↔ v.state = .replacing ∧ v.inTransaction = true := by
  simp [Served.busHeld]

theorem inOpenTransaction_open {h : HeadId} {f : State → State} {s : State} (ht : s.served[h.1].inTransaction = true)
    (hst : s.served[h.1].state ≠ .replacing) : inOpenTransaction h f s = f s :=
  if_pos ⟨ht, Bool.eq_false_iff.2 fun hb => hst ((busHeld_iff _).1 hb).1⟩

theorem inOpenTransaction_other {h : HeadId} {f : State → State} {s : State}
    (hn : s.served[h.1].inTransaction = false ∨ s.served[h.1].state = .replacing ∧ s.served[h.1].inTransaction = true) :
    inOpenTransaction h f s = s := by
  refine if_neg ?_
  rintro ⟨ht, hheld⟩
  obtain hn | hn := hn
  · rw [hn] at ht; cases ht
  · exact absurd ((busHeld_iff _).2 hn) (by rw [hheld]; nofun)

/-- A bus event whose effect hands the focus controller nothing. -/
theorem act_inOpenTransaction {t : Nat} {h : HeadId} {f : State → State} {s : State} (hs : s.live)
    (hf : (f (s.advance t)).focus = s.focus) :
    act t (inOpenTransaction h f) s = .next (inOpenTransaction h f (s.advance t)) := by
  refine act_quiet hs (Eq.trans (congrArg Focus.inbox ?_) hs.2)
  unfold inOpenTransaction
  dsimp only
  split
  · exact hf
  · rfl

theorem endTransaction_focus (h : HeadId) (s : State) : (endTransaction h s).focus = s.focus := beginPending_focus _ _

end Sys2Proof.Machine
end

section
/-! PROOFS. The events of a head's bus (R127) and IDENT_SERVE (R131). -/

namespace Sys2Proof.Machine

open Sys2Proof

/-! ## The events of a head's bus -/

section
variable {v : Served} {now : Nat}

theorem busStart_own {a : BitVec 7} (h : a = 0x50 ∧ v.answering = true) :
    v.busStart a now = { v with inTransaction := true, addressed := true, offsetTaken := false, lastActivity := now } := if_pos h

theorem busStart_other {a : BitVec 7} (h : ¬(a = 0x50 ∧ v.answering = true)) (ht : v.inTransaction = true) :
    v.busStart a now = { v with addressed := false, lastActivity := now } := (if_neg h).trans (if_pos ht)

theorem busStart_idle {a : BitVec 7} (h : ¬(a = 0x50 ∧ v.answering = true)) (ht : v.inTransaction = false) :
    v.busStart a now = v := (if_neg h).trans (if_neg (by rw [ht]; nofun))

theorem busWrite_first (b : Byte) (ha : v.addressed = true) (ht : v.offsetTaken = false) :
    v.busWrite b now = { v with offset := b, offsetTaken := true, lastActivity := now } := if_pos ⟨ha, ht⟩

theorem busWrite_later (b : Byte) (h : v.addressed = false ∨ v.offsetTaken = true) :
    v.busWrite b now = { v with lastActivity := now } := by
  refine if_neg ?_
  rintro ⟨ha, ht⟩
  obtain h | h := h
  · rw [show v.addressed = true from ha] at h; cases h
  · rw [show v.offsetTaken = false from ht] at h; cases h

theorem busRead_own (ha : v.addressed = true) :
    v.busRead now = { v with
      lastByte := some (v.store[v.offset.toNat]'(v.offset.isLt)), offset := v.offset + 1, lastActivity := now } := by
  have hlt : v.offset.toNat < 256 := v.offset.isLt
  have hbyte : v.store.toList.getD v.offset.toNat 0 = v.store[v.offset.toNat]'hlt := by simp [hlt]
  refine (if_pos ha).trans ?_
  rw [← hbyte]

theorem busRead_other (ha : v.addressed = false) : v.busRead now = { v with lastActivity := now } := if_neg (by
  show ¬v.addressed = true
  rw [ha]
  nofun)
end

section
variable {t : Nat} {h : HeadId} {s : State} (hs : s.live)
include hs

theorem exec_headTransactionStart (a : BitVec 7) :
    exec (.headTransactionStart t h a) s =
      .next (if s.served[h.1].busHeld then s.advance t
        else modServed h (fun v => v.busStart a (s.advance t).now) (s.advance t)) := by
  refine act_quiet (f := fun s => if s.served[h.1].busHeld then s else modServed h (fun v => v.busStart a s.now) s) hs ?_
  split
  · exact hs.2
  · exact hs.2

theorem exec_headOffsetWrite (b : Byte) :
    exec (.headOffsetWrite t h b) s =
      .next (inOpenTransaction h (fun s => modServed h (fun v => v.busWrite b s.now) s) (s.advance t)) :=
  act_inOpenTransaction hs rfl

theorem exec_headByteRead :
    exec (.headByteRead t h) s =
      .next (inOpenTransaction h (fun s => modServed h (fun v => v.busRead s.now) s) (s.advance t)) :=
  act_inOpenTransaction hs rfl

theorem exec_headTransactionStop :
    exec (.headTransactionStop t h) s = .next (inOpenTransaction h (endTransaction h) (s.advance t)) :=
  act_inOpenTransaction hs (endTransaction_focus h _)

/-- The idle bus (R127; log 3). -/
theorem exec_headBusIdleExpiry :
    exec (.headBusIdleExpiry t h) s = .next (inOpenTransaction h
      (fun s => if s.served[h.1].lastActivity + 25000 ≤ s.now then endTransaction h s else s) (s.advance t)) := by
  refine act_inOpenTransaction (f := fun s => if s.served[h.1].lastActivity + 25000 ≤ s.now then endTransaction h s else s) hs ?_
  split
  · exact endTransaction_focus h _
  · rfl
end

/-- Settles O46. -/
theorem headBusServesStore : Obligations.HeadBusServesStore := by
  unfold Obligations.HeadBusServesStore
  intro t h s hs u o held served closed
  have hbus : ¬held → ¬s.served[h.1].busHeld = true := fun hn hb => hn ((busHeld_iff _).1 hb)
  refine ⟨fun a => ?start, fun hno => ?outside, fun ht hst => ?inside⟩
  case start =>
    intro own
    rw [exec_headTransactionStart hs a]
    refine ⟨fun hn hown => ?_, fun hn hown ht => ?_, fun hor => ?_⟩
    · rw [if_neg (hbus hn)]
      exact congrArg _ (modServed_congr (busStart_own (v := u.served[h.1]) hown))
    · rw [if_neg (hbus hn)]
      exact congrArg _ (modServed_congr (busStart_other (v := u.served[h.1]) hown ht))
    · by_cases hb : s.served[h.1].busHeld = true
      · rw [if_pos hb]
      · rw [if_neg hb]
        obtain ⟨hown, ht⟩ := hor.resolve_left fun hheld => hb ((busHeld_iff _).2 hheld)
        exact congrArg _ (modServed_of_same (busStart_idle (v := u.served[h.1]) hown ht))
  case outside =>
    have hother {f : State → State} : inOpenTransaction h f u = u := inOpenTransaction_other (s := u) hno
    exact ⟨fun b => (exec_headOffsetWrite hs b).trans (congrArg _ hother), (exec_headByteRead hs).trans (congrArg _ hother),
      (exec_headTransactionStop hs).trans (congrArg _ hother), (exec_headBusIdleExpiry hs).trans (congrArg _ hother)⟩
  case inside =>
    have hopen {f : State → State} : inOpenTransaction h f u = f u := inOpenTransaction_open (s := u) ht hst
    have hclosed : closed.served[h.1] = { o with inTransaction := false, addressed := false } := modServed_self _ _ _
    have hstop : exec (.headTransactionStop t h) s = .next (beginPending h closed) :=
      (exec_headTransactionStop hs).trans (congrArg _ hopen)
    have hidle := (exec_headBusIdleExpiry (t := t) (h := h) hs).trans (congrArg _ hopen)
    refine ⟨fun b => ⟨fun ha hoff => ?_, fun hor => ?_⟩, fun ha => ?_, fun ha => ?_, fun hp => ?_, fun rep hp => ?_, fun hle => ?_,
      fun hlt => ?_⟩
    · exact (exec_headOffsetWrite hs b).trans
        (congrArg _ (hopen.trans (modServed_congr (busWrite_first (v := u.served[h.1]) b ha hoff))))
    · exact (exec_headOffsetWrite hs b).trans
        (congrArg _ (hopen.trans (modServed_congr (busWrite_later (v := u.served[h.1]) b hor))))
    · exact (exec_headByteRead hs).trans (congrArg _ (hopen.trans (modServed_congr (busRead_own (v := u.served[h.1]) ha))))
    · exact (exec_headByteRead hs).trans (congrArg _ (hopen.trans (modServed_congr (busRead_other (v := u.served[h.1]) ha))))
    · rw [hstop, beginPending_of_none (by rw [hclosed]; exact hp)]
    · rw [hstop, beginPending_of_free (rep := rep) (by rw [hclosed]; exact hp) (by rw [hclosed]) (by rw [hclosed]; exact hst)]
    · rw [hidle, hstop, if_pos (show u.served[h.1].lastActivity + 25000 ≤ u.now from hle)]
      rfl
    · rw [hidle, if_neg (show ¬u.served[h.1].lastActivity + 25000 ≤ u.now from not_le.2 hlt)]

/-! ## The request of a replacement (R128) -/

/-- How a replacement asked for at a head goes on: in the place of the pending one, as the pending one, or at once. -/
theorem requestReplacement_pending {h : HeadId} {rep old : Replacement} {s : State} (hp : s.served[h.1].pending = some old) :
    requestReplacement h rep s =
      completeServe h old.cell .superseded [0, 0] (modServed h (fun v => { v with pending := some rep }) s) := by
  unfold requestReplacement
  dsimp only
  rw [hp]
  dsimp only
  rw [changeServed_of_same ((served_mirrored_eq_iff _ _).2 ⟨rfl, rfl, rfl, rfl, by rw [hp]; rfl⟩)]

theorem requestReplacement_waits {h : HeadId} {rep : Replacement} {s : State} (hp : s.served[h.1].pending = none)
    (hb : s.served[h.1].inTransaction = true ∨ s.served[h.1].state = .replacing) :
    requestReplacement h rep s = noticeOf (.served h) (modServed h (fun v => { v with pending := some rep }) s) := by
  rw [requestReplacement_later hp hb]
  exact changeServed_of_changed fun e => by
    have hpending := congrArg ServedShare.pending e
    rw [Served.mirrored, Served.mirrored, hp] at hpending
    cases hpending

/-- The begin of a copy at a head that copies nothing. -/
theorem changeServed_replacing {h : HeadId} {rep : Replacement} {image : Image} {now : Nat} {s : State}
    (hp : s.served[h.1].pending = none) (hst : s.served[h.1].state ≠ .replacing) :
    changeServed h (fun v => v.replacing rep image now) s =
      noticeOf (.served h) (modServed h (fun v => { v with
        state := .replacing, completing := none, announceUntil := none,
        copy := some { rep := rep, image := image, due := now + 1000, before := s.served[h.1].state } }) s) := by
  have hstate : (s.served[h.1].replacing rep image now).mirrored ≠ s.served[h.1].mirrored :=
    fun e => hst (congrArg ServedShare.state e).symm
  rw [changeServed_of_changed hstate]
  congr 1
  refine modServed_congr ?_
  rw [Served.replacing, ← hp]

/-! ## The parameters of an IDENT_SERVE (R131) -/

theorem servedSourceOf_nothing {kind screen : Byte} (h : kind.toNat = 0) : servedSourceOf kind screen = some .nothing := by
  unfold servedSourceOf
  rw [h]
  rfl

theorem servedSourceOf_screen {kind screen : Byte} {sc : ScreenId} (h : kind.toNat = 1) (hsc : screen.toNat = sc.1) :
    servedSourceOf kind screen = some (.screen sc) := by
  unfold servedSourceOf
  rw [h]
  show (asFin 6 screen.toNat).map ServedSource.screen = _
  rw [asFin_of_eq hsc]
  rfl

theorem servedSourceOf_slot {kind screen : Byte} (h : kind.toNat = 2) : servedSourceOf kind screen = some .slot := by
  unfold servedSourceOf
  rw [h]
  rfl

theorem servedSourceOf_eq_none {kind screen : Byte} (h : 3 ≤ kind.toNat ∨ kind.toNat = 1 ∧ 6 ≤ screen.toNat) :
    servedSourceOf kind screen = none := by
  unfold servedSourceOf
  obtain h | ⟨h, hsc⟩ := h
  · split
    · omega
    · omega
    · omega
    · rfl
  · rw [h]
    show (asFin 6 screen.toNat).map ServedSource.screen = _
    rw [asFin_of_le hsc]
    rfl

section
variable {c : CellId} {p : List Byte}

theorem serveOf_eq_none
    (h : 8 ≤ (at8 p 0).toNat ∨ 2 ≤ (at8 p 1).toNat ∨ 3 ≤ (at8 p 2).toNat ∨ ((at8 p 2).toNat = 1 ∧ 6 ≤ (at8 p 3).toNat) ∨
      2 ≤ (at8 p 4).toNat ∨ 2 ≤ (at8 p 5).toNat) : serveOf c p = none := by
  by_contra hne
  obtain ⟨x, hx⟩ := Option.ne_none_iff_exists'.1 hne
  simp only [serveOf, Option.bind_eq_bind, Option.bind_eq_some_iff] at hx
  obtain ⟨t, ht, b, hb, src, hsrc, a, ha, f, hf, _⟩ := hx
  obtain h | h | h | h | h | h := h
  · rw [asFin_of_le h] at ht; cases ht
  · rw [boolOf_of_le h] at hb; cases hb
  · rw [servedSourceOf_eq_none (.inl h)] at hsrc; cases hsrc
  · rw [servedSourceOf_eq_none (.inr h)] at hsrc; cases hsrc
  · rw [boolOf_of_le h] at ha; cases ha
  · rw [boolOf_of_le h] at hf; cases hf

/-- The replacement that an IDENT_SERVE asks for. -/
def serveRep (c : CellId) (p : List Byte) (src : ServedSource) : Replacement :=
  { source := src, announce := decide ((at8 p 4).toNat = 1), follow := decide ((at8 p 5).toNat = 1), cell := some c }

theorem serveOf_of {h : HeadId} {src : ServedSource} (hh : h.1 = 2 * (at8 p 0).toNat + (at8 p 1).toNat) (h1 : (at8 p 1).toNat < 2)
    (h4 : (at8 p 4).toNat < 2) (h5 : (at8 p 5).toNat < 2) (hsrc : servedSourceOf (at8 p 2) (at8 p 3) = some src) :
    serveOf c p = some (h, serveRep c p src) := by
  have h0 : (at8 p 0).toNat < 8 := by omega
  have hhead : headOf ⟨(at8 p 0).toNat, h0⟩ (decide ((at8 p 1).toNat = 1)) = h := by
    refine Fin.ext ?_
    by_cases h1' : (at8 p 1).toNat = 1
    · rw [decide_eq_true h1']
      show 2 * (at8 p 0).toNat + 1 = h.1
      omega
    · rw [decide_eq_false h1']
      show 2 * (at8 p 0).toNat = h.1
      omega
  unfold serveOf
  rw [asFin_of_eq (k := ⟨(at8 p 0).toNat, h0⟩) rfl, boolOf_of_lt h1, hsrc, boolOf_of_lt h4, boolOf_of_lt h5]
  show some (headOf _ _, _) = _
  rw [hhead]
  rfl
end

/-! ## The checks of an IDENT_SERVE (R131) -/

section
variable {c : CellId} {p : List Byte} {s : State} {h : HeadId} {rep : Replacement}

theorem beforeSlot_watched (src : ServedSource) : (beforeSlot src s).watched h = s.watched h := by
  unfold beforeSlot
  split
  · rw [(releaseReady_released s).only]
    rfl
  · rfl

theorem ownIdentServe_badParam (hp : serveOf c p = none) : ownIdentServe c p s = complete c .badParam [] s := by
  unfold ownIdentServe
  rw [hp]

theorem ownIdentServe_unwatched (hp : serveOf c p = some (h, rep)) (hw : s.watched h = false) :
    ownIdentServe c p s = complete c .notFitted [] s := by
  have hno : ¬s.watched h = true := by rw [hw]; nofun
  have hrefused : serveRefusal s h rep.source = some .notFitted := by
    unfold serveRefusal
    exact if_pos hw
  unfold ownIdentServe
  rw [hp]
  dsimp only
  rw [if_neg hno, hrefused]

theorem ownIdentServe_refused {r : Result} (hp : serveOf c p = some (h, rep)) (hw : s.watched h = true)
    (hr : serveRefusal (beforeSlot rep.source s) h rep.source = some r) :
    ownIdentServe c p s = complete c r [] (beforeSlot rep.source s) := by
  unfold ownIdentServe
  rw [hp]
  dsimp only
  rw [if_pos hw, hr]

theorem ownIdentServe_accepted (hp : serveOf c p = some (h, rep)) (hw : s.watched h = true)
    (hr : serveRefusal (beforeSlot rep.source s) h rep.source = none) :
    ownIdentServe c p s = requestReplacement h rep (beforeSlot rep.source s) := by
  unfold ownIdentServe
  rw [hp]
  dsimp only
  rw [if_pos hw, hr]

theorem ownIdentServe_focus : (ownIdentServe c p s).focus = s.focus := by
  unfold ownIdentServe
  split
  · exact complete_focus ..
  · next h rep hp =>
    have hbefore : (if s.watched h then beforeSlot rep.source s else s).focus = s.focus := by
      split
      · exact beforeSlot_focus _ _
      · rfl
    dsimp only
    split
    · rw [complete_focus, hbefore]
    · rw [requestReplacement_focus, hbefore]

theorem serveRefusal_nothing (hw : s.watched h = true) : serveRefusal s h .nothing = none := by
  unfold serveRefusal
  rw [if_neg (by rw [hw]; nofun)]

theorem serveRefusal_screen {sc : ScreenId} (hw : s.watched h = true) :
    serveRefusal s h (.screen sc) =
      if s.fittedScreen sc = false then some .notFitted else if s.idents[sc.1].held then none else some .identBad := by
  unfold serveRefusal
  rw [if_neg (by rw [hw]; nofun)]

theorem serveRefusal_slot (hw : s.watched h = true) :
    serveRefusal s h .slot = if blocksIntact (s.xm.mem.block (slotAddress h) 256) then none else some .identBad := by
  unfold serveRefusal
  rw [if_neg (by rw [hw]; nofun)]
end

theorem blocksIntact_iff (m : Memory) (a : Nat) :
    blocksIntact (m.block a 256) = true ↔
      byteSum ((List.range 128).map fun i => m.read (a + i)) = 0 ∧
        byteSum ((List.range 128).map fun i => m.read (a + (128 + i))) = 0 := by
  have hfirst : (m.block a 256).take 128 = (List.range 128).map fun i => m.read (a + i) := by
    rw [Memory.block_eq, ← List.map_take, List.take_range]
    rfl
  have hsecond : ((m.block a 256).drop 128).take 128 = (List.range 128).map fun i => m.read (a + (128 + i)) := by
    refine List.ext_getElem (by simp [Memory.block_length]) fun i h1 h2 => ?_
    simp [Memory.block_eq]
  rw [blocksIntact, decide_eq_true_eq, blockSums, hfirst, hsecond, List.cons.injEq, List.cons.injEq]
  simp

end Sys2Proof.Machine
end

section
/-! PROOFS. IDENT_SERVE (R131): its result data, its checks, and its replacement. -/

namespace Sys2Proof.Machine

open Sys2Proof

theorem boolByte_isHeadB (h : HeadId) : boolByte (isHeadB h) = byte (h.1 % 2) := by
  unfold isHeadB
  by_cases hb : h.1 % 2 = 1
  · rw [decide_eq_true hb, hb]
    rfl
  · rw [decide_eq_false hb, show h.1 % 2 = 0 by omega]
    rfl

/-- The source of a served image as its two bytes. -/
theorem serveData_eq (h : HeadId) (sums : List Byte) (s : State) :
    serveData h sums s =
      [byte (h.1 / 2), byte (h.1 % 2), s.served[h.1].state.code] ++
        [s.served[h.1].source.kind, s.served[h.1].source.screenByte] ++ sums := by
  unfold serveData
  rw [boolByte_isHeadB]
  rfl

theorem sumsFor_slot (img : Image) : sumsFor .slot img = [byteSum (img.toList.take 128), byteSum (img.toList.drop 128)] := by
  have hlast : (img.toList.drop 128).take 128 = img.toList.drop 128 := List.take_of_length_le (by simp)
  show blockSums img.toList = _
  rw [blockSums, hlast]

theorem sumsFor_of_ne {src : ServedSource} (h : src ≠ .slot) (img : Image) : sumsFor src img = [0, 0] := by
  cases src with
  | nothing => rfl
  | screen sc => rfl
  | slot => exact absurd rfl h

/-- The replacement to NONE begun at once (R129). -/
theorem changeServed_silent {h : HeadId} {f : Bool} {s : State} (hp : s.served[h.1].pending = none) :
    let silent := modServed h (fun v => { v with
      state := .silent, source := .nothing, follow := f, answering := false, hotplug := false,
      completing := none, announceUntil := none }) s
    changeServed h (fun v => { v with
        state := .silent, source := .nothing, follow := f, answering := false, hotplug := false, pending := none,
        completing := none, announceUntil := none }) s =
      if s.served[h.1].state = .silent ∧ s.served[h.1].source = .nothing ∧ s.served[h.1].follow = f ∧ s.served[h.1].hotplug = false
      then silent else noticeOf (.served h) silent := by
  intro silent
  have hcongr : changeServed h (fun v => { v with
        state := .silent, source := .nothing, follow := f, answering := false, hotplug := false, pending := none,
        completing := none, announceUntil := none }) s =
      changeServed h (fun v => { v with
        state := .silent, source := .nothing, follow := f, answering := false, hotplug := false,
        completing := none, announceUntil := none }) s :=
    changeServed_congr (by rw [← hp])
  rw [hcongr]
  split_ifs with hsame
  · obtain ⟨hst, hsrc, hf, hhot⟩ := hsame
    exact changeServed_of_same ((served_mirrored_eq_iff _ _).2 ⟨hst.symm, hsrc.symm, hf.symm, hhot.symm, rfl⟩)
  · refine changeServed_of_changed fun e => hsame ?_
    obtain ⟨hst, hsrc, hf, hhot, _⟩ := (served_mirrored_eq_iff _ _).1 e
    exact ⟨hst.symm, hsrc.symm, hf.symm, hhot.symm⟩

/-- What an accepted replacement does to its head, where a copy copies `image`. -/
theorem requestReplacement_spec {h : HeadId} {rep : Replacement} {image : Image} {s : State} {c : CellId} {o : Served} (ho : s.served[h.1] = o)
    (hcell : rep.cell = some c)
    (hcopy : rep.source ≠ .nothing → beginReplacement h rep s =
      completeServe h s.served[h.1].completing .superseded (sumsFor s.served[h.1].source s.served[h.1].store)
        (changeServed h (fun v => v.replacing rep image s.now) s)) :
    let superseded (r : State) : State := completeServe h o.completing .superseded (sumsFor o.source o.store) r
    (∀ old, o.pending = some old → requestReplacement h rep s =
      completeServe h old.cell .superseded [0, 0] (modServed h (fun v => { v with pending := some rep }) s)) ∧
    (o.pending = none → o.inTransaction = true ∨ o.state = .replacing → requestReplacement h rep s =
      noticeOf (.served h) (modServed h (fun v => { v with pending := some rep }) s)) ∧
    (o.pending = none → o.inTransaction = false → o.state ≠ .replacing →
      (rep.source ≠ .nothing → requestReplacement h rep s =
        superseded (noticeOf (.served h) (modServed h (fun v => { v with
          state := .replacing, completing := none, announceUntil := none,
          copy := some { rep := rep, image := image, due := s.now + 1000, before := o.state } }) s))) ∧
      (rep.source = .nothing →
        let silent := modServed h (fun v => { v with
          state := .silent, source := .nothing, follow := rep.follow, answering := false, hotplug := false,
          completing := none, announceUntil := none }) s
        requestReplacement h rep s = superseded (completeServe h (some c) .ok [0, 0]
          (if o.state = .silent ∧ o.source = .nothing ∧ o.follow = rep.follow ∧ o.hotplug = false then silent
            else noticeOf (.served h) silent)))) := by
  subst ho
  intro superseded
  refine ⟨fun old hp => requestReplacement_pending hp, requestReplacement_waits, fun hp ht hst => ⟨fun hsrc => ?copy, fun hsrc => ?silent⟩⟩
  case copy => rw [requestReplacement_now hp ht hst, hcopy hsrc, changeServed_replacing hp hst]
  case silent =>
    intro silent
    rw [requestReplacement_now hp ht hst, beginReplacement_nothing hsrc, changeServed_silent hp, hcell]

/-- Settles O44. -/
theorem identServeRequestsReplacement : Obligations.IdentServeRequestsReplacement := by
  unfold Obligations.IdentServeRequestsReplacement
  refine ⟨fun h c r sums s => ?data, fun src img => ?sums, fun t c s hready => ?serve⟩
  case data =>
    intro v
    refine ⟨rfl, ?_⟩
    show complete c r (serveData h sums s) s = _
    rw [serveData_eq]
    show complete c r ([byte (h.1 / 2), byte (h.1 % 2), v.state.code] ++ [v.source.kind, v.source.screenByte] ++ sums) s = _
    cases v.source with
    | nothing => rfl
    | screen sc => rfl
    | slot => rfl
  case sums =>
    split_ifs with hsrc
    · rw [hsrc, sumsFor_slot]
    · exact sumsFor_of_ne hsrc img
  intro u p refused
  have hp (i : Nat) (hi : i < 52) : (at8 (s.cellParams c) i).toNat = p i := congrArg BitVec.toNat (cellParams_at8 s c i hi)
  have hexec : exec (.identServe t c) s = .next (ownIdentServe c (s.cellParams c) u) :=
    takeCell_quiet hready (by rw [ownIdentServe_focus]; exact hready.1.2)
  refine ⟨fun hbad => ?bad, fun h hh h1 h4 h5 => ?_⟩
  case bad =>
    refine hexec.trans (congrArg _ (ownIdentServe_badParam (serveOf_eq_none ?_)))
    rw [hp 0 (by omega), hp 1 (by omega), hp 2 (by omega), hp 3 (by omega), hp 4 (by omega), hp 5 (by omega)]
    exact hbad
  intro o w slot accepted
  have hserve {src : ServedSource} (hsrc : servedSourceOf (at8 (s.cellParams c) 2) (at8 (s.cellParams c) 3) = some src) :
      serveOf c (s.cellParams c) = some (h, serveRep c (s.cellParams c) src) :=
    serveOf_of (by rw [hp 0 (by omega), hp 1 (by omega)]; exact hh) (by rw [hp 1 (by omega)]; exact h1)
      (by rw [hp 4 (by omega)]; exact h4) (by rw [hp 5 (by omega)]; exact h5) hsrc
  have hrep (src : ServedSource) : serveRep c (s.cellParams c) src =
      { source := src, announce := decide (p 4 = 1), follow := decide (p 5 = 1), cell := some c } := by
    unfold serveRep
    rw [hp 4 (by omega), hp 5 (by omega)]
  have haccepted {src : ServedSource} {image : Image} {x : State}
      (hsrc : servedSourceOf (at8 (s.cellParams c) 2) (at8 (s.cellParams c) 3) = some src) (hw : s.watched h = true)
      (hx : beforeSlot src u = x) (hserved : x.served[h.1] = o) (hr : serveRefusal x h src = none)
      (hcopy : ∀ rep : Replacement, rep.source = src → src ≠ .nothing → beginReplacement h rep x =
        completeServe h x.served[h.1].completing .superseded (sumsFor x.served[h.1].source x.served[h.1].store)
          (changeServed h (fun v => v.replacing rep image x.now) x)) : accepted x src image := by
    subst hx
    have hnext := hexec.trans (congrArg _ (ownIdentServe_accepted (hserve hsrc) (s := u) hw hr))
    rw [hrep] at hnext
    obtain ⟨hpending, hwaits, hnow⟩ := requestReplacement_spec (c := c) (image := image)
      (rep := { source := src, announce := decide (p 4 = 1), follow := decide (p 5 = 1), cell := some c })
      hserved rfl (hcopy _ rfl)
    refine ⟨fun old ho => hnext.trans (congrArg _ (hpending old ho)), fun ho hb => hnext.trans (congrArg _ (hwaits ho hb)),
      fun ho ht hst => ⟨fun hne => hnext.trans (congrArg _ ((hnow ho ht hst).1 hne)), fun heq => ?_⟩⟩
    exact hnext.trans (congrArg _ ((hnow ho ht hst).2 heq))
  have hrefused {src : ServedSource} {r : Result} (hsrc : servedSourceOf (at8 (s.cellParams c) 2) (at8 (s.cellParams c) 3) = some src)
      (hw : s.watched h = true) (hr : serveRefusal (beforeSlot src u) h src = some r) :
      exec (.identServe t c) s = .next (complete c r [] (beforeSlot src u)) :=
    hexec.trans (congrArg _ (ownIdentServe_refused (hserve hsrc) (s := u) hw hr))
  refine ⟨fun hw h2 h23 => ?unwatched, fun hw => ⟨fun h2 => ?toNone, fun h2 sc hsc => ⟨fun hunfit => ?unfitted, fun hfit => ⟨fun hheld => ?unheld,
    fun hheld => ?toScreen⟩⟩, fun h2 => ?toSlot⟩⟩
  case unwatched =>
    obtain ⟨src, hsrc⟩ : ∃ src, servedSourceOf (at8 (s.cellParams c) 2) (at8 (s.cellParams c) 3) = some src := by
      obtain h0 | h1 | h2 : p 2 = 0 ∨ p 2 = 1 ∨ p 2 = 2 := by omega
      · exact ⟨_, servedSourceOf_nothing (by rw [hp 2 (by omega), h0])⟩
      · exact ⟨_, servedSourceOf_screen (sc := ⟨p 3, h23 h1⟩) (by rw [hp 2 (by omega), h1]) (hp 3 (by omega))⟩
      · exact ⟨_, servedSourceOf_slot (by rw [hp 2 (by omega), h2])⟩
    exact hexec.trans (congrArg _ (ownIdentServe_unwatched (hserve hsrc) (s := u) hw))
  case toNone =>
    exact haccepted (servedSourceOf_nothing (by rw [hp 2 (by omega), h2])) hw rfl rfl (serveRefusal_nothing (s := u) hw)
      fun _ _ hne => absurd rfl hne
  case unfitted =>
    refine hrefused (servedSourceOf_screen (sc := sc) (by rw [hp 2 (by omega), h2]) (by rw [hp 3 (by omega), hsc])) hw ?_
    refine (serveRefusal_screen (s := u) hw).trans (if_pos ?_)
    exact Bool.eq_false_iff.2 fun hf => absurd ((fittedScreen_iff u sc).1 hf) (not_lt.2 hunfit)
  case unheld =>
    refine hrefused (servedSourceOf_screen (sc := sc) (by rw [hp 2 (by omega), h2]) (by rw [hp 3 (by omega), hsc])) hw ?_
    refine (serveRefusal_screen (s := u) hw).trans ((if_neg ?_).trans (if_neg ?_))
    · rw [(fittedScreen_iff u sc).2 hfit]
      nofun
    · rw [show u.idents[sc.1].held = false from hheld]
      nofun
  case toScreen =>
    refine haccepted (servedSourceOf_screen (sc := sc) (by rw [hp 2 (by omega), h2]) (by rw [hp 3 (by omega), hsc])) hw rfl rfl ?_
      fun rep hsrc _ => beginReplacement_screen hsrc
    refine (serveRefusal_screen (s := u) hw).trans ((if_neg ?_).trans (if_pos hheld))
    rw [(fittedScreen_iff u sc).2 hfit]
    nofun
  case toSlot =>
    intro intact
    have hsrc := servedSourceOf_slot (kind := at8 (s.cellParams c) 2) (screen := at8 (s.cellParams c) 3) (by rw [hp 2 (by omega), h2])
    have hw' : w.watched h = true := (beforeSlot_watched (s := u) (h := h) .slot).trans hw
    have hblocks : blocksIntact (w.xm.mem.block (slotAddress h) 256) = true ↔ intact := blocksIntact_iff _ _
    refine ⟨fun hbad => hrefused hsrc hw ?_, fun hgood => haccepted hsrc hw rfl ?_ ?_ fun rep hrep _ => ?_⟩
    · exact (serveRefusal_slot hw').trans (if_neg fun hi => hbad (hblocks.1 hi))
    · show w.served[h.1] = s.served[h.1]
      simp only [w, releaseReady_served]
      rfl
    · exact (serveRefusal_slot hw').trans (if_pos (hblocks.2 hgood))
    · have hbegin := beginReplacement_slot (h := h) (s := w) hrep
      rw [show releaseReady w = w from releaseReady_releaseReady u] at hbegin
      exact hbegin

end Sys2Proof.Machine
end

section
/-! PROOFS. Reports to the composer's view and the returns they ask (R92, R103, R104), and the samples of the sense rotation (R135 to R139). -/

namespace Sys2Proof.Machine

open Sys2Proof

/-! ## The composer's view -/

theorem Composer.conditions_congr {c d : Composer} (hview : c.view = d.view) (hscreens : c.screens = d.screens) (sc : ScreenId) :
    c.conditions sc = d.conditions sc := by
  unfold Composer.conditions
  rw [hview, hscreens]

theorem conditions_eq_iff {v s : State} {sc : ScreenId} :
    v.comp.conditions sc = s.comp.conditions sc ↔ ∀ i : Fin 4, v.tileCond sc i = s.tileCond sc i := by
  unfold Composer.conditions
  simp only [List.cons.injEq, and_true, Fin.forall_fin_succ, State.tileCond, State.tileSource]
  exact ⟨fun ⟨h0, h1, h2, h3⟩ => ⟨h0, h1, h2, h3, nofun⟩, fun ⟨h0, h1, h2, h3, _⟩ => ⟨h0, h1, h2, h3⟩⟩

/-- The state with a report taken into the composer's view. -/
def viewed (k : TargetId) (f : TargetView → TargetView) (s : State) : State :=
  { s with comp := { s.comp with view := upd s.comp.view k f } }

/-- One screen's part of a report, whose tiles have changed conditions when `changed` says so. -/
def viewScreen (changed : ScreenId → Prop) [DecidablePred changed] (s : State) (sc : ScreenId) : State :=
  if changed sc then noticeOf (.plans sc) (presentIfDisabled sc s) else s

theorem presentIfDisabled_records (sc : ScreenId) (s : State) :
    (presentIfDisabled sc s).comp.view = s.comp.view ∧ (presentIfDisabled sc s).comp.screens = s.comp.screens := by
  unfold presentIfDisabled
  split
  · dsimp only [presentScreen, Composer.present, Composer.writeFields]
    exact ⟨rfl, rfl⟩
  · exact ⟨rfl, rfl⟩

/-- The presentations of a report do not change the conditions that it has changed. -/
theorem foldl_viewScreen {v : State} {old : Composer} {g : State → ScreenId → State}
    (hg : ∀ w sc, g w sc = if v.comp.conditions sc = old.conditions sc then w else noticeOf (.plans sc) (presentIfDisabled sc w))
    (scs : List ScreenId) (w : State) (hview : w.comp.view = v.comp.view) (hscreens : w.comp.screens = v.comp.screens) :
    scs.foldl (fun s sc =>
      if s.comp.conditions sc = old.conditions sc then s else noticeOf (.plans sc) (presentIfDisabled sc s)) w = scs.foldl g w := by
  induction scs generalizing w with
  | nil => rfl
  | cons sc scs ih =>
    have hsame := Composer.conditions_congr hview hscreens sc
    rw [List.foldl_cons, List.foldl_cons, hsame, hg]
    by_cases hc : v.comp.conditions sc = old.conditions sc
    · rw [if_pos hc]
      exact ih w hview hscreens
    · rw [if_neg hc]
      obtain ⟨hview', hscreens'⟩ := presentIfDisabled_records sc w
      exact ih _ (hview'.trans hview) (hscreens'.trans hscreens)

/-- A report as the fold over the screens whose tiles change (R92, R93). -/
theorem viewReport_eq (k : TargetId) (f : TargetView → TargetView) (s : State) :
    viewReport k f s = (ids 6).foldl (fun w sc =>
      if ∀ i : Fin 4, (viewed k f s).tileCond sc i = s.tileCond sc i then w
      else noticeOf (.plans sc)
        (if w.comp.screens[sc.1].state = .disabled then { w with comp := w.comp.present sc } else w)) (viewed k f s) := by
  refine foldl_viewScreen (v := viewed k f s) (old := s.comp) (fun w sc => ?_) (ids 6) (viewed k f s) rfl rfl
  by_cases hc : (viewed k f s).comp.conditions sc = s.comp.conditions sc
  · rw [if_pos hc, if_pos (conditions_eq_iff.1 hc)]
  · rw [if_neg hc, if_neg fun h => hc (conditions_eq_iff.2 h)]
    rfl

theorem tileCond_none {sc : ScreenId} {i : Fin 4} {s : State} (h : s.tileSource sc i = none) : s.tileCond sc i = .dark := by
  unfold State.tileCond
  rw [h]
  rfl

theorem tileCond_some {sc : ScreenId} {i : Fin 4} {s : State} {h : HeadId} (hsrc : s.tileSource sc i = some h) :
    s.tileCond sc i =
      if (if h.1 % 2 = 1 then s.comp.view[(headTarget h).1].headB else s.comp.view[(headTarget h).1].headA) = .present ∧
          s.comp.view[(headTarget h).1].power = .on ∧ s.comp.view[(headTarget h).1].link = .up then
        if s.comp.view[(headTarget h).1].excluded then .excluded else .live
      else .inert := by
  unfold State.tileCond
  rw [hsrc]
  simp only [sourceCond, isHeadB, decide_eq_true_eq]
  by_cases hall : (if h.1 % 2 = 1 then s.comp.view[(headTarget h).1].headB else s.comp.view[(headTarget h).1].headA) = .present ∧
      s.comp.view[(headTarget h).1].power = .on ∧ s.comp.view[(headTarget h).1].link = .up
  · rw [if_pos hall, if_neg (by tauto)]
  · rw [if_neg hall, if_pos (by tauto)]

/-! ## Returns (R103) -/

section
variable {lent : Loan → Bool} {sc : ScreenId} {s : State}

theorem returnOn_none (h : ∀ l ∈ s.comp.screens[sc.1].comingLoans, lent l = false) : returnOn lent s sc = s := by
  refine if_neg ?_
  rw [List.any_eq_true]
  rintro ⟨l, hl, hlent⟩
  rw [h l hl] at hlent
  cases hlent

theorem returnOn_return {p : Plan} (h : ∃ l ∈ s.comp.screens[sc.1].comingLoans, lent l = true)
    (hret : s.comp.screens[sc.1].ret = some p) :
    returnOn lent s sc = stage sc { plan := p, purpose := .giveBack, home := false, loansAfter := [], cells := [] } s := by
  unfold returnOn
  dsimp only
  rw [if_pos (List.any_eq_true.2 h)]
  cases hg : s.comp.screens[sc.1].staged with
  | none => rw [hret]
  | some g => rw [hret]

theorem returnOn_withdraw {g : Staged} (h : ∃ l ∈ s.comp.screens[sc.1].comingLoans, lent l = true)
    (hret : s.comp.screens[sc.1].ret = none) (hg : s.comp.screens[sc.1].staged = some g) :
    returnOn lent s sc = post (.withdrawn sc) (noticeOf (.plans sc) (completeAll g.cells .aborted (planData sc)
      (modScreen sc (fun r => { r with staged := none }) s))) := by
  unfold returnOn
  dsimp only
  rw [if_pos (List.any_eq_true.2 h), hg, hret]

theorem returnOn_nothing (h : ∃ l ∈ s.comp.screens[sc.1].comingLoans, lent l = true)
    (hret : s.comp.screens[sc.1].ret = none) (hg : s.comp.screens[sc.1].staged = none) : returnOn lent s sc = s := by
  unfold returnOn
  dsimp only
  rw [if_pos (List.any_eq_true.2 h), hg, hret]
end

/-! ## Samples (R135 to R139) -/

theorem classify_eq (q : Setup) (state : Power) (v : Nat) :
    classify q state v =
      match state with
      | .unknown | .off => if q.high ≤ v then .on else if q.low ≤ v then .asleep else .off
      | .asleep => if q.high ≤ v then .on else if q.low - q.hysteresis ≤ v then .asleep else .off
      | .on => if q.high - q.hysteresis ≤ v then .on else if q.low - q.hysteresis ≤ v then .asleep else .off := by
  cases state with
  | unknown => rfl
  | off => rfl
  | asleep => rfl
  | on => rfl

section
variable {r : PowerRec} {v : Nat} {level : Power}

theorem sampled_same (h : level = r.state) : r.sampled v level = { state := r.state, sample := v, runLevel := none, runCount := 0 } :=
  if_pos h

theorem sampled_run (h : level ≠ r.state) (hrun : (if r.runLevel = some level then r.runCount + 1 else 1) < 3) :
    r.sampled v level =
      { state := r.state, sample := v, runLevel := some level,
        runCount := if r.runLevel = some level then r.runCount + 1 else 1 } :=
  (if_neg h).trans (if_neg (not_le.2 hrun))

theorem sampled_changed (h : level ≠ r.state) (hrun : 3 ≤ if r.runLevel = some level then r.runCount + 1 else 1) :
    r.sampled v level = { state := level, sample := v, runLevel := none, runCount := 0 } :=
  (if_neg h).trans (if_pos hrun)
end

/-- A change of a power state told to the composer, the panel scanner and the focus controller (R139). -/
def powerTold (k : TargetId) (old : Power) (r : PowerRec) (s : State) : State :=
  powerToPanel k r.state (powerToComposer k old r.state (post (.power k r.state) (noticeOf (.power k) (modPower k (fun _ => r) s))))

theorem setPowerRec_same {k : TargetId} {r : PowerRec} {s : State} (h : s.power[k.1].state = r.state) :
    setPowerRec k r s = rewriteOf (.power k) (modPower k (fun _ => r) s) := if_pos h

theorem setPowerRec_changed {k : TargetId} {r : PowerRec} {s : State} (h : s.power[k.1].state ≠ r.state) :
    setPowerRec k r s =
      if r.state = .on ∧ (powerTold k s.power[k.1].state r s).wakes[k.1].state ≠ .idle then
        endWake k .ok (powerTold k s.power[k.1].state r s)
      else powerTold k s.power[k.1].state r s := by
  refine (if_neg h).trans ?_
  show (if r.state = .on then wakeOnPower k (powerTold k _ r s) else powerTold k _ r s) = _
  unfold wakeOnPower
  by_cases hon : r.state = .on
  · by_cases hidle : (powerTold k s.power[k.1].state r s).wakes[k.1].state = .idle
    · rw [if_pos hon, if_pos hidle, if_neg fun hh => hh.2 hidle]
    · rw [if_pos hon, if_neg hidle, if_pos ⟨hon, hidle⟩]
  · rw [if_neg hon, if_neg fun hh => hon hh.1]

theorem kept_powerTold (k : TargetId) (old : Power) (r : PowerRec) (s : State) :
    Kept (modPower k (fun _ => r) s) (powerTold k old r s) :=
  (((kept_noticeOf _ _).trans (kept_post _ _)).trans (kept_powerToComposer _ _ _ _)).trans (kept_powerToPanel _ _ _)

/-- The slot of the rotation that ends, on the state with the next slot begun. -/
theorem takeSample_fitted {result : Int} {s : State} (hfit : s.fittedTarget s.senseSlot = true) :
    takeSample result s =
      setPowerRec s.senseSlot
        (s.power[s.senseSlot.1].sampled (sampleOf s.setups[s.senseSlot.1].falling result)
          (classify s.setups[s.senseSlot.1] s.power[s.senseSlot.1].state (sampleOf s.setups[s.senseSlot.1].falling result)))
        { s with senseSlot := s.senseSlot + 1 } := if_pos hfit

theorem takeSample_unfitted {result : Int} {s : State} (hfit : s.fittedTarget s.senseSlot = false) :
    takeSample result s = { s with senseSlot := s.senseSlot + 1 } :=
  if_neg (by rw [Bool.not_eq_true]; exact hfit)

theorem exec_powerSample {t : Nat} {result : Int} {s : State} (hs : s.live) (hrun : s.runState ≠ .starting) :
    exec (.powerSample t result) s = .next (settle (takeSample result (s.advance t))) := by
  refine (act_live (f := fun s => if s.runState = .starting then s else takeSample result s) hs).trans ?_
  rw [if_neg (show ¬(s.advance t).runState = .starting from hrun)]

theorem exec_powerSample_starting {t : Nat} {result : Int} {s : State} (hs : s.live) (hrun : s.runState = .starting) :
    exec (.powerSample t result) s = .next (s.advance t) := by
  refine (act_live (f := fun s => if s.runState = .starting then s else takeSample result s) hs).trans ?_
  rw [if_pos (show (s.advance t).runState = .starting from hrun), settle_advance hs]

/-- Settles O47. -/
theorem sampleClassifiesAndCounts : Obligations.SampleClassifiesAndCounts := by
  unfold Obligations.SampleClassifiesAndCounts
  refine ⟨fun t result s hs => ?samples, viewReport_eq, fun sc i s => ⟨tileCond_none, fun h hsrc => ?conds⟩, fun sc s => ?data,
    fun k old new s => rfl, fun h p s => ?presence, fun lent sc s => ?returns, fun sc g s => ?stages⟩
  case conds =>
    intro v shows
    exact ⟨fun hn => (tileCond_some hsrc).trans (if_neg hn), fun hall => (tileCond_some hsrc).trans (if_pos hall)⟩
  case data =>
    have hloans (ls : List Loan) : boolByte (!ls.isEmpty) = if ls = [] then 0 else 1 := by
      cases ls with
      | nil => rfl
      | cons l ls => rfl
    rw [← hloans]
    rfl
  case presence =>
    unfold presenceToComposer
    simp only [isHeadB, decide_eq_true_eq]
    rfl
  case returns =>
    intro r coming
    refine ⟨returnOn_none, fun h => ⟨fun p hret => returnOn_return h hret, fun hret => ⟨fun hg => returnOn_nothing h hret hg,
      fun g hg => returnOn_withdraw h hret hg⟩⟩⟩
  case stages =>
    intro r old staged
    exact ⟨stage_of_running, stage_of_disabled, stage_of_unfitted⟩
  case samples =>
    intro u k w q r limited v level run sampled
    have hlevel : classify q r.state v = level := classify_eq q r.state v
    have hfitted (hrun : s.runState ≠ .starting) (hfit : s.fittedTarget k = true) :
        exec (.powerSample t result) s = .next (settle (setPowerRec k (r.sampled v level) w)) := by
      rw [exec_powerSample hs hrun, takeSample_fitted (s := s.advance t) hfit, ← hlevel]
      rfl
    have hrewritten {r' : PowerRec} (hrun : s.runState ≠ .starting) (hfit : s.fittedTarget k = true) (hst : r.state = r'.state)
        (hr' : r.sampled v level = r') : exec (.powerSample t result) s = .next (rewriteOf (.power k) (sampled r')) := by
      rw [hfitted hrun hfit, hr', setPowerRec_same (s := w) hst]
      exact congrArg _ (settle_of_empty (rewriteOf (.power k) (sampled r')) hs.2)
    refine ⟨exec_powerSample_starting hs, fun hrun => ⟨fun hfit => ?unfitted, fun hfit => ⟨fun hl => ?same, fun hl hlt => ?run,
      fun hl hle => ?changed⟩⟩⟩
    case unfitted =>
      rw [exec_powerSample hs hrun, takeSample_unfitted (s := s.advance t) hfit]
      exact congrArg _ (settle_of_empty w hs.2)
    case same => exact hrewritten hrun hfit rfl (sampled_same hl)
    case run => exact hrewritten hrun hfit rfl (sampled_run hl hlt)
    case changed =>
      intro changed told done
      have hset : setPowerRec k (r.sampled v level) w =
          if level = .on ∧ told.wakes[k.1].state ≠ .idle then endWake k .ok told else told := by
        rw [sampled_changed hl hle]
        exact setPowerRec_changed (s := w) (Ne.symm hl)
      refine ⟨by rw [hfitted hrun hfit, hset], Kept.trans ?_ (kept_settle _)⟩
      have htold : Kept changed told := kept_powerTold k r.state { state := level, sample := v, runLevel := none, runCount := 0 } w
      split
      · exact htold.trans (kept_endWake _ _ _)
      · exact htold

end Sys2Proof.Machine
end

section
/-! PROOFS. Wake operations: their requests and attempts (R144 to R148, R151). -/

namespace Sys2Proof.Machine

open Sys2Proof

/-! ## Work on one wake operation -/

/-- `t` is `s` with the target's wake operation at `op`, after work that hands the focus controller nothing and leaves the panel as it is. -/
structure WakeWork (k : TargetId) (op : WakeOp) (s t : State) : Prop where
  kept : Kept s t
  wakes : t.wakes = upd s.wakes k (fun _ => op)
  focus : t.focus = s.focus
  panel : t.panel = s.panel

namespace WakeWork
variable {k : TargetId} {op op' : WakeOp} {s t u : State}

theorem own (h : WakeWork k op s t) : t.wakes[k.1] = op := by
  simp only [h.wakes, upd_self]

theorem trans (h : WakeWork k op s t) (g : WakeWork k op' t u) : WakeWork k op' s u := by
  refine ⟨h.kept.trans g.kept, ?_, g.focus.trans h.focus, g.panel.trans h.panel⟩
  rw [g.wakes, h.wakes, upd_upd]

/-- Work that leaves the wake operations as they are. -/
theorem still (h : WakeWork k op s t) (hk : Kept t u) (hw : u.wakes = t.wakes) (hf : u.focus = t.focus) (hp : u.panel = t.panel) :
    WakeWork k op s u :=
  ⟨h.kept.trans hk, hw.trans h.wakes, hf.trans h.focus, hp.trans h.panel⟩
end WakeWork

theorem wakeWork_modWake (k : TargetId) (f : WakeOp → WakeOp) (s : State) : WakeWork k (f s.wakes[k.1]) s (modWake k f s) :=
  ⟨kept_modWake k f s, upd_congr rfl, rfl, rfl⟩

@[simp] theorem noticeOf_panel (p : Share) (s : State) : (noticeOf p s).panel = s.panel := rfl

theorem wakeWork_enterPhase (k : TargetId) (st : WakeState) (due : Option Nat) (s : State) :
    WakeWork k { s.wakes[k.1] with state := st, due := due } s (enterPhase k st due s) :=
  (wakeWork_modWake k (fun w => { w with state := st, due := due }) s).still (kept_noticeOf _ _) rfl rfl rfl

theorem modWake_modWake (k : TargetId) (f g : WakeOp → WakeOp) (s : State) :
    modWake k g (modWake k f s) = modWake k (fun w => g (f w)) s := by
  simp only [modWake, upd_upd]

theorem modWake_congr {k : TargetId} {f g : WakeOp → WakeOp} {s : State} (h : f s.wakes[k.1] = g s.wakes[k.1]) :
    modWake k f s = modWake k g s := by
  simp only [modWake, upd_congr h]

theorem modWake_of_same {k : TargetId} {f : WakeOp → WakeOp} {s : State} (h : f s.wakes[k.1] = s.wakes[k.1]) : modWake k f s = s := by
  simp only [modWake, upd_same _ _ _ h]

theorem modWake_self (k : TargetId) (f : WakeOp → WakeOp) (s : State) : (modWake k f s).wakes[k.1] = f s.wakes[k.1] := upd_self _ _ _

theorem wakePolicy_of_wakes {k : TargetId} {s t : State} (hw : t.wakes[k.1].policy = s.wakes[k.1].policy) (hs : t.setups = s.setups) :
    t.wakePolicy k = s.wakePolicy k := by
  unfold State.wakePolicy
  rw [hw, hs]

/-! ## Pulses -/

section
variable {k : TargetId} {s : State}

theorem ms_eq (n : Nat) : Config.ms n = 1000 * n := Nat.mul_comm n 1000

/-- The wake pulse is for a target that is OFF or ASLEEP. -/
def AsksPulse (p : Power) : Prop := p = .off ∨ p = .asleep

theorem startPulse_asks (h : AsksPulse s.power[k.1].state) :
    startPulse k s =
      enterPhase k .pulsing (some (s.now + Config.ms (s.wakePolicy k).width))
        (modWake k (fun w => { w with outHigh := (s.wakePolicy k).activeHigh }) s) := by
  unfold startPulse
  obtain h | h := h
  · rw [h]
  · rw [h]

theorem startPulse_watches (h : ¬AsksPulse s.power[k.1].state) : startPulse k s = enterWatching k s := by
  unfold startPulse
  cases hp : s.power[k.1].state with
  | off => exact absurd (.inl hp) h
  | asleep => exact absurd (.inr hp) h
  | unknown => rfl
  | on => rfl

theorem wakeWork_startPulse (h : AsksPulse s.power[k.1].state) :
    WakeWork k { s.wakes[k.1] with
      state := .pulsing, due := some (s.now + 1000 * (s.wakePolicy k).width), outHigh := (s.wakePolicy k).activeHigh } s
      (startPulse k s) := by
  rw [startPulse_asks h, ms_eq]
  have hout := wakeWork_modWake k (fun w => { w with outHigh := (s.wakePolicy k).activeHigh }) s
  have hphase := wakeWork_enterPhase k .pulsing (some (s.now + 1000 * (s.wakePolicy k).width))
    (modWake k (fun w => { w with outHigh := (s.wakePolicy k).activeHigh }) s)
  rw [modWake_self] at hphase
  exact hout.trans hphase

theorem wakeWork_enterWatching :
    WakeWork k { s.wakes[k.1] with state := .watching, due := some (s.now + 1000000 * (s.wakePolicy k).window) } s
      (enterWatching k s) := by
  have hms : Config.ms (1000 * (s.wakePolicy k).window) = 1000000 * (s.wakePolicy k).window := by
    unfold Config.ms
    omega
  unfold enterWatching
  rw [hms]
  exact wakeWork_enterPhase _ _ _ _

/-! ## Attempts (R145 to R147) -/

/-- The operation at the start of an attempt. -/
def WakeOp.attempt (w : WakeOp) (m : Method) : WakeOp := { w with attempts := w.attempts + 1, method := some m }

/-- The phase that a pulse attempt enters first. -/
def pulseDelayed (k : TargetId) (s : State) : State :=
  enterPhase k .delaying (some (s.now + Config.ms (s.wakePolicy k).delay)) (modWake k (fun w => w.attempt .pulse) s)

theorem wakeWork_pulseDelayed :
    WakeWork k { s.wakes[k.1].attempt .pulse with state := .delaying, due := some (s.now + 1000 * (s.wakePolicy k).delay) } s
      (pulseDelayed k s) := by
  have hattempt := wakeWork_modWake k (fun w => w.attempt .pulse) s
  have hphase := wakeWork_enterPhase k .delaying (some (s.now + 1000 * (s.wakePolicy k).delay))
    (modWake k (fun w => w.attempt .pulse) s)
  rw [modWake_self] at hphase
  unfold pulseDelayed
  rw [ms_eq]
  exact hattempt.trans hphase

theorem runAttempt_pulse :
    runAttempt k .pulse s =
      if (s.wakePolicy k).delay = 0 then startPulse k (pulseDelayed k s) else pulseDelayed k s := by
  have hpolicy : (modWake k (fun w => w.attempt .pulse) s).wakePolicy k = s.wakePolicy k :=
    wakePolicy_of_wakes (by rw [modWake_self]; rfl) rfl
  unfold runAttempt pulseDelayed
  dsimp only
  rw [show (fun w : WakeOp => { w with attempts := w.attempts + 1, method := some Method.pulse }) = fun w => w.attempt .pulse from rfl,
    hpolicy]
  rfl

theorem pulseDelayed_policy : (pulseDelayed k s).wakePolicy k = s.wakePolicy k :=
  wakePolicy_of_wakes (by rw [wakeWork_pulseDelayed.own]; rfl) wakeWork_pulseDelayed.kept.setups

theorem pulseDelayed_power : (pulseDelayed k s).power = s.power := wakeWork_pulseDelayed.kept.power

theorem pulseDelayed_now : (pulseDelayed k s).now = s.now := wakeWork_pulseDelayed.kept.now

theorem runAttempt_delaying (hd : 0 < (s.wakePolicy k).delay) :
    WakeWork k { s.wakes[k.1].attempt .pulse with state := .delaying, due := some (s.now + 1000 * (s.wakePolicy k).delay) } s
      (runAttempt k .pulse s) := by
  rw [runAttempt_pulse, if_neg (by omega)]
  exact wakeWork_pulseDelayed

theorem runAttempt_pulsing (hd : (s.wakePolicy k).delay = 0) (hp : AsksPulse s.power[k.1].state) :
    WakeWork k { s.wakes[k.1].attempt .pulse with
      state := .pulsing, due := some (s.now + 1000 * (s.wakePolicy k).width), outHigh := (s.wakePolicy k).activeHigh } s
      (runAttempt k .pulse s) := by
  have hstart := wakeWork_startPulse (k := k) (s := pulseDelayed k s) (by simp only [pulseDelayed_power]; exact hp)
  rw [wakeWork_pulseDelayed.own, pulseDelayed_policy, pulseDelayed_now] at hstart
  rw [runAttempt_pulse, if_pos hd]
  exact wakeWork_pulseDelayed.trans hstart

theorem runAttempt_watching (hd : (s.wakePolicy k).delay = 0) (hp : ¬AsksPulse s.power[k.1].state) :
    WakeWork k { s.wakes[k.1].attempt .pulse with
      state := .watching, due := some (s.now + 1000000 * (s.wakePolicy k).window) } s (runAttempt k .pulse s) := by
  have hwatch := wakeWork_enterWatching (k := k) (s := pulseDelayed k s)
  rw [wakeWork_pulseDelayed.own, pulseDelayed_policy, pulseDelayed_now] at hwatch
  rw [runAttempt_pulse, if_pos hd, startPulse_watches (by simp only [pulseDelayed_power]; exact hp)]
  exact wakeWork_pulseDelayed.trans hwatch

/-- The resume signal of a SUSPENDED line is driven (R16). -/
structure ResumeDriven (k : TargetId) (s : State) (r : Bool × State) : Prop where
  driven : r.1 = true
  kept : Kept s r.2
  wakes : r.2.wakes = s.wakes
  focus : r.2.focus = s.focus
  panel : r.2.panel = s.panel
  until_ : r.2.tlines[k.1].resumeUntil = some (s.tlines[k.1].resumeUntil.getD (s.now + 20000))

theorem requestResume_driven (hl : s.tlines[k.1].link = .suspended) : ResumeDriven k s (requestResume k s) := by
  have hkept := (below_requestResume k s).kept
  unfold requestResume at hkept ⊢
  dsimp only at hkept ⊢
  rw [if_pos hl] at hkept ⊢
  cases hr : s.tlines[k.1].resumeUntil with
  | some d =>
    rw [hr] at hkept
    exact ⟨rfl, hkept, rfl, rfl, rfl, by rw [hr]; rfl⟩
  | none =>
    rw [hr] at hkept
    refine ⟨rfl, hkept, rfl, rfl, rfl, ?_⟩
    show (modTLine k _ s).tlines[k.1].resumeUntil = _
    simp only [modTLine_tlines, upd_self]
    rw [hr]
    rfl

theorem runAttempt_signal (hl : s.tlines[k.1].link = .suspended) :
    WakeWork k { s.wakes[k.1].attempt .signal with state := .signalling, due := none } s (runAttempt k .signal s) ∧
      (runAttempt k .signal s).tlines[k.1].resumeUntil = some (s.tlines[k.1].resumeUntil.getD (s.now + 20000)) := by
  have hattempt := wakeWork_modWake k (fun w => w.attempt .signal) s
  have hphase := wakeWork_enterPhase k .signalling none (modWake k (fun w => w.attempt .signal) s)
  rw [modWake_self] at hphase
  have hdriven := requestResume_driven (k := k) (s := enterPhase k .signalling none (modWake k (fun w => w.attempt .signal) s)) hl
  have hrun : runAttempt k .signal s =
      (requestResume k (enterPhase k .signalling none (modWake k (fun w => w.attempt .signal) s))).2 := if_pos hdriven.driven
  rw [hrun]
  exact ⟨(hattempt.trans hphase).still hdriven.kept hdriven.wakes hdriven.focus hdriven.panel, hdriven.until_⟩
end

end Sys2Proof.Machine
end

section
/-! PROOFS. WAKE and the wake requests (R83, R144, R151, R157). -/

namespace Sys2Proof.Machine

open Sys2Proof

/-! ## The choice of a method (R145) -/

section
variable {p : Policy} {l : Link}

theorem chooseMethod_first_signal (h : l = .suspended ∧ p.signal = true) : chooseMethod true p l = some .signal := by
  unfold chooseMethod
  rw [if_pos h]
  rfl

theorem chooseMethod_first_pulse (h : ¬(l = .suspended ∧ p.signal = true)) (hp : p.pulse = true) :
    chooseMethod true p l = some .pulse := by
  unfold chooseMethod
  rw [if_neg h, hp]
  rfl

theorem chooseMethod_none {first : Bool} (h : ¬(l = .suspended ∧ p.signal = true)) (hp : p.pulse = false) :
    chooseMethod first p l = none := by
  unfold chooseMethod
  rw [if_neg h, hp]
  cases first with
  | true => rfl
  | false => rfl

theorem chooseMethod_later_pulse (hp : p.pulse = true) : chooseMethod false p l = some .pulse := by
  unfold chooseMethod
  rw [hp]
  rfl

theorem chooseMethod_later_signal (h : l = .suspended ∧ p.signal = true) (hp : p.pulse = false) :
    chooseMethod false p l = some .signal := by
  unfold chooseMethod
  rw [if_pos h, hp]
  rfl
end

/-! ## The start of an operation -/

/-- The record of an operation at its start, before its first attempt. -/
def WakeOp.fresh (w : WakeOp) (policy : Policy) (who : Requester) : WakeOp :=
  WakeOp.join { w with attempts := 0, method := none, policy := some policy, joined := [], answerFocus := false } who

/-- The state at the start of an operation, before its first attempt. -/
def wakeBegun (k : TargetId) (who : Requester) (s : State) : State :=
  wakingToPanel k true (modWake k (fun _ => s.wakes[k.1].fresh s.setups[k.1].policy who) s)

/-- `t` is `s` with the target's wake operation begun at `op`, and its WAKING view set. -/
structure WakeStarted (k : TargetId) (op : WakeOp) (s t : State) : Prop where
  kept : Kept s t
  wakes : t.wakes = upd s.wakes k (fun _ => op)
  waking : t.panel.view.waking = s.panel.view.waking.set k.1 true
  focus : t.focus = s.focus

theorem panelReport_rest (f : Panel → Panel) (s : State) :
    (panelReport f s).wakes = s.wakes ∧ (panelReport f s).focus = s.focus ∧ (panelReport f s).tlines = s.tlines ∧
      (panelReport f s).power = s.power ∧ (panelReport f s).panel.view = (f s.panel).view := by
  unfold panelReport
  dsimp only
  split
  · exact ⟨rfl, rfl, rfl, rfl, rfl⟩
  · exact ⟨rfl, rfl, rfl, rfl, rfl⟩

theorem wakeBegun_started (k : TargetId) (who : Requester) (s : State) :
    WakeStarted k (s.wakes[k.1].fresh s.setups[k.1].policy who) s (wakeBegun k who s) := by
  obtain ⟨hwakes, hfocus, -, -, hview⟩ := panelReport_rest
    (fun p => { p with view := { p.view with waking := p.view.waking.set k.1 true k.2 } })
    (modWake k (fun _ => s.wakes[k.1].fresh s.setups[k.1].policy who) s)
  exact ⟨(kept_modWake _ _ _).trans (below_wakingToPanel _ _ _).kept, hwakes, congrArg PanelView.waking hview, hfocus⟩

theorem wakeBegun_tlines (k : TargetId) (who : Requester) (s : State) : (wakeBegun k who s).tlines = s.tlines :=
  (panelReport_rest _ _).2.2.1

theorem wakeBegun_policy (k : TargetId) (who : Requester) (s : State) : (wakeBegun k who s).wakePolicy k = s.setups[k.1].policy := by
  unfold State.wakePolicy
  simp only [(wakeBegun_started k who s).wakes, upd_self]
  cases who with
  | cell c => rfl
  | focus => rfl
  | nobody => rfl

theorem WakeStarted.work {k : TargetId} {op op' : WakeOp} {s t u : State} (h : WakeStarted k op s t) (g : WakeWork k op' t u) :
    WakeStarted k op' s u := by
  refine ⟨h.kept.trans g.kept, ?_, ?_, g.focus.trans h.focus⟩
  · rw [g.wakes, h.wakes, upd_upd]
  · rw [g.panel]
    exact h.waking

theorem WakeStarted.own {k : TargetId} {op : WakeOp} {s t : State} (h : WakeStarted k op s t) : t.wakes[k.1] = op := by
  simp only [h.wakes, upd_self]

section
variable {k : TargetId} {who : Requester} {s : State}

theorem requestWake_on (hidle : s.wakes[k.1].state = .idle) (hon : s.power[k.1].state = .on) :
    requestWake k who s = answerRequester k who .ok s := (if_pos hidle).trans (if_pos hon)

theorem requestWake_no_method (hidle : s.wakes[k.1].state = .idle) (hon : s.power[k.1].state ≠ .on)
    (hm : chooseMethod true s.setups[k.1].policy s.tlines[k.1].link = none) :
    requestWake k who s = answerRequester k who .noMethod s := by
  refine (if_pos hidle).trans ((if_neg hon).trans ?_)
  dsimp only
  rw [hm]

theorem requestWake_starts {m : Method} (hidle : s.wakes[k.1].state = .idle) (hon : s.power[k.1].state ≠ .on)
    (hm : chooseMethod true s.setups[k.1].policy s.tlines[k.1].link = some m) :
    requestWake k who s = runAttempt k m (wakeBegun k who s) := by
  refine (if_pos hidle).trans ((if_neg hon).trans ?_)
  dsimp only
  rw [hm]
  rfl

theorem requestWake_joins (hrun : s.wakes[k.1].state ≠ .idle) :
    requestWake k who s =
      if (s.wakes[k.1].join who).joined = s.wakes[k.1].joined then modWake k (fun w => w.join who) s
      else rewriteOf (.power k) (modWake k (fun w => w.join who) s) := if_neg hrun

theorem WakeOp.join_new {w : WakeOp} {c : CellId} (h : c ∉ w.joined) : w.join (.cell c) = { w with joined := w.joined ++ [c] } :=
  if_neg (by simpa using h)

theorem WakeOp.join_old {w : WakeOp} {c : CellId} (h : c ∈ w.joined) : w.join (.cell c) = w := if_pos (by simpa using h)

/-- The first attempt of an operation that starts (R144, R145). -/
structure FirstAttempt (k : TargetId) (who : Requester) (s : State) : Prop where
  signal : s.tlines[k.1].link = .suspended ∧ s.setups[k.1].policy.signal = true →
    WakeStarted k { (s.wakes[k.1].fresh s.setups[k.1].policy who).attempt .signal with state := .signalling, due := none } s
      (requestWake k who s) ∧
    (requestWake k who s).tlines[k.1].resumeUntil = some (s.tlines[k.1].resumeUntil.getD (s.now + 20000))
  delaying : ¬(s.tlines[k.1].link = .suspended ∧ s.setups[k.1].policy.signal = true) → s.setups[k.1].policy.pulse = true →
    0 < s.setups[k.1].policy.delay →
    WakeStarted k { (s.wakes[k.1].fresh s.setups[k.1].policy who).attempt .pulse with
      state := .delaying, due := some (s.now + 1000 * s.setups[k.1].policy.delay) } s (requestWake k who s)
  pulsing : ¬(s.tlines[k.1].link = .suspended ∧ s.setups[k.1].policy.signal = true) → s.setups[k.1].policy.pulse = true →
    s.setups[k.1].policy.delay = 0 → AsksPulse s.power[k.1].state →
    WakeStarted k { (s.wakes[k.1].fresh s.setups[k.1].policy who).attempt .pulse with
      state := .pulsing, due := some (s.now + 1000 * s.setups[k.1].policy.width), outHigh := s.setups[k.1].policy.activeHigh } s
      (requestWake k who s)
  watching : ¬(s.tlines[k.1].link = .suspended ∧ s.setups[k.1].policy.signal = true) → s.setups[k.1].policy.pulse = true →
    s.setups[k.1].policy.delay = 0 → ¬AsksPulse s.power[k.1].state →
    WakeStarted k { (s.wakes[k.1].fresh s.setups[k.1].policy who).attempt .pulse with
      state := .watching, due := some (s.now + 1000000 * s.setups[k.1].policy.window) } s (requestWake k who s)

theorem requestWake_firstAttempt (hidle : s.wakes[k.1].state = .idle) (hon : s.power[k.1].state ≠ .on) : FirstAttempt k who s := by
  have hbegun := wakeBegun_started k who s
  have hnow : (wakeBegun k who s).now = s.now := hbegun.kept.now
  have hpower : (wakeBegun k who s).power = s.power := hbegun.kept.power
  have hpolicy := wakeBegun_policy k who s
  refine ⟨fun hs => ?signal, fun hs hp hd => ?delaying, fun hs hp hd ha => ?pulsing, fun hs hp hd ha => ?watching⟩
  case signal =>
    rw [requestWake_starts hidle hon (chooseMethod_first_signal hs)]
    have hlines := wakeBegun_tlines k who s
    obtain ⟨hwork, huntil⟩ := runAttempt_signal (k := k) (s := wakeBegun k who s) (by simp only [hlines]; exact hs.1)
    rw [hbegun.own] at hwork
    simp only [hlines, hnow] at huntil
    exact ⟨hbegun.work hwork, huntil⟩
  case delaying =>
    have hwork := runAttempt_delaying (k := k) (s := wakeBegun k who s) (by rw [hpolicy]; exact hd)
    rw [hbegun.own, hnow, hpolicy] at hwork
    rw [requestWake_starts hidle hon (chooseMethod_first_pulse hs hp)]
    exact hbegun.work hwork
  case pulsing =>
    have hwork := runAttempt_pulsing (k := k) (s := wakeBegun k who s) (by rw [hpolicy]; exact hd) (by simp only [hpower]; exact ha)
    rw [hbegun.own, hnow, hpolicy] at hwork
    rw [requestWake_starts hidle hon (chooseMethod_first_pulse hs hp)]
    exact hbegun.work hwork
  case watching =>
    have hwork := runAttempt_watching (k := k) (s := wakeBegun k who s) (by rw [hpolicy]; exact hd) (by simp only [hpower]; exact ha)
    rw [hbegun.own, hnow, hpolicy] at hwork
    rw [requestWake_starts hidle hon (chooseMethod_first_pulse hs hp)]
    exact hbegun.work hwork
end

theorem wakeRequest_unfitted {o : Operands} {s : State} (h : ∀ k : TargetId, o.target.toNat = k.1 → s.straps.targets ≤ k.1) :
    wakeRequest o s = s := by
  unfold wakeRequest
  by_cases hlt : o.target.toNat < 8
  · rw [asFin_of_eq (k := ⟨o.target.toNat, hlt⟩) rfl]
    exact if_neg fun hf => absurd ((fittedTarget_iff s _).1 hf) (not_lt.2 (h ⟨o.target.toNat, hlt⟩ rfl))
  · rw [asFin_of_le (not_lt.1 hlt)]

theorem wakeRequest_fitted {o : Operands} {s : State} {k : TargetId} (hk : o.target.toNat = k.1) (hfit : k.1 < s.straps.targets) :
    wakeRequest o s = requestWake k .nobody s := by
  unfold wakeRequest
  rw [asFin_of_eq hk]
  exact if_pos ((fittedTarget_iff s k).2 hfit)

/-- A request with no one to tell changes nothing where it starts no operation. -/
theorem requestWake_nobody_ends {k : TargetId} {s : State}
    (h : s.wakes[k.1].state ≠ .idle ∨ s.power[k.1].state = .on ∨
      (¬(s.tlines[k.1].link = .suspended ∧ s.setups[k.1].policy.signal = true) ∧ s.setups[k.1].policy.pulse = false)) :
    requestWake k .nobody s = s := by
  by_cases hidle : s.wakes[k.1].state = .idle
  · by_cases hon : s.power[k.1].state = .on
    · exact requestWake_on hidle hon
    · obtain ⟨hs, hp⟩ := (h.resolve_left (not_not.2 hidle)).resolve_left hon
      exact requestWake_no_method hidle hon (chooseMethod_none hs hp)
  · exact (requestWake_joins hidle).trans ((if_pos rfl).trans (modWake_of_same rfl))

theorem not_asksPulse_of_unknown {p : Power} (h : p = .unknown) : ¬AsksPulse p := by
  rw [h]
  rintro (h | h)
  · cases h
  · cases h

/-- Settles O49. -/
theorem wakeStartsOperation : Obligations.WakeStartsOperation := by
  unfold Obligations.WakeStartsOperation
  refine ⟨fun t c s hready => ?cell, fun o s => ?request, fun k s => ?focus⟩
  case cell =>
    intro u p
    have hexec : exec (.wake t c) s = .next (settle (ownWake c (s.cellParams c) u)) := takeCell_ready hready
    have hempty : u.focus.inbox = [] := hready.1.2
    have hp : at8 (s.cellParams c) 0 = s.param c 0 := cellParams_at8 s c 0 (by omega)
    have hnext {v : State} (hown : ownWake c (s.cellParams c) u = v) (hv : v.focus = u.focus) : exec (.wake t c) s = .next v := by
      rw [hexec, hown, settle_of_empty v ((congrArg Focus.inbox hv).trans hempty)]
    refine ⟨fun hle => hnext ?_ (complete_focus ..), fun k hk => ⟨fun hunfit => hnext ?_ (complete_focus ..), fun hfit => ?_⟩⟩
    · unfold ownWake
      rw [hp, asFin_of_le hle]
    · unfold ownWake
      rw [hp, asFin_of_eq hk]
      exact if_neg fun hf => absurd ((fittedTarget_iff u k).1 hf) (not_lt.2 hunfit)
    have hown : ownWake c (s.cellParams c) u = requestWake k (.cell c) u := by
      unfold ownWake
      rw [hp, asFin_of_eq hk]
      exact if_pos ((fittedTarget_iff u k).2 hfit)
    intro op policy power signal data starts first
    refine ⟨fun hidle => ⟨fun hon => ?on, fun hon => ?off⟩, fun hrun => ⟨fun hout => ?joins, fun hin => ?joined⟩⟩
    case on => exact hnext (hown.trans (requestWake_on (s := u) hidle hon)) (complete_focus ..)
    case off =>
      obtain ⟨hsignal, hdelaying, hpulsing, hwatching⟩ := requestWake_firstAttempt (who := .cell c) (s := u) hidle hon
      have hstarts {op' : WakeOp} (h : WakeStarted k op' u (requestWake k (.cell c) u)) : starts op' (requestWake k (.cell c) u) :=
        ⟨hnext hown h.focus, h.kept, h.wakes, h.waking⟩
      exact ⟨fun hs hp => hnext (hown.trans (requestWake_no_method (s := u) hidle hon (chooseMethod_none hs hp))) (complete_focus ..),
        fun hs => ⟨_, hstarts (hsignal hs).1, (hsignal hs).2⟩,
        fun hs hp => ⟨fun hd => ⟨_, hstarts (hdelaying hs hp hd)⟩, fun hd ha => ⟨_, hstarts (hpulsing hs hp hd ha)⟩,
          fun hd hu => ⟨_, hstarts (hwatching hs hp hd (not_asksPulse_of_unknown hu))⟩⟩⟩
    case joins =>
      have hjoin : op.join (.cell c) = { op with joined := op.joined ++ [c] } := WakeOp.join_new hout
      have hne : (op.join (.cell c)).joined ≠ op.joined := by
        rw [hjoin]
        simp
      refine hnext (hown.trans ((requestWake_joins (s := u) hrun).trans ((if_neg hne).trans ?_))) rfl
      exact congrArg _ (modWake_congr hjoin)
    case joined =>
      have hjoin : op.join (.cell c) = op := WakeOp.join_old hin
      refine hnext (hown.trans ((requestWake_joins (s := u) hrun).trans ((if_pos (congrArg WakeOp.joined hjoin)).trans ?_))) rfl
      exact modWake_of_same hjoin
  case request =>
    refine ⟨wakeRequest_unfitted, fun k hk hfit => ?_⟩
    intro op policy power signal v starts first
    have hrequest : v = requestWake k .nobody s := wakeRequest_fitted hk hfit
    refine ⟨fun hends => hrequest.trans (requestWake_nobody_ends hends), fun hidle hon => ?starts⟩
    case starts =>
      obtain ⟨hsignal, hdelaying, hpulsing, hwatching⟩ := requestWake_firstAttempt (who := .nobody) hidle hon
      rw [← hrequest] at hsignal hdelaying hpulsing hwatching
      have hstarts {op' : WakeOp} (h : WakeStarted k op' s v) : starts op' := ⟨h.kept, h.wakes, h.waking, h.focus⟩
      exact ⟨fun hs => ⟨hstarts (hsignal hs).1, (hsignal hs).2⟩,
        fun hs hp => ⟨fun hd => hstarts (hdelaying hs hp hd), fun hd ha => hstarts (hpulsing hs hp hd ha),
          fun hd hu => hstarts (hwatching hs hp hd (not_asksPulse_of_unknown hu))⟩⟩
  case focus =>
    intro op policy power signal v starts first
    refine ⟨fun hrun => ?joins, fun hidle hon => requestWake_on hidle hon, fun hidle hon => ?_⟩
    case joins => exact (requestWake_joins hrun).trans (if_pos rfl)
    obtain ⟨hsignal, hdelaying, hpulsing, hwatching⟩ := requestWake_firstAttempt (who := .focus) hidle hon
    have hstarts {op' : WakeOp} (h : WakeStarted k op' s v) : starts op' := ⟨h.kept, h.wakes, h.waking, h.focus⟩
    refine ⟨fun hs hp => requestWake_no_method hidle hon (chooseMethod_none hs hp), fun hs => ⟨hstarts (hsignal hs).1, (hsignal hs).2⟩,
      fun hs hp => ⟨fun hd => hstarts (hdelaying hs hp hd), fun hd ha => hstarts (hpulsing hs hp hd ha),
        fun hd hu => hstarts (hwatching hs hp hd (not_asksPulse_of_unknown hu))⟩⟩

end Sys2Proof.Machine
end

section
/-! PROOFS. The deadlines and the end of a wake operation (R146 to R150). -/

namespace Sys2Proof.Machine

open Sys2Proof

/-! ## The end of an operation (R150) -/

theorem complete_rest (c : CellId) (r : Result) (data : List Byte) (s : State) :
    (complete c r data s).wakes = s.wakes ∧ (complete c r data s).panel = s.panel := by
  unfold complete
  split
  · exact ⟨rfl, rfl⟩
  · exact ⟨rfl, rfl⟩

theorem completeAll_rest (cells : List CellId) (r : Result) (data : State → List Byte) (s : State) :
    (completeAll cells r data s).wakes = s.wakes ∧ (completeAll cells r data s).panel = s.panel := by
  induction cells generalizing s with
  | nil => exact ⟨rfl, rfl⟩
  | cons c cs ih =>
    obtain ⟨hwakes, hpanel⟩ := complete_rest c r (data s) s
    obtain ⟨hwakes', hpanel'⟩ := ih (complete c r (data s) s)
    exact ⟨hwakes'.trans hwakes, hpanel'.trans hpanel⟩

section
variable (k : TargetId) (r : Result) (s : State)

/-- The operation's deadline cancelled, and its output at the inactive level. -/
def wakeStilled : State := modWake k (fun w => { w with due := none, outHigh := inactiveHigh s.setups[k.1] }) s

/-- The joined cells completed. -/
def wakeAnswered : State :=
  completeAll (wakeStilled k s).wakes[k.1].joined r (wakeData k r) (wakeStilled k s)

/-- The focus controller told, when it asked. -/
def wakeReported : State :=
  if (wakeStilled k s).wakes[k.1].answerFocus then post (.wakeAnswer k r) (wakeAnswered k r s) else wakeAnswered k r s

/-- The operation IDLE. -/
def wakeIdle : State := modWake k (fun w => w.ended w.outHigh) (wakeReported k r s)

theorem endWake_eq : endWake k r s = noticeOf (.power k) (wakingToPanel k false (wakeIdle k r s)) := rfl

theorem wakeStilled_self : (wakeStilled k s).wakes[k.1] = { s.wakes[k.1] with due := none, outHigh := inactiveHigh s.setups[k.1] } :=
  modWake_self _ _ _

theorem wakeReported_rest :
    (wakeReported k r s).wakes = (wakeStilled k s).wakes ∧ (wakeReported k r s).panel = s.panel ∧
      (wakeReported k r s).focus = { s.focus with
        inbox := s.focus.inbox ++ if s.wakes[k.1].answerFocus then [.wakeAnswer k r] else [] } := by
  obtain ⟨hwakes, hpanel⟩ := completeAll_rest (wakeStilled k s).wakes[k.1].joined r (wakeData k r) (wakeStilled k s)
  have hfocus : (wakeAnswered k r s).focus = s.focus := completeAll_focus ..
  unfold wakeReported
  rw [wakeStilled_self]
  dsimp only
  by_cases hasked : s.wakes[k.1].answerFocus = true
  · rw [if_pos hasked, if_pos hasked, post_focus, hfocus]
    exact ⟨hwakes, hpanel, rfl⟩
  · rw [if_neg hasked, if_neg hasked, hfocus, List.append_nil]
    exact ⟨hwakes, hpanel, rfl⟩

/-- The operation after its end (R143). -/
def WakeOp.idled (w : WakeOp) (high : Bool) : WakeOp :=
  { w with state := .idle, policy := none, due := none, joined := [], answerFocus := false, outHigh := high }

theorem endWake_rest :
    (endWake k r s).wakes = upd s.wakes k (fun _ => s.wakes[k.1].idled (!s.setups[k.1].policy.activeHigh)) ∧
      (endWake k r s).panel.view.waking = s.panel.view.waking.set k.1 false ∧
      (endWake k r s).focus = { s.focus with
        inbox := s.focus.inbox ++ if s.wakes[k.1].answerFocus then [.wakeAnswer k r] else [] } := by
  obtain ⟨hwakes, hpanel, hfocus⟩ := wakeReported_rest k r s
  obtain ⟨hwakes', hfocus', -, -, hview⟩ := panelReport_rest
    (fun p => { p with view := { p.view with waking := p.view.waking.set k.1 false k.2 } }) (wakeIdle k r s)
  have hidle : (wakeIdle k r s).wakes = upd s.wakes k (fun _ => s.wakes[k.1].idled (!s.setups[k.1].policy.activeHigh)) := by
    rw [wakeIdle, modWake_wakes, hwakes, wakeStilled, modWake_wakes, upd_upd]
    exact upd_congr rfl
  have hwaking : (wakeIdle k r s).panel = s.panel := by rw [wakeIdle, modWake_panel, hpanel]
  have hfocused : (wakeIdle k r s).focus = (wakeReported k r s).focus := by rw [wakeIdle, modWake_focus]
  rw [endWake_eq, noticeOf_wakes, noticeOf_panel, noticeOf_focus, wakingToPanel, hwakes', hidle, hview, hfocus', hfocused, hfocus,
    hwaking]
  exact ⟨rfl, rfl, rfl⟩

theorem kept_wakeAnswered_endWake : Kept (wakeAnswered k r s) (endWake k r s) := by
  have hreported : Kept (wakeAnswered k r s) (wakeReported k r s) := by
    unfold wakeReported
    split
    · exact kept_post _ _
    · exact Kept.refl _
  rw [endWake_eq]
  exact ((hreported.trans (kept_modWake _ _ _)).trans (below_wakingToPanel _ _ _).kept).trans (kept_noticeOf _ _)

theorem endWake_entry {c : CellId} (hc : c ∈ s.wakes[k.1].joined) : (endWake k r s).xm.entry c = none := by
  refine (kept_wakeAnswered_endWake k r s).entry_none ?_
  rw [wakeAnswered, completeAll_entry, wakeStilled_self, if_pos hc]

theorem wakeData_complete (outcome : Result) (d : CellId) (bs : List Byte) (v : State) :
    wakeData k outcome (complete d r bs v) = wakeData k outcome v := by
  have hpower : (complete d r bs v).power = v.power := (kept_complete d r bs v).power
  unfold wakeData
  rw [(complete_rest d r bs v).1, hpower]

theorem endWake_cellDone {c : CellId} (hc : c ∈ s.wakes[k.1].joined) (he : s.xm.entry c ≠ none) :
    (endWake k r s).cellDone c r
      [byte k.1, r.code, byte s.wakes[k.1].attempts, methodCode s.wakes[k.1].method, s.power[k.1].state.code] := by
  have hc' : c ∈ (wakeStilled k s).wakes[k.1].joined := by rw [wakeStilled_self]; exact hc
  have hdone := completeAll_cellDone (data := wakeData k r) (r := r) (fun d bs v => wakeData_complete k r r d bs v) hc'
    (s := wakeStilled k s) he
  have hdata : wakeData k r (wakeStilled k s) =
      [byte k.1, r.code, byte s.wakes[k.1].attempts, methodCode s.wakes[k.1].method, s.power[k.1].state.code] := by
    unfold wakeData
    rw [wakeStilled_self]
    rfl
  rw [hdata] at hdone
  refine (kept_wakeAnswered_endWake k r s).cellDone ?_ hdone
  rw [wakeAnswered, completeAll_entry, if_pos hc']
end

/-! ## The deadlines (log 3) -/

theorem phaseEnded_iff {k : TargetId} {st : WakeState} {s : State} :
    s.phaseEnded k st = true ↔ s.wakes[k.1].state = st ∧ ∃ d, s.wakes[k.1].due = some d ∧ d ≤ s.now := by
  rw [State.phaseEnded, Bool.and_eq_true, decide_eq_true_eq]
  refine and_congr_right fun _ => ?_
  cases s.wakes[k.1].due with
  | none => exact ⟨nofun, fun ⟨_, h, _⟩ => nomatch h⟩
  | some d =>
    rw [reached_some, decide_eq_true_eq]
    exact ⟨fun h => ⟨d, rfl, h⟩, fun ⟨_, hd, h⟩ => by cases hd; exact h⟩

section
variable {k : TargetId} {s : State}

theorem startPulse_asks_eq (h : AsksPulse s.power[k.1].state) :
    startPulse k s = noticeOf (.power k) (modWake k (fun _ => { s.wakes[k.1] with
      state := .pulsing, due := some (s.now + 1000 * (s.wakePolicy k).width), outHigh := (s.wakePolicy k).activeHigh }) s) := by
  rw [startPulse_asks h, enterPhase, modWake_modWake, ms_eq]
  exact congrArg _ (modWake_congr rfl)

/-- The end of a pulse (R147). -/
def endPulse (k : TargetId) (s : State) : State :=
  enterWatching k (modWake k (fun w => { w with outHigh := !(s.wakePolicy k).activeHigh }) s)

theorem endPulse_eq :
    endPulse k s = noticeOf (.power k) (modWake k (fun _ => { s.wakes[k.1] with
      state := .watching, due := some (s.now + 1000000 * (s.wakePolicy k).window), outHigh := !(s.wakePolicy k).activeHigh }) s) := by
  have hpolicy : (modWake k (fun w => { w with outHigh := !(s.wakePolicy k).activeHigh }) s).wakePolicy k = s.wakePolicy k :=
    wakePolicy_of_wakes (by rw [modWake_self]) rfl
  unfold endPulse
  rw [enterWatching_eq, modWake_modWake, hpolicy]
  exact congrArg _ (modWake_congr rfl)

theorem nextAttempt_none (h : ¬(s.tlines[k.1].link = .suspended ∧ (s.wakePolicy k).signal = true)) (hp : (s.wakePolicy k).pulse = false) :
    nextAttempt k s = endWake k .wakeFailed s := by
  unfold nextAttempt
  rw [chooseMethod_none h hp]

theorem nextAttempt_some {m : Method} (h : chooseMethod false (s.wakePolicy k) s.tlines[k.1].link = some m) :
    nextAttempt k s = runAttempt k m s := by
  unfold nextAttempt
  rw [h]

theorem windowExpired_next (h : s.wakes[k.1].attempts < (s.wakePolicy k).retry) : windowExpired k s = nextAttempt k s := if_pos h

theorem windowExpired_last (h : (s.wakePolicy k).retry ≤ s.wakes[k.1].attempts) : windowExpired k s = endWake k .wakeFailed s :=
  if_neg (not_lt.2 h)
end

section
variable {t : Nat} {k : TargetId} {st : WakeState} {f : State → State} {s : State}

/-- A deadline of a phase that has not ended does nothing. -/
theorem act_phase_runs (hs : s.live) (h : ¬(s.advance t).phaseEnded k st = true) :
    act t (fun s => if s.phaseEnded k st then f s else s) s = .next (s.advance t) := by
  refine (act_live hs).trans ?_
  rw [if_neg h, settle_advance hs]

theorem act_phase_ends (hs : s.live) (h : (s.advance t).phaseEnded k st = true) :
    act t (fun s => if s.phaseEnded k st then f s else s) s = .next (settle (f (s.advance t))) := by
  refine (act_live hs).trans ?_
  rw [if_pos h]
end

/-! ## The change to ON (R149; logs 43, 55) -/

/-- What no step of a fold changes, the fold does not change. -/
theorem foldl_frame {α β : Type} (g : State → β) {f : State → α → State} (hf : ∀ s x, g (f s x) = g s) (xs : List α) (s : State) :
    g (xs.foldl f s) = g s := by
  induction xs generalizing s with
  | nil => rfl
  | cons x xs ih => exact (ih (f s x)).trans (hf s x)

theorem viewReport_rest (k : TargetId) (f : TargetView → TargetView) (s : State) :
    (viewReport k f s).wakes = s.wakes ∧ (viewReport k f s).xm.inWork = s.xm.inWork ∧ (viewReport k f s).focus = s.focus := by
  have hframe : (fun w : State => (w.wakes, w.xm.inWork, w.focus)) (viewReport k f s) = (s.wakes, s.xm.inWork, s.focus) := by
    rw [viewReport_eq]
    refine foldl_frame (fun w : State => (w.wakes, w.xm.inWork, w.focus)) (fun w sc => ?_) (ids 6) (viewed k f s)
    split
    · rfl
    · split
      · rfl
      · rfl
  simp only [Prod.mk.injEq] at hframe
  exact hframe

theorem panelReport_inWork (f : Panel → Panel) (s : State) : (panelReport f s).xm.inWork = s.xm.inWork := by
  unfold panelReport
  dsimp only
  split
  · rfl
  · rfl

/-- A change from another state than ON ends no loan, so no cell completes. -/
theorem powerTold_rest (k : TargetId) {old : Power} (r : PowerRec) (s : State) (h : old ≠ .on) :
    (powerTold k old r s).wakes = s.wakes ∧ (powerTold k old r s).xm.inWork = s.xm.inWork := by
  have hcomposer (x : State) : powerToComposer k old r.state x = viewReport k (fun v => { v with power := r.state }) x :=
    if_neg fun hh => h hh.1
  unfold powerTold powerToPanel
  rw [hcomposer, (panelReport_rest _ _).1, panelReport_inWork, (viewReport_rest _ _ _).1, (viewReport_rest _ _ _).2.1]
  exact ⟨rfl, rfl⟩

theorem classify_on {q : Setup} {state : Power} {v : Nat} (hst : state ≠ .on) (hv : q.high ≤ v) : classify q state v = .on := by
  unfold classify
  rw [if_neg hst]
  exact if_pos hv

end Sys2Proof.Machine
end

section
/-! PROOFS. The rows of a wake operation's deadlines (R147 to R149). -/

namespace Sys2Proof.Machine

open Sys2Proof

/-- What an operation's end leaves at a state where the focus controller has nothing to take. -/
theorem endWake_spec {k : TargetId} {s : State} (r : Result) (hempty : s.focus.inbox = []) :
    let op := s.wakes[k.1]
    let idle : WakeOp := { op with
      state := .idle, policy := none, due := none, joined := [], answerFocus := false,
      outHigh := !s.setups[k.1].policy.activeHigh }
    let v := endWake k r s
    v.wakes = upd s.wakes k (fun _ => idle) ∧ Kept s v ∧ v.panel.view.waking = s.panel.view.waking.set k.1 false ∧
      v.focus = { s.focus with inbox := if op.answerFocus then [.wakeAnswer k r] else [] } ∧
      (∀ c ∈ op.joined, v.xm.entry c = none) ∧
      ∀ c ∈ op.joined, s.xm.entry c ≠ none → v.cellDone c r
        [byte k.1, r.code, byte op.attempts, methodCode op.method, s.power[k.1].state.code] := by
  obtain ⟨hwakes, hwaking, hfocus⟩ := endWake_rest k r s
  rw [hempty, List.nil_append] at hfocus
  exact ⟨hwakes, kept_endWake k r s, hwaking, hfocus, fun c hc => endWake_entry k r s hc, fun c hc he => endWake_cellDone k r s hc he⟩

/-- The joined cells after an operation's end and all that it makes the focus controller do. -/
theorem settle_endWake_cells {k : TargetId} {s : State} (r : Result) {c : CellId} (hc : c ∈ s.wakes[k.1].joined) :
    (settle (endWake k r s)).xm.entry c = none ∧
      (s.xm.entry c ≠ none → (settle (endWake k r s)).cellDone c r
        [byte k.1, r.code, byte s.wakes[k.1].attempts, methodCode s.wakes[k.1].method, s.power[k.1].state.code]) :=
  ⟨(kept_settle _).entry_none (endWake_entry k r s hc),
    fun he => (kept_settle _).cellDone (endWake_entry k r s hc) (endWake_cellDone k r s hc he)⟩

theorem setPowerRec_wakes {k : TargetId} {r : PowerRec} {s : State} (hold : s.power[k.1].state ≠ .on) (hon : r.state = .on)
    (hrun : s.wakes[k.1].state ≠ .idle) :
    setPowerRec k r s = endWake k .ok (powerTold k s.power[k.1].state r s) := by
  have hne : s.power[k.1].state ≠ r.state := by rw [hon]; exact hold
  rw [setPowerRec_changed hne]
  refine if_pos ⟨hon, ?_⟩
  simp only [(powerTold_rest k r s hold).1]
  exact hrun

/-- Settles O50. -/
theorem wakeDeadlinesAct : Obligations.WakeDeadlinesAct := by
  unfold Obligations.WakeDeadlinesAct
  intro t k s hs u op policy phaseEnds signal enters watching pulsing idle asks data
  have hends {st : WakeState} : u.phaseEnded k st = true ↔ phaseEnds st := phaseEnded_iff
  have henters {v : State} {w : WakeOp} (hv : v = noticeOf (.power k) (modWake k (fun _ => w) u)) :
      Host.Outcome.next (settle v) = enters w := by
    subst hv
    exact congrArg _ (settle_of_empty (noticeOf (.power k) (modWake k (fun _ => w) u)) hs.2)
  refine ⟨fun hp => ⟨fun ha => ?pulse, fun ha => ?noPulse⟩, fun hp => ?delayRuns, fun hp => ?pulseEnds, fun hp => ?pulseRuns,
    fun hp => ?windowRuns, fun hp => ?window, fun result hslot hrun hfit hold hlevel hcount hhigh hop => ?sample,
    fun r => endWake_spec r hs.2⟩
  case pulse =>
    refine (act_phase_ends (st := .delaying) (f := startPulse k) hs (hends.2 hp)).trans (henters ?_)
    exact startPulse_asks_eq (s := u) ha
  case noPulse =>
    refine (act_phase_ends (st := .delaying) (f := startPulse k) hs (hends.2 hp)).trans (henters ?_)
    refine (startPulse_watches (s := u) ha).trans ((enterWatching_eq k u).trans ?_)
    exact congrArg _ (modWake_congr rfl)
  case delayRuns => exact act_phase_runs (st := .delaying) (f := startPulse k) hs fun h => hp (hends.1 h)
  case pulseEnds =>
    exact (act_phase_ends (st := .pulsing) (f := endPulse k) hs (hends.2 hp)).trans (henters endPulse_eq)
  case pulseRuns => exact act_phase_runs (st := .pulsing) (f := endPulse k) hs fun h => hp (hends.1 h)
  case windowRuns => exact act_phase_runs (st := .watching) (f := windowExpired k) hs fun h => hp (hends.1 h)
  case window =>
    have hexec : exec (.wakeWindowExpiry t k) s = .next (settle (windowExpired k u)) :=
      act_phase_ends (st := .watching) (f := windowExpired k) hs (hends.2 hp)
    intro next
    have hnext {m : Method} {w : WakeOp} (hr : op.attempts < policy.retry)
        (hm : chooseMethod false policy s.tlines[k.1].link = some m)
        (hwork : WakeWork k { w with attempts := op.attempts + 1, method := some m } u (runAttempt k m u)) :
        next m w (runAttempt k m u) := by
      have hattempt : windowExpired k u = runAttempt k m u := (windowExpired_next (s := u) hr).trans (nextAttempt_some (s := u) hm)
      refine ⟨?_, hwork.kept, hwork.wakes⟩
      rw [hexec, hattempt, settle_of_empty _ ((congrArg Focus.inbox hwork.focus).trans hs.2)]
    refine ⟨fun hr hpulse => ⟨fun hd => ⟨_, hnext hr (chooseMethod_later_pulse hpulse) (runAttempt_delaying (s := u) hd)⟩,
      fun hd ha => ⟨_, hnext hr (chooseMethod_later_pulse hpulse) (runAttempt_pulsing (s := u) hd ha)⟩,
      fun hd ha => ⟨_, hnext hr (chooseMethod_later_pulse hpulse) (runAttempt_watching (s := u) hd ha)⟩⟩,
      fun hr hpulse hsig => ?signal, fun hlast => ?last⟩
    case signal =>
      obtain ⟨hwork, huntil⟩ := runAttempt_signal (k := k) (s := u) hsig.1
      exact ⟨_, hnext hr (chooseMethod_later_signal hsig hpulse) hwork, by rw [huntil]; nofun⟩
    case last =>
      intro v
      have hfailed : windowExpired k u = endWake k .wakeFailed u := by
        by_cases hr : op.attempts < policy.retry
        · obtain ⟨hpulse, hsig⟩ := hlast.resolve_left (not_le.2 hr)
          exact (windowExpired_next (s := u) hr).trans (nextAttempt_none (s := u) hsig hpulse)
        · exact windowExpired_last (s := u) (not_lt.1 hr)
      obtain ⟨hwakes, hkept, -, hfocus, -, -⟩ := endWake_spec (k := k) (s := u) .wakeFailed hs.2
      refine ⟨by rw [hexec, hfailed], hkept.trans (kept_settle _), fun c hc he => (settle_endWake_cells (s := u) .wakeFailed hc).2 he,
        fun c hc => (settle_endWake_cells (s := u) .wakeFailed hc).1, fun hno => ?_⟩
      have hempty : (endWake k .wakeFailed u).focus.inbox = [] := by
        rw [hfocus, if_neg (show ¬u.wakes[k.1].answerFocus = true by rw [show u.wakes[k.1].answerFocus = false from hno]; nofun)]
      show (settle (endWake k .wakeFailed u)).wakes = _
      rw [settle_of_empty _ hempty]
      exact hwakes
  case sample =>
    intro changed told v
    obtain rfl : s.senseSlot = k := hslot
    let r' : PowerRec :=
      { state := .on, sample := sampleOf s.setups[s.senseSlot.1].falling result, runLevel := none, runCount := 0 }
    let w : State := { u with senseSlot := s.senseSlot + 1 }
    have hsampled : s.power[s.senseSlot.1].sampled (sampleOf s.setups[s.senseSlot.1].falling result)
        (classify s.setups[s.senseSlot.1] s.power[s.senseSlot.1].state (sampleOf s.setups[s.senseSlot.1].falling result)) = r' := by
      rw [classify_on hold hhigh]
      exact sampled_changed (Ne.symm hold) (by rw [if_pos hlevel]; omega)
    have htold : powerTold s.senseSlot s.power[s.senseSlot.1].state r' w = told := rfl
    have hset : setPowerRec s.senseSlot r' w = endWake s.senseSlot .ok told := setPowerRec_wakes (s := w) hold rfl hop
    have hexec : exec (.powerSample t result) s = .next v := by
      rw [exec_powerSample hs hrun, takeSample_fitted (s := s.advance t) hfit]
      refine congrArg (fun x => Host.Outcome.next (settle x)) (Eq.trans ?_ hset)
      exact congrArg (fun r => setPowerRec s.senseSlot r w) hsampled
    obtain ⟨hwakes, hwork⟩ := powerTold_rest s.senseSlot r' w hold
    rw [htold] at hwakes hwork
    have hkept : Kept changed told := kept_powerTold s.senseSlot s.power[s.senseSlot.1].state r' w
    have hop' : told.wakes[s.senseSlot.1] = op := by simp only [hwakes]; rfl
    have hpower : told.power[s.senseSlot.1].state = .on := by
      rw [show told.power = upd s.power s.senseSlot (fun _ => r') from hkept.power, upd_self]
    have hentry (c : CellId) : told.xm.entry c = s.xm.entry c := by
      unfold Exchange.entry
      rw [hwork]
      rfl
    refine ⟨hexec, (hkept.trans (kept_endWake _ _ _)).trans (kept_settle _), hwakes, fun c hc he => ?_, fun c hc => ?_⟩
    · have hdone := (settle_endWake_cells (k := s.senseSlot) (s := told) .ok (by rw [hop']; exact hc)).2 (by rw [hentry]; exact he)
      rw [hop', hpower] at hdone
      exact hdone
    · exact (settle_endWake_cells (k := s.senseSlot) (s := told) .ok (by rw [hop']; exact hc)).1

end Sys2Proof.Machine
end

section
/-! PROOFS. TARGET_SETUP (R140, R141): the checks of its block in order, and its setup as taken. -/

namespace Sys2Proof.Machine

open Sys2Proof

/-! ## Checks in order -/

/-- `r` is the offset of the first check of a list that holds, none when no check holds. -/
def FirstOf : List (Prop × Nat) → Option Nat → Prop
  | [], r => r = none
  | (p, i) :: l, r => (p ∧ r = some i) ∨ (¬p ∧ FirstOf l r)

theorem firstOf_ite {c p : Prop} [Decidable c] {i : Nat} {l : List (Prop × Nat)} {x : Option Nat} (h : c ↔ p) (hx : ¬p → FirstOf l x) :
    FirstOf ((p, i) :: l) (if c then some i else x) := by
  by_cases hc : c
  · rw [if_pos hc]
    exact .inl ⟨h.1 hc, rfl⟩
  · rw [if_neg hc]
    exact .inr ⟨fun hp => hc (h.2 hp), hx fun hp => hc (h.2 hp)⟩

theorem FirstOf.eq_some {l : List (Prop × Nat)} {r : Option Nat} (h : FirstOf l r) {m : Nat} {p : Prop} {i : Nat} (hm : l[m]? = some (p, i))
    (hp : p) (hlt : ∀ j < m, ∀ (q : Prop) (o : Nat), l[j]? = some (q, o) → ¬q) : r = some i := by
  induction l generalizing m with
  | nil => cases hm
  | cons x l ih =>
    obtain ⟨p', i'⟩ := x
    cases m with
    | zero =>
      rw [List.getElem?_cons_zero, Option.some.injEq, Prod.mk.injEq] at hm
      obtain ⟨rfl, rfl⟩ := hm
      exact (h.resolve_right fun hn => hn.1 hp).2
    | succ m =>
      have hfirst : ¬p' := hlt 0 (by omega) p' i' rfl
      exact ih (h.resolve_left fun hn => hfirst hn.1).2 hm fun j hj q o hq => hlt (j + 1) (by omega) q o hq

theorem FirstOf.eq_none {l : List (Prop × Nat)} {r : Option Nat} (h : FirstOf l r) (hl : ∀ q ∈ l, ¬q.1) : r = none := by
  induction l with
  | nil => exact h
  | cons x l ih =>
    exact ih (h.resolve_left fun hn => hl x List.mem_cons_self hn.1).2 fun q hq => hl q (List.mem_cons_of_mem _ hq)

/-! ## The checks of a target setup block -/

/-- The checks of R140 on the bytes of a block, in order, each with the offset of its field. -/
def setupChecks (b : Nat → Nat) (shows : Prop) : List (Prop × Nat) :=
  let n (i : Nat) : Nat := b i + 256 * b (i + 1)
  let delay := n 16 - n 16 % 10
  let width := if n 18 - n 18 % 10 ≤ 2000 then n 18 - n 18 % 10 else 2000
  let width_ (i : Nat) : Prop := n i < 320 ∨ 7680 < n i
  let height_ (i : Nat) : Prop := n i < 200 ∨ 4320 < n i
  [(1 < b 11, 11), (1 < b 12, 12), (1 < b 15, 15), (b 13 < 1 ∨ 7 < b 13, 13), (b 14 < 1 ∨ 60 < b 14, 14),
    (2550 < delay, 16), (width < 50, 18), (1 < b 20, 20), (1023 < n 22, 22), (1023 < n 24, 24), (63 < b 21, 21),
    (n 22 < b 21, 21), (n 24 ≤ n 22 + b 21, 22), (1 < b 10, 10), (b 0 ≠ 1 ∧ b 0 ≠ 2, 0), (b 0 = 2 ∧ 1 < b 1, 1),
    (width_ 2, 2), (height_ 4, 4), (b 0 = 2 ∧ width_ 6, 6), (b 0 = 2 ∧ height_ 8, 8),
    (b 0 = 1 ∧ shows, 0)]

theorem pulseWidthOf_eq (n : Nat) : pulseWidthOf n = if n - n % 10 ≤ 2000 then n - n % 10 else 2000 := by
  rw [pulseWidthOf, round10_eq, min_def]

theorem eq_two_iff (b : Byte) : b = 2 ↔ b.toNat = 2 := by
  rw [← BitVec.toNat_inj]
  rfl

section
variable {bs : List Byte} {b : Nat → Nat} (hb : ∀ i < 26, (at8 bs i).toNat = b i)
include hb

theorem at16_bytes {i : Nat} (hi : i < 25) : at16 bs i = b i + 256 * b (i + 1) := by
  rw [at16, hb i (by omega), hb (i + 1) (by omega)]

theorem boolOf_bytes {i : Nat} (hi : i < 26) : (boolOf (at8 bs i)).isNone = true ↔ 1 < b i := by
  rw [boolOf_isNone_iff, hb i hi]
  omega

/-- The size checks of one head, with the checks that follow. -/
theorem firstOf_size {i : Nat} (hi : i < 23) {p q : Prop} (hp : b i + 256 * b (i + 1) < 320 ∨ 7680 < b i + 256 * b (i + 1) ↔ p)
    (hq : b (i + 2) + 256 * b (i + 2 + 1) < 200 ∨ 4320 < b (i + 2) + 256 * b (i + 2 + 1) ↔ q) {l : List (Prop × Nat)} {x : Option Nat}
    (hl : FirstOf l x) : FirstOf ((p, i) :: (q, i + 2) :: l) ((sizeFailure bs i).or x) := by
  have hor : (sizeFailure bs i).or x =
      if at16 bs i < 320 ∨ 7680 < at16 bs i then some i
      else if at16 bs (i + 2) < 200 ∨ 4320 < at16 bs (i + 2) then some (i + 2) else x := by
    unfold sizeFailure
    split_ifs
    · rfl
    · rfl
    · rfl
  rw [hor]
  refine firstOf_ite ?_ fun _ => firstOf_ite ?_ fun _ => hl
  · rw [at16_bytes hb (by omega)]
    exact hp
  · rw [at16_bytes hb (by omega)]
    exact hq

/-- The last checks: the size of head B of a target that has it, and no plan that shows it on one that has not. -/
theorem firstOf_headB {shows : Bool} (hkind : ¬(b 0 ≠ 1 ∧ b 0 ≠ 2)) :
    FirstOf
      [(b 0 = 2 ∧ (b 6 + 256 * b (6 + 1) < 320 ∨ 7680 < b 6 + 256 * b (6 + 1)), 6),
        (b 0 = 2 ∧ (b 8 + 256 * b (8 + 1) < 200 ∨ 4320 < b 8 + 256 * b (8 + 1)), 8), (b 0 = 1 ∧ shows = true, 0)]
      (if at8 bs 0 = 2 then sizeFailure bs 6 else if shows then some 0 else none) := by
  have htwo : at8 bs 0 = 2 ↔ b 0 = 2 := by rw [eq_two_iff, hb 0 (by omega)]
  by_cases h2 : b 0 = 2
  · rw [if_pos (htwo.2 h2), ← Option.or_none (o := sizeFailure bs 6)]
    exact firstOf_size hb (by omega) (by simp [h2]) (by simp [h2]) (.inr ⟨fun h => by omega, rfl⟩)
  · rw [if_neg fun h => h2 (htwo.1 h)]
    have h1 : b 0 = 1 := by omega
    exact .inr ⟨fun h => h2 h.1, .inr ⟨fun h => h2 h.1, firstOf_ite (by simp [h1]) fun _ => rfl⟩⟩

/-- The checks of R140 as the model makes them. -/
theorem setupFailure_firstOf (shows : Bool) : FirstOf (setupChecks b (shows = true)) (setupFailure bs shows) := by
  unfold setupFailure setupChecks setupOf
  dsimp only
  refine firstOf_ite (boolOf_bytes hb (by omega)) fun _ => ?_
  refine firstOf_ite (boolOf_bytes hb (by omega)) fun _ => ?_
  refine firstOf_ite (boolOf_bytes hb (by omega)) fun _ => ?_
  refine firstOf_ite (by rw [hb 13 (by omega)]) fun _ => ?_
  refine firstOf_ite (by rw [hb 14 (by omega)]) fun _ => ?_
  refine firstOf_ite (by rw [round10_eq, at16_bytes hb (by omega)]) fun _ => ?_
  refine firstOf_ite (by rw [pulseWidthOf_eq, at16_bytes hb (by omega)]) fun _ => ?_
  refine firstOf_ite (boolOf_bytes hb (by omega)) fun _ => ?_
  refine firstOf_ite (by rw [at16_bytes hb (by omega)]) fun _ => ?_
  refine firstOf_ite (by rw [at16_bytes hb (by omega)]) fun _ => ?_
  refine firstOf_ite (by rw [hb 21 (by omega)]) fun _ => ?_
  refine firstOf_ite (by rw [hb 21 (by omega), at16_bytes hb (by omega)]) fun _ => ?_
  refine firstOf_ite (by rw [hb 21 (by omega), at16_bytes hb (by omega), at16_bytes hb (by omega), not_lt]) fun _ => ?_
  refine firstOf_ite (boolOf_bytes hb (by omega)) fun _ => ?_
  refine firstOf_ite (by rw [ne_eq, ne_eq, toNat_eq_one_iff, eq_two_iff, hb 0 (by omega)]) fun hkind => ?_
  refine firstOf_ite (by rw [eq_two_iff, hb 0 (by omega), boolOf_bytes hb (by omega)]) fun _ => ?_
  have hsize := firstOf_size hb (i := 2) (by omega) Iff.rfl Iff.rfl (firstOf_headB hb (shows := shows) hkind)
  cases hfirst : sizeFailure bs 2 with
  | some i =>
    rw [hfirst] at hsize
    exact hsize
  | none =>
    rw [hfirst] at hsize
    exact hsize
end

/-! ## The setup as taken (R141) -/

/-- The setup that a block's bytes give. -/
def setupTaken (b : Nat → Nat) : Setup :=
  let n (i : Nat) : Nat := b i + 256 * b (i + 1)
  { headB := decide (b 0 = 2), under := decide (b 1 = 1), wA := n 2, hA := n 4, wB := n 6, hB := n 8,
    excluded := decide (b 10 = 1),
    policy :=
      { signal := decide (b 11 = 1), pulse := decide (b 12 = 1), retry := b 13, window := b 14,
        activeHigh := decide (b 15 = 0), delay := n 16 - n 16 % 10,
        width := if n 18 - n 18 % 10 ≤ 2000 then n 18 - n 18 % 10 else 2000 },
    falling := decide (b 20 = 1), hysteresis := b 21, low := n 22, high := n 24 }

section
variable {bs : List Byte} {b : Nat → Nat} (hb : ∀ i < 26, (at8 bs i).toNat = b i)
include hb

theorem setupOf_bytes : setupOf bs = setupTaken b := by
  have hone {i : Nat} (hi : i < 26) : at8 bs i = 1 ↔ b i = 1 := by rw [toNat_eq_one_iff, hb i hi]
  have htwo : at8 bs 0 = 2 ↔ b 0 = 2 := by rw [eq_two_iff, hb 0 (by omega)]
  have hzero : at8 bs 15 = 0 ↔ b 15 = 0 := by rw [toNat_eq_zero_iff, hb 15 (by omega)]
  unfold setupOf setupTaken
  simp only [htwo, hzero, hone (show 1 < 26 by omega), hone (show 10 < 26 by omega), hone (show 11 < 26 by omega),
    hone (show 12 < 26 by omega), hone (show 20 < 26 by omega), hb 13 (by omega), hb 14 (by omega), hb 21 (by omega),
    at16_bytes hb (show 2 < 25 by omega), at16_bytes hb (show 4 < 25 by omega), at16_bytes hb (show 6 < 25 by omega),
    at16_bytes hb (show 8 < 25 by omega), at16_bytes hb (show 16 < 25 by omega), at16_bytes hb (show 18 < 25 by omega),
    at16_bytes hb (show 22 < 25 by omega), at16_bytes hb (show 24 < 25 by omega), round10_eq, pulseWidthOf_eq]

theorem setupBytesTaken_bytes (hlen : bs.length = 26) :
    setupBytesTaken bs =
      bs.take 16 ++ le16n (setupTaken b).policy.delay ++ le16n (setupTaken b).policy.width ++ bs.drop 20 := by
  rw [setupBytesTaken, List.take_of_length_le (show (bs.drop 20).length ≤ 6 by simp [hlen]), round10_eq, pulseWidthOf_eq,
    at16_bytes hb (show 16 < 25 by omega), at16_bytes hb (show 18 < 25 by omega)]
  rfl
end

/-- The setup written, with the output of an idle wake operation at its inactive level (R141). -/
def setupWritten (k : TargetId) (q : Setup) (s : State) : State :=
  let written := modPower k (fun r => { r with runLevel := none, runCount := 0 }) (modSetup k (fun _ => q) s)
  if s.wakes[k.1].state = .idle then modWake k (fun w => { w with outHigh := !q.policy.activeHigh }) written else written

/-- The setup applied, before an unfitted head B ends (R141). -/
def setupApplied (k : TargetId) (q : Setup) (s : State) : State :=
  viewReport k (fun v => { v with excluded := q.excluded }) (setupWritten k q s)

theorem setupWritten_rest (k : TargetId) (q : Setup) (s : State) :
    (setupWritten k q s).focus = s.focus ∧ (setupWritten k q s).served = s.served ∧ (setupWritten k q s).heads = s.heads := by
  unfold setupWritten
  dsimp only
  split
  · exact ⟨rfl, rfl, rfl⟩
  · exact ⟨rfl, rfl, rfl⟩

theorem setupApplied_rest (k : TargetId) (q : Setup) (s : State) :
    (setupApplied k q s).focus = s.focus ∧ (setupApplied k q s).served = s.served ∧ (setupApplied k q s).heads = s.heads := by
  obtain ⟨hfocus, hserved, hheads⟩ := setupWritten_rest k q s
  have hkept := (below_viewReport k (fun v => { v with excluded := q.excluded }) (setupWritten k q s)).kept
  exact ⟨(viewReport_rest _ _ _).2.2.trans hfocus, hkept.served.trans hserved, hkept.heads.trans hheads⟩

theorem applySetup_eq (k : TargetId) (q : Setup) (s : State) :
    applySetup k q s =
      if s.setups[k.1].headB = true ∧ q.headB = false then unfitHeadB k (setupApplied k q s) else setupApplied k q s := rfl

/-! ## A head B that becomes unfitted (R133) -/

/-- `t` is `s` with other records of the served images, after work of the blocks below. -/
def KeptServed (s t : State) : Prop := Kept { s with served := t.served } t

theorem KeptServed.kept {s t u : State} (h : KeptServed s t) (g : Kept t u) : KeptServed s u := by
  unfold KeptServed at *
  rw [g.served]
  exact h.trans g

theorem keptServed_changeServed (h : HeadId) (f : Served → Served) (s : State) : KeptServed s (changeServed h f s) := by
  have hmod : Kept { s with served := (changeServed h f s).served } (modServed h f s) := by
    rw [changeServed_served]
    exact Kept.refl _
  refine hmod.trans ?_
  unfold changeServed
  dsimp only
  split
  · exact Kept.refl _
  · exact kept_noticeOf _ _

theorem kept_completeServe (h : HeadId) (c : Option CellId) (r : Result) (sums : List Byte) (s : State) :
    Kept s (completeServe h c r sums s) := by
  cases c with
  | none => exact Kept.refl s
  | some c => exact kept_complete c r _ s

theorem keptServed_requestNothing {h : HeadId} {rep : Replacement} (hsrc : rep.source = .nothing) (s : State) :
    KeptServed s (requestReplacement h rep s) := by
  unfold requestReplacement
  dsimp only
  split
  · exact (keptServed_changeServed _ _ _).kept (kept_completeServe _ _ _ _ _)
  · split
    · rw [beginReplacement_nothing hsrc]
      exact ((keptServed_changeServed _ _ _).kept (kept_completeServe _ _ _ _ _)).kept (kept_completeServe _ _ _ _ _)
    · exact keptServed_changeServed _ _ _

theorem kept_withServed {s t : State} (h : Kept s t) (sv : Vector Served 16) : Kept { s with served := sv } { t with served := sv } := by
  have houter : ({ t with served := sv } : State).outer = ({ s with served := sv } : State).outer := by
    have ho := h.outer
    simp only [State.outer, Prod.mk.injEq] at ho
    simp [State.outer, ho]
  exact ⟨houter, h.screens, h.lines, h.canonical, h.above, h.cells, h.inWork, h.residuals, h.done⟩

/-- The replacement of a head B that becomes unfitted (log 38). -/
def endingRep : Replacement := { source := .nothing, announce := false, follow := false, cell := none }

theorem kept_unfitHeadB (k : TargetId) (s : State) :
    Kept { s with heads := upd s.heads (headBOf k) (fun _ => HeadRec.initial), served := (unfitHeadB k s).served } (unfitHeadB k s) :=
  (kept_withServed (kept_setHead (headBOf k) HeadRec.initial s) _).trans (keptServed_requestNothing (rep := endingRep) rfl _)

theorem requestEnding_idle {h : HeadId} {s : State} (hp : s.served[h.1].pending = none) (ht : s.served[h.1].inTransaction = false)
    (hst : s.served[h.1].state ≠ .replacing) :
    (requestReplacement h endingRep s).served = upd s.served h (fun v => { v with
      state := .silent, source := .nothing, follow := false, answering := false, hotplug := false, completing := none,
      announceUntil := none }) := by
  rw [requestReplacement_now hp ht hst, beginReplacement_nothing (rep := endingRep) rfl, completeServe_served, completeServe_served,
    changeServed_served]
  exact upd_congr (by rw [← hp]; rfl)

theorem requestEnding_busy {h : HeadId} {s : State}
    (hb : s.served[h.1].pending ≠ none ∨ s.served[h.1].inTransaction = true ∨ s.served[h.1].state = .replacing) :
    (requestReplacement h endingRep s).served = upd s.served h (fun v => { v with pending := some endingRep }) := by
  cases hp : s.served[h.1].pending with
  | some old =>
    rw [requestReplacement_pending hp, completeServe_served]
    rfl
  | none =>
    rw [requestReplacement_later hp (hb.resolve_left (not_not.2 hp)), changeServed_served]

theorem unfitHeadB_served (k : TargetId) (s : State) :
    (unfitHeadB k s).served = (requestReplacement (headBOf k) endingRep (makeAbsent (headBOf k) s)).served := rfl

theorem makeAbsent_served (h : HeadId) (s : State) : (makeAbsent h s).served = s.served := (kept_setHead h HeadRec.initial s).served

/-- The served images after the end of an unfitted head B. -/
structure HeadBEnds (k : TargetId) (old new : Vector Served 16) : Prop where
  others : ∀ j : HeadId, j ≠ headBOf k → new[j.1] = old[j.1]
  idle : old[(headBOf k).1].pending = none → old[(headBOf k).1].inTransaction = false → old[(headBOf k).1].state ≠ .replacing →
    new[(headBOf k).1] = { old[(headBOf k).1] with
      state := .silent, source := .nothing, follow := false, answering := false, hotplug := false, completing := none,
      announceUntil := none }
  busy : old[(headBOf k).1].pending ≠ none ∨ old[(headBOf k).1].inTransaction = true ∨ old[(headBOf k).1].state = .replacing →
    new[(headBOf k).1] = { old[(headBOf k).1] with pending := some endingRep }

theorem unfitHeadB_ends (k : TargetId) (s : State) : HeadBEnds k s.served (unfitHeadB k s).served := by
  rw [unfitHeadB_served, ← makeAbsent_served (headBOf k) s]
  have hupd {v : Vector Served 16} {f : Served → Served} {j : HeadId} (hj : j ≠ headBOf k) :
      (upd v (headBOf k) f)[j.1] = v[j.1] := upd_ne _ _ _ _ hj.symm
  refine ⟨fun j hj => ?_, fun hp ht hst => ?_, fun hb => ?_⟩
  · by_cases hb : (makeAbsent (headBOf k) s).served[(headBOf k).1].pending ≠ none ∨
        (makeAbsent (headBOf k) s).served[(headBOf k).1].inTransaction = true ∨
        (makeAbsent (headBOf k) s).served[(headBOf k).1].state = .replacing
    · simp only [requestEnding_busy hb]
      exact hupd hj
    · push Not at hb
      obtain ⟨hp, ht, hst⟩ := hb
      simp only [requestEnding_idle hp (Bool.eq_false_iff.2 ht) hst]
      exact hupd hj
  · simp only [requestEnding_idle hp ht hst, upd_self]
  · simp only [requestEnding_busy hb, upd_self]

/-! ## The command -/

theorem anyPlanShows_congr {s t : State} (h : t.comp = s.comp) (hd : HeadId) : t.anyPlanShows hd = s.anyPlanShows hd := by
  unfold State.anyPlanShows
  rw [h]

section
variable {c : CellId} {s : State} {p : List Byte} {k : TargetId}

theorem ownTargetSetup_range (h : 8 ≤ (at8 p 0).toNat) : ownTargetSetup c p s = complete c .badParam [0xFF] s := by
  unfold ownTargetSetup
  rw [asFin_of_le h]

theorem ownTargetSetup_unfitted (h : (at8 p 0).toNat = k.1) (hfit : s.fittedTarget k = false) :
    ownTargetSetup c p s = complete c .notFitted [0xFF] s := by
  unfold ownTargetSetup
  rw [asFin_of_eq h]
  exact if_pos hfit

theorem ownTargetSetup_refused {i : Nat} (h : (at8 p 0).toNat = k.1) (hfit : s.fittedTarget k = true)
    (hf : setupFailure (s.xm.mem.block 0x0D00 26) (s.anyPlanShows (headBOf k)) = some i) :
    ownTargetSetup c p s = complete c .badParam [byte i] s := by
  unfold ownTargetSetup
  rw [asFin_of_eq h]
  refine (if_neg (by rw [hfit]; nofun)).trans ?_
  dsimp only
  rw [show Config.setupBase = 0x0D00 from rfl, hf]

theorem ownTargetSetup_applied (h : (at8 p 0).toNat = k.1) (hfit : s.fittedTarget k = true)
    (hf : setupFailure (s.xm.mem.block 0x0D00 26) (s.anyPlanShows (headBOf k)) = none) :
    ownTargetSetup c p s =
      complete c .ok (setupBytesTaken (s.xm.mem.block 0x0D00 26)) (applySetup k (setupOf (s.xm.mem.block 0x0D00 26)) s) := by
  unfold ownTargetSetup
  rw [asFin_of_eq h]
  refine (if_neg (by rw [hfit]; nofun)).trans ?_
  dsimp only
  rw [show Config.setupBase = 0x0D00 from rfl, hf]
end

/-- Settles O48. -/
theorem targetSetupChecksThenApplies : Obligations.TargetSetupChecksThenApplies := by
  unfold Obligations.TargetSetupChecksThenApplies
  intro t c s hready u p
  have hexec : exec (.targetSetup t c) s = .next (settle (ownTargetSetup c (s.cellParams c) u)) := takeCell_ready hready
  have hnext {v : State} (hown : ownTargetSetup c (s.cellParams c) u = v) (hv : v.focus = u.focus) :
      exec (.targetSetup t c) s = .next v := by
    rw [hexec, hown, settle_of_empty v ((congrArg Focus.inbox hv).trans hready.1.2)]
  have hp : (at8 (s.cellParams c) 0).toNat = p := congrArg BitVec.toNat (cellParams_at8 s c 0 (by omega))
  refine ⟨fun hle => hnext (ownTargetSetup_range (by rw [hp]; exact hle)) (complete_focus ..), fun k hk =>
    ⟨fun hunfit => hnext (ownTargetSetup_unfitted (hp.trans hk) ?unfitted) (complete_focus ..), fun hfit => ?fitted⟩⟩
  case unfitted => exact Bool.eq_false_iff.2 fun hf => absurd ((fittedTarget_iff u k).1 hf) (not_lt.2 hunfit)
  intro block b n delay width width_ height_ failures
  have hfitted : u.fittedTarget k = true := (fittedTarget_iff u k).2 hfit
  have hmem (a : Nat) (ha : 0x0400 ≤ a) : u.xm.mem.read a = s.xm.mem.read a := take_read_above c (s.advance t) ha
  have hblock : u.xm.mem.block 0x0D00 26 = block := by
    rw [Memory.block_eq]
    exact List.map_congr_left fun i _ => hmem _ (by omega)
  have hb (i : Nat) (hi : i < 26) : (at8 block i).toNat = b i := by
    rw [← hblock, block_at8 _ _ _ _ hi, hmem _ (by omega)]
  have hfirst := setupFailure_firstOf hb (s.anyPlanShows (headBOf k))
  have hshows : u.anyPlanShows (headBOf k) = s.anyPlanShows (headBOf k) := anyPlanShows_congr rfl _
  have hfail : setupFailure (u.xm.mem.block 0x0D00 26) (u.anyPlanShows (headBOf k)) =
      setupFailure block (s.anyPlanShows (headBOf k)) := by rw [hblock, hshows]
  refine ⟨fun m q i hm hq hlt => ?refused, fun hall => ?applied⟩
  case refused =>
    have hsome := hfirst.eq_some hm hq hlt
    exact hnext (ownTargetSetup_refused (hp.trans hk) hfitted (hfail.trans hsome)) (complete_focus ..)
  case applied =>
    intro q taken written w
    have hnone := hfirst.eq_none hall
    have hq : setupOf block = q := setupOf_bytes hb
    have htaken : setupBytesTaken block = taken := setupBytesTaken_bytes hb (by simp [block])
    have hw : setupApplied k q u = w := rfl
    have hown : ownTargetSetup c (s.cellParams c) u = complete c .ok taken (applySetup k q u) := by
      rw [ownTargetSetup_applied (hp.trans hk) hfitted (hfail.trans hnone), hblock, hq, htaken]
    refine ⟨fun hstays => ?stays, fun hhad h1 => ?ends⟩
    case stays =>
      have hno : ¬(u.setups[k.1].headB = true ∧ q.headB = false) := by
        rintro ⟨hhad, hnot⟩
        obtain h | h := hstays
        · rw [show u.setups[k.1].headB = false from h] at hhad
          cases hhad
        · exact of_decide_eq_false hnot h
      have happlied : applySetup k q u = w := by rw [applySetup_eq, if_neg hno, hw]
      rw [happlied] at hown
      refine hnext hown ((complete_focus ..).trans ?_)
      rw [← hw]
      exact (setupApplied_rest k q u).1
    case ends =>
      intro hB o ending
      have hyes : u.setups[k.1].headB = true ∧ q.headB = false := ⟨hhad, decide_eq_false (show ¬b 0 = 2 by omega)⟩
      have happlied : applySetup k q u = unfitHeadB k w := by rw [applySetup_eq, if_pos hyes, hw]
      rw [happlied] at hown
      obtain ⟨-, hserved, hheads⟩ := setupApplied_rest k q u
      rw [hw] at hserved hheads
      have hunfit := kept_unfitHeadB k w
      have hends := unfitHeadB_ends k w
      rw [hserved] at hends
      have hdone : Kept (unfitHeadB k w) (settle (complete c .ok taken (unfitHeadB k w))) :=
        (kept_complete c .ok taken _).trans (kept_settle _)
      refine ⟨_, (unfitHeadB k w).served, hexec.trans (congrArg (fun x => Host.Outcome.next (settle x)) hown),
        (kept_settle _).entry_none (by rw [complete_entry, if_pos rfl]), ?_, hends.others, hends.idle, hends.busy⟩
      exact hunfit.trans hdone

end Sys2Proof.Machine
end

section
/-! PROOFS. PANEL_MAP_LOAD (R164): the two passes over its entries, and the map they give. -/

namespace Sys2Proof.Machine

open Sys2Proof

/-! ## The passes over an entry -/

/-- The range pass refuses an entry. -/
def PanelEntryBeyond (e : List Byte) : Prop :=
  11 ≤ (at8 e 0).toNat ∨ OperandsBeyond (at8 e 0).toNat (operandsAt e 1) ∨ 7 ≤ (at8 e 6).toNat ∨
    OperandBeyond 8 6 (at8 e 6) (at8 e 7) ∨ 15 < (at8 e 8).toNat ∨ 3 ≤ (at8 e 9).toNat

/-- The fitting pass refuses an entry. -/
def PanelEntryUnfitted (s : State) (e : List Byte) : Prop :=
  OperandsUnfitted s (at8 e 0).toNat (operandsAt e 1) ∨
    OperandBeyond s.straps.targets s.straps.screens (at8 e 6) (at8 e 7)

theorem panelEntryInRange_iff (e : List Byte) : panelEntryInRange e = true ↔ ¬PanelEntryBeyond e := by
  unfold panelEntryInRange PanelEntryBeyond
  rw [Bool.and_eq_true, indicatorInRange_iff]
  by_cases ha : (at8 e 0).toNat < 11
  · obtain ⟨a, hact, hn⟩ := Action.ofByte_of_lt ha
    rw [hact]
    show (operandsAt e 1).inRange a = true ∧ _ ↔ _
    rw [inRange_iff, ← hn]
    grind
  · rw [Action.ofByte_of_le (not_lt.1 ha)]
    show false = true ∧ _ ↔ _
    grind

theorem panelEntryFitted_iff {s : State} {e : List Byte} (h : ¬PanelEntryBeyond e) :
    panelEntryFitted s e = true ↔ ¬PanelEntryUnfitted s e := by
  unfold PanelEntryBeyond at h
  simp only [not_or, not_le] at h
  obtain ⟨ha, hops, hsrc, -⟩ := h
  obtain ⟨a, hact, hn⟩ := Action.ofByte_of_lt ha
  obtain ⟨src, hcode⟩ := IndSource.exists_code_of_lt hsrc
  rw [hn] at hops
  unfold panelEntryFitted PanelEntryUnfitted
  rw [hact, hcode, IndSource.ofByte_code]
  show ((operandsAt e 1).fitted s a && src.operandFitted s (at8 e 7)) = true ↔ _
  rw [Bool.and_eq_true, fitted_iff hops, IndSource.operandFitted_iff, hn, not_or]

/-! ## The load -/

/-- An entry of the map as it stands in the memory. -/
def mapBytes (m : Memory) (i : PosId) : List Byte := m.block (0x1000 + 12 * i.1) 12

theorem mapEntries_eq (m : Memory) : entriesOf 12 24 (m.block Config.panelMapBase 288) = (ids 24).map (mapBytes m) :=
  entriesOf_block m 12 24 0x1000

/-- The panel with the map of a block. -/
def mapLoaded (m : Memory) (p : Panel) : Panel :=
  { p with
    keys := mapVec p.keys fun i k =>
      { k with action := (Action.ofByte (at8 (mapBytes m i) 0)).getD .nothing, ops := operandsAt (mapBytes m i) 1 },
    inds := Vector.ofFn fun i =>
      indicatorOf (at8 (mapBytes m i) 6) (at8 (mapBytes m i) 7) (at8 (mapBytes m i) 8) (at8 (mapBytes m i) 9) false }

theorem applyPanelMap_eq (m : Memory) (s : State) :
    applyPanelMap ((ids 24).map (mapBytes m)) s = notice .panel { s with panel := mapLoaded m s.panel } := by
  unfold applyPanelMap
  simp only [map_ids_getD]
  rfl

section
variable {c : CellId} {p : List Byte} {s : State}

theorem ownPanelMapLoad_of_beyond {i : PosId} (hi : PanelEntryBeyond (mapBytes s.xm.mem i))
    (hlt : ∀ j < i, ¬PanelEntryBeyond (mapBytes s.xm.mem j)) :
    ownPanelMapLoad c p s = complete c .badParam [byte i.1] s := by
  have hfail := firstFailure_ids_eq_some (ok := panelEntryInRange) (f := mapBytes s.xm.mem) (i := i)
    (Bool.eq_false_iff.2 fun h => (panelEntryInRange_iff _).1 h hi) fun j hj => (panelEntryInRange_iff _).2 (hlt j hj)
  dsimp only [ownPanelMapLoad]
  rw [mapEntries_eq, hfail]

theorem panelMap_range_passes (h : ∀ i, ¬PanelEntryBeyond (mapBytes s.xm.mem i)) :
    firstFailure (fun i e => if panelEntryInRange e then none else some i) 0 ((ids 24).map (mapBytes s.xm.mem)) = none :=
  firstFailure_ids_eq_none fun i => (panelEntryInRange_iff _).2 (h i)

theorem ownPanelMapLoad_of_unfitted (hrange : ∀ i, ¬PanelEntryBeyond (mapBytes s.xm.mem i)) {i : PosId}
    (hi : PanelEntryUnfitted s (mapBytes s.xm.mem i)) (hlt : ∀ j < i, ¬PanelEntryUnfitted s (mapBytes s.xm.mem j)) :
    ownPanelMapLoad c p s = complete c .notFitted [byte i.1] s := by
  have hfail := firstFailure_ids_eq_some (ok := panelEntryFitted s) (f := mapBytes s.xm.mem) (i := i)
    (Bool.eq_false_iff.2 fun h => (panelEntryFitted_iff (hrange i)).1 h hi)
    fun j hj => (panelEntryFitted_iff (hrange j)).2 (hlt j hj)
  dsimp only [ownPanelMapLoad]
  rw [mapEntries_eq, panelMap_range_passes hrange, hfail]

theorem ownPanelMapLoad_of_taken (hrange : ∀ i, ¬PanelEntryBeyond (mapBytes s.xm.mem i))
    (hfit : ∀ i, ¬PanelEntryUnfitted s (mapBytes s.xm.mem i)) :
    ownPanelMapLoad c p s =
      complete c .ok [byte (mapLoaded s.xm.mem s.panel).actionCount] (notice .panel { s with panel := mapLoaded s.xm.mem s.panel }) := by
  have hpass : firstFailure (fun i e => if panelEntryFitted s e then none else some i) 0 ((ids 24).map (mapBytes s.xm.mem)) = none :=
    firstFailure_ids_eq_none fun i => (panelEntryFitted_iff (hrange i)).2 (hfit i)
  dsimp only [ownPanelMapLoad]
  rw [mapEntries_eq, panelMap_range_passes hrange, hpass]
  dsimp only
  rw [applyPanelMap_eq]
  rfl
end

theorem actionCount_eq (p : Panel) : p.actionCount = ((ids 24).filter fun i => decide (p.keys[i.1].action ≠ .nothing)).length := by
  rw [Panel.actionCount, toList_eq_map_ids, List.filter_map, List.length_map]
  congr 1
  refine List.filter_congr fun i _ => ?_
  simp

theorem mapBytes_take (c : CellId) (s : State) (i : PosId) {j : Nat} (h : j < 12) :
    at8 (mapBytes (take c s).xm.mem i) j = s.xm.mem.read (0x1000 + 12 * i.1 + j) := by
  rw [mapBytes, block_at8 _ _ _ _ h, take_read_above c s (by omega)]

/-- Settles O53. -/
theorem panelMapLoadReplacesMap : Obligations.PanelMapLoadReplacesMap := by
  unfold Obligations.PanelMapLoadReplacesMap
  intro t c s hready u b n names follows tiles outOfRange unfitted
  have hb (i : PosId) {j : Nat} (hj : j < 12) : at8 (mapBytes u.xm.mem i) j = b i j := mapBytes_take c (s.advance t) i hj
  have hops (i : PosId) : operandsAt (mapBytes u.xm.mem i) 1 =
      { target := b i 1, screen := b i 2, tile := b i 3, layout := b i 4, head := b i 5 } := by
    simp only [operandsAt, hb i (show 1 < 12 by omega), hb i (show 1 + 1 < 12 by omega), hb i (show 1 + 2 < 12 by omega),
      hb i (show 1 + 3 < 12 by omega), hb i (show 1 + 4 < 12 by omega)]
  have hbeyond (i : PosId) : PanelEntryBeyond (mapBytes u.xm.mem i) ↔ outOfRange i := by
    unfold PanelEntryBeyond OperandsBeyond OperandBeyond
    rw [hops, hb i (show 0 < 12 by omega), hb i (show 6 < 12 by omega), hb i (show 7 < 12 by omega), hb i (show 8 < 12 by omega),
      hb i (show 9 < 12 by omega), or_assoc, or_assoc, or_assoc]
  have hunfitted (i : PosId) : PanelEntryUnfitted u (mapBytes u.xm.mem i) ↔ unfitted i := by
    unfold PanelEntryUnfitted OperandsUnfitted OperandBeyond
    rw [hops, hb i (show 0 < 12 by omega), hb i (show 6 < 12 by omega), hb i (show 7 < 12 by omega), or_assoc, or_assoc]
    rfl
  have hquiet {v : State} (hv : ownPanelMapLoad c (s.cellParams c) u = v) (hempty : v.focus.inbox = []) :
      exec (.panelMapLoad t c) s = .next v :=
    (takeCell_quiet (owner := ownPanelMapLoad) hready (by rw [show ownPanelMapLoad _ _ _ = v from hv]; exact hempty)).trans
      (congrArg _ hv)
  have hdone (r : Result) (data : List Byte) : (complete c r data u).focus.inbox = [] := by
    rw [complete_focus]
    exact hready.1.2
  refine ⟨fun i hi hlt => hquiet ?range (hdone _ _), fun hrange => ⟨fun i hi hlt => hquiet ?fitting (hdone _ _), fun hfit => ?taken⟩⟩
  case range => exact ownPanelMapLoad_of_beyond ((hbeyond i).2 hi) fun j hj h => hlt j hj ((hbeyond j).1 h)
  case fitting =>
    exact ownPanelMapLoad_of_unfitted (fun i h => hrange i ((hbeyond i).1 h)) ((hunfitted i).2 hi)
      fun j hj h => hlt j hj ((hunfitted j).1 h)
  case taken =>
    intro action keys inds
    have hkeys : (mapLoaded u.xm.mem u.panel).keys = keys := by
      simp only [mapLoaded, hops, hb _ (show 0 < 12 by omega)]
      rfl
    have hinds : (mapLoaded u.xm.mem u.panel).inds = inds := by
      simp only [mapLoaded, hb _ (show 6 < 12 by omega), hb _ (show 7 < 12 by omega), hb _ (show 8 < 12 by omega),
        hb _ (show 9 < 12 by omega)]
      rfl
    have hloaded : mapLoaded u.xm.mem u.panel = { u.panel with keys := keys, inds := inds } := by
      rw [← hkeys, ← hinds]
      rfl
    have hcount : (mapLoaded u.xm.mem u.panel).actionCount = ((ids 24).filter fun i => decide (action i ≠ .nothing)).length := by
      rw [actionCount_eq, hkeys]
      simp only [keys, mapVec_get]
    refine hquiet ?_ ?_
    · rw [ownPanelMapLoad_of_taken (fun i h => hrange i ((hbeyond i).1 h)) fun i h => hfit i ((hunfitted i).1 h), hcount, hloaded]
    · rw [complete_focus]
      exact hready.1.2

end Sys2Proof.Machine
end

section
/-! PROOFS. The panel scanner's view, its indicators and its tallies (R159 to R162). -/

namespace Sys2Proof.Machine

open Sys2Proof

/-! ## Reports to the view (R159, R161, R166) -/

/-- The panel with a view, and the buffered duties worked out from it. -/
def panelViewed (s : State) (view : PanelView) : Panel :=
  { s.panel with
    view := view
    tallies := mapVec s.panel.tallies fun sc c => { c with buffered :=
      if sc.1 < s.straps.screens then
        match view.focus with
        | .focused k => if view.plans[sc.1].shows k then s.panel.focusDuty else s.panel.idleDuty
        | _ => s.panel.idleDuty
      else 0 } }

theorem conditions_eq_iff_indicators {p q : Panel} (h : p.inds = q.inds) :
    p.conditions = q.conditions ↔ ∀ i : PosId, q.inds[i.1].condition p.view = q.inds[i.1].condition q.view := by
  unfold Panel.conditions
  rw [h, toList_eq_map_ids, List.map_map, List.map_map, List.map_inj_left]
  exact ⟨fun hall i => hall i (mem_ids i), fun hall i _ => hall i⟩

theorem panelReport_view (g : PanelView → PanelView) (s : State) :
    panelReport (fun p => { p with view := g p.view }) s =
      if ∀ i : PosId, s.panel.inds[i.1].condition (g s.panel.view) = s.panel.inds[i.1].condition s.panel.view then
        { s with panel := panelViewed s (g s.panel.view) }
      else rewriteMirror .panel { s with panel := panelViewed s (g s.panel.view) } := by
  have hviewed : ({ s.panel with view := g s.panel.view } : Panel).workOutDuties s.straps = panelViewed s (g s.panel.view) := rfl
  unfold panelReport
  dsimp only
  rw [hviewed]
  have hiff := conditions_eq_iff_indicators (p := panelViewed s (g s.panel.view)) (q := s.panel) rfl
  by_cases hall : ∀ i : PosId, s.panel.inds[i.1].condition (g s.panel.view) = s.panel.inds[i.1].condition s.panel.view
  · rw [if_pos hall, if_pos (hiff.2 hall)]
  · rw [if_neg hall, if_neg (mt hiff.1 hall)]

/-! ## The condition of an indicator (R159) -/

section
variable {i : Indicator} {v : PanelView}

theorem condition_focus (h : i.source = .focus) :
    i.condition v = true ↔ ∃ k, v.focus.target = some k ∧ i.operand.toNat = k.1 := by
  unfold Indicator.condition
  rw [h]
  dsimp only
  cases v.focus.target with
  | none => exact ⟨nofun, fun ⟨_, hk, _⟩ => nomatch hk⟩
  | some t =>
    rw [decide_eq_true_eq]
    exact ⟨fun ht => ⟨t, rfl, ht.symm⟩, fun ⟨_, hk, hop⟩ => by cases hk; exact hop.symm⟩

theorem any_ids_iff {n : Nat} (m : Nat) (f : Fin n → Bool) :
    ((ids n).any fun k => decide (k.1 = m) && f k) = true ↔ ∃ k : Fin n, m = k.1 ∧ f k = true := by
  rw [List.any_eq_true]
  constructor
  · rintro ⟨k, -, hk⟩
    rw [Bool.and_eq_true, decide_eq_true_eq] at hk
    exact ⟨k, hk.1.symm, hk.2⟩
  · rintro ⟨k, hk, hf⟩
    exact ⟨k, mem_ids k, by rw [Bool.and_eq_true, decide_eq_true_eq]; exact ⟨hk.symm, hf⟩⟩

theorem condition_power (h : i.source = .power) :
    i.condition v = true ↔ ∃ k : TargetId, i.operand.toNat = k.1 ∧ v.power[k.1] = .on := by
  unfold Indicator.condition
  rw [h]
  dsimp only
  rw [any_ids_iff]
  simp only [decide_eq_true_eq]

theorem condition_waking (h : i.source = .waking) :
    i.condition v = true ↔ ∃ k : TargetId, i.operand.toNat = k.1 ∧ v.waking[k.1] = true := by
  unfold Indicator.condition
  rw [h]
  dsimp only
  rw [any_ids_iff]

theorem condition_screenLoaned (h : i.source = .screenLoaned) :
    i.condition v = true ↔ ∃ sc : ScreenId, i.operand.toNat = sc.1 ∧ v.loaned[sc.1] = true := by
  unfold Indicator.condition
  rw [h]
  dsimp only
  rw [any_ids_iff]

theorem condition_nothing (h : i.source = .nothing) : i.condition v = false := by
  unfold Indicator.condition
  rw [h]

theorem condition_pin (h : i.source = .pin) : i.condition v = v.pin := by
  unfold Indicator.condition
  rw [h]

theorem condition_host (h : i.source = .host) : i.condition v = i.hostLevel := by
  unfold Indicator.condition
  rw [h]
end

/-- The next PWM period of a tally channel (R162). -/
def nextTallyPeriod (sc : ScreenId) (s : State) : State :=
  { s with panel := { s.panel with
    tallies := upd s.panel.tallies sc fun c => { c with working := c.buffered, periodStart := s.now } } }

/-- Settles O52. -/
theorem tallyPeriodLoadsDuty : Obligations.TallyPeriodLoadsDuty := by
  unfold Obligations.TallyPeriodLoadsDuty
  refine ⟨fun s => ?reports, fun i v => ⟨condition_nothing, condition_focus, condition_power, condition_waking, condition_screenLoaned,
    condition_pin, condition_host⟩, fun n => ⟨rfl, decide_eq_true_iff, decide_eq_true_iff⟩, fun t sc s hs => ?period, fun sc s hr => ?lit⟩
  case reports =>
    intro old told
    refine ⟨panelReport_view (fun v => { v with focus := s.focus.st, pin := s.focus.pin }) s,
      fun k p => panelReport_view (fun v => { v with power := v.power.set k.1 p k.2 }) s,
      fun k w => panelReport_view (fun v => { v with waking := v.waking.set k.1 w k.2 }) s, fun sc => ?_⟩
    have hloans (ls : List Loan) : (!ls.isEmpty) = !decide (ls = []) := by
      cases ls with
      | nil => rfl
      | cons l ls => rfl
    rw [← hloans]
    exact panelReport_view (fun v => { v with
      loaned := v.loaned.set sc.1 (!s.comp.screens[sc.1].loans.isEmpty) sc.2,
      plans := v.plans.set sc.1 s.comp.screens[sc.1].active sc.2 }) s
  case period => exact act_quiet (f := nextTallyPeriod sc) hs hs.2
  case lit =>
    rw [State.tallyLit, hr]
    simp

end Sys2Proof.Machine
end

section
/-! PROOFS. The panel scanner's slots, its key readings and the long press (R154 to R158). -/

namespace Sys2Proof.Machine

open Sys2Proof

/-! ## A reading of a key (R155) -/

/-- A key's reading is counted as an event: a HOST key reports both ways, a NOTIFY key its presses. -/
def PanelKey.reports (k : PanelKey) (down : Bool) : Bool :=
  decide (k.action = .host) || (down && decide (k.action = .notify))

/-- The key after a reading (R155, R156, R158). -/
def PanelKey.read (now : Nat) (pressed : Bool) (k : PanelKey) : PanelKey :=
  if pressed = decide (k.state ≠ .up) then { k with debounce := 0 }
  else if k.debounce < 2 then { k with debounce := k.debounce + 1 }
  else { k with
    state := if pressed then .down else .up, debounce := 0,
    longDue := if pressed then some (now + 1000000) else none,
    events := if k.reports pressed then k.events + 1 else k.events }

/-- The key as it becomes DOWN. -/
def PanelKey.downed (now : Nat) (k : PanelKey) : PanelKey := { k with state := .down, debounce := 0, longDue := some (now + 1000000) }

/-- The key as it becomes UP. -/
def PanelKey.upped (k : PanelKey) : PanelKey := { k with state := .up, debounce := 0, longDue := none }

theorem PanelKey.pressed_eq (k : PanelKey) : k.pressed = decide (k.state ≠ .up) := decide_not.symm

section
variable {p : PosId} {pressed : Bool} {s : State}

theorem readKey_same (h : pressed = decide (s.panel.keys[p.1].state ≠ .up)) :
    readKey p pressed s = modPanelKey p (fun k => { k with debounce := 0 }) s :=
  if_pos (h.trans (PanelKey.pressed_eq _).symm)

theorem readKey_unsettled (h : pressed ≠ decide (s.panel.keys[p.1].state ≠ .up)) (hd : s.panel.keys[p.1].debounce < 2) :
    readKey p pressed s = modPanelKey p (fun k => { k with debounce := k.debounce + 1 }) s :=
  (if_neg fun e => h (e.trans (PanelKey.pressed_eq _))).trans (if_pos (Nat.succ_lt_succ hd))

theorem readKey_settled (h : pressed ≠ decide (s.panel.keys[p.1].state ≠ .up)) (hd : 2 ≤ s.panel.keys[p.1].debounce) :
    readKey p pressed s = if pressed then keyDown p s else keyUp p s :=
  (if_neg fun e => h (e.trans (PanelKey.pressed_eq _))).trans (if_neg (by omega))

theorem readKey_down (hup : s.panel.keys[p.1].state = .up) (hd : 2 ≤ s.panel.keys[p.1].debounce) :
    readKey p true s = keyDown p s :=
  readKey_settled (by rw [hup]; decide) hd

theorem readKey_up (hup : s.panel.keys[p.1].state ≠ .up) (hd : 2 ≤ s.panel.keys[p.1].debounce) :
    readKey p false s = keyUp p s :=
  readKey_settled (by simp [hup]) hd
end

/-! ## A key that becomes DOWN or UP (R156, R158) -/

section
variable (p : PosId) (s : State)

theorem modPanelKey_self (f : PanelKey → PanelKey) : (modPanelKey p f s).panel.keys[p.1] = f s.panel.keys[p.1] := upd_self _ _ _

theorem modPanelKey_keys_of {p : PosId} {s : State} {f g : PanelKey → PanelKey} (h : f s.panel.keys[p.1] = g s.panel.keys[p.1]) :
    (modPanelKey p f s).panel.keys = upd s.panel.keys p g := upd_congr h

theorem modPanelKey_action {f : PanelKey → PanelKey} (hf : ∀ k, (f k).action = k.action) :
    (modPanelKey p f s).panel.keys[p.1].action = s.panel.keys[p.1].action :=
  (congrArg PanelKey.action (modPanelKey_self p s f)).trans (hf _)

theorem keyDown_of_reports (h : s.panel.keys[p.1].action = .notify ∨ s.panel.keys[p.1].action = .host) :
    keyDown p s = panelEvent p false (modPanelKey p (PanelKey.downed s.now) s) := by
  have hself := modPanelKey_action p s (f := PanelKey.downed s.now) fun _ => rfl
  show raiseAction p (modPanelKey p (PanelKey.downed s.now) s) = _
  unfold raiseAction
  dsimp only
  obtain h | h := h
  all_goals rw [hself, h]

theorem keyDown_of_asks {a : Action} (h : s.panel.keys[p.1].action = a) (hn : a ≠ .notify) (hh : a ≠ .host) :
    keyDown p s =
      dispatchAction .panel a s.panel.keys[p.1].ops (rewriteMirror .panel (modPanelKey p (PanelKey.downed s.now) s)) := by
  have hself : (modPanelKey p (PanelKey.downed s.now) s).panel.keys[p.1] = PanelKey.downed s.now s.panel.keys[p.1] :=
    modPanelKey_self p s _
  have hops : s.panel.keys[p.1].ops = (PanelKey.downed s.now s.panel.keys[p.1]).ops := rfl
  have haction : (PanelKey.downed s.now s.panel.keys[p.1]).action = a := h
  show raiseAction p (modPanelKey p (PanelKey.downed s.now) s) = _
  unfold raiseAction
  dsimp only
  rw [hself, haction, hops]
  cases a with
  | notify => exact absurd rfl hn
  | host => exact absurd rfl hh
  | _ => rfl

theorem keyUp_of_host (h : s.panel.keys[p.1].action = .host) : keyUp p s = panelEvent p true (modPanelKey p PanelKey.upped s) := by
  have hself := modPanelKey_action p s (f := PanelKey.upped) fun _ => rfl
  unfold keyUp
  dsimp only
  split
  next => rfl
  next hother => exact absurd (hself.trans h) hother

theorem keyUp_of_other (h : s.panel.keys[p.1].action ≠ .host) : keyUp p s = rewriteMirror .panel (modPanelKey p PanelKey.upped s) := by
  have hself := modPanelKey_action p s (f := PanelKey.upped) fun _ => rfl
  unfold keyUp
  dsimp only
  split
  next hhost => exact absurd (hself.symm.trans hhost) h
  next => rfl
end

/-! ## What a reading leaves as it was -/

/-- The state with these keys and this last event of the panel. -/
def State.withKeys (keys : Vector PanelKey 24) (last : Option (PosId × Bool)) (s : State) : State :=
  { s with panel := { s.panel with keys := keys, lastEvent := last } }

/-- `t` is `s` with other keys and another last event, after work of the blocks below. -/
def KeptKeys (s t : State) : Prop := Kept (s.withKeys t.panel.keys t.panel.lastEvent) t

theorem kept_withKeys {s t : State} (h : Kept s t) (keys : Vector PanelKey 24) (last : Option (PosId × Bool)) :
    Kept (s.withKeys keys last) (t.withKeys keys last) := by
  have houter : (t.withKeys keys last).outer = (s.withKeys keys last).outer := by
    have ho := h.outer
    simp only [State.outer, Prod.mk.injEq] at ho
    simp [State.outer, State.withKeys, ho]
  exact ⟨houter, h.screens, h.lines, h.canonical, h.above, h.cells, h.inWork, h.residuals, h.done⟩

theorem Kept.keptKeys {s t : State} (h : Kept s t) : KeptKeys s t := by
  unfold KeptKeys
  rw [h.keys, h.lastEvent]
  exact h

theorem KeptKeys.now {s t : State} (h : KeptKeys s t) : t.now = s.now :=
  Kept.now (s := s.withKeys t.panel.keys t.panel.lastEvent) h

theorem KeptKeys.trans {s t u : State} (h : KeptKeys s t) (g : KeptKeys t u) : KeptKeys s u :=
  Kept.trans (kept_withKeys h u.panel.keys u.panel.lastEvent) g

theorem keptKeys_foldl {α : Type} {f : State → α → State} (hf : ∀ s a, KeptKeys s (f s a)) (l : List α) (s : State) :
    KeptKeys s (l.foldl f s) := by
  induction l generalizing s with
  | nil => exact (Kept.refl s).keptKeys
  | cons a l ih => exact (hf s a).trans (ih (f s a))

section
variable (p : PosId) (s : State)

theorem keptKeys_modPanelKey (f : PanelKey → PanelKey) : KeptKeys s (modPanelKey p f s) := Kept.refl (modPanelKey p f s)

/-- The key's event counted, and kept as the last one (R166). -/
def eventTaken (release : Bool) : State :=
  { modPanelKey p (fun k => { k with events := k.events + 1 }) s with panel :=
    { (modPanelKey p (fun k => { k with events := k.events + 1 }) s).panel with lastEvent := some (p, release) } }

theorem panelEvent_eq (release : Bool) : panelEvent p release s = notice .panel (eventTaken p s release) := rfl

theorem keptKeys_panelEvent (release : Bool) : KeptKeys s (panelEvent p release s) :=
  KeptKeys.trans (t := eventTaken p s release) (Kept.refl (eventTaken p s release)) (kept_notice .panel _).keptKeys

theorem panelEvent_keys (release : Bool) :
    (panelEvent p release s).panel.keys = upd s.panel.keys p fun k => { k with events := k.events + 1 } :=
  (kept_notice .panel (eventTaken p s release)).keys

/-- The key after it becomes DOWN, its event counted. -/
def PanelKey.pressedDown (now : Nat) (k : PanelKey) : PanelKey :=
  { k.downed now with events := if k.reports true then k.events + 1 else k.events }

/-- The key after it becomes UP, its event counted. -/
def PanelKey.released (k : PanelKey) : PanelKey := { k.upped with events := if k.reports false then k.events + 1 else k.events }

theorem keyDown_kept : KeptKeys s (keyDown p s) ∧ (keyDown p s).panel.keys = upd s.panel.keys p (PanelKey.pressedDown s.now) := by
  have hmod := keptKeys_modPanelKey p s (PanelKey.downed s.now)
  by_cases h : s.panel.keys[p.1].action = .notify ∨ s.panel.keys[p.1].action = .host
  · have hreports : s.panel.keys[p.1].reports true = true := by
      obtain h | h := h
      all_goals simp [PanelKey.reports, h]
    rw [keyDown_of_reports p s h]
    refine ⟨hmod.trans (keptKeys_panelEvent _ _ _), ?_⟩
    rw [panelEvent_keys, modPanelKey, upd_upd]
    exact upd_congr (by simp only [PanelKey.pressedDown, hreports]; rfl)
  · push Not at h
    obtain ⟨hn, hh⟩ := h
    have hreports : s.panel.keys[p.1].reports true = false := by simp [PanelKey.reports, hn, hh]
    have hkept := (kept_rewriteMirror .panel (modPanelKey p (PanelKey.downed s.now) s)).trans
      (kept_dispatchAction .panel s.panel.keys[p.1].action s.panel.keys[p.1].ops _)
    rw [keyDown_of_asks p s rfl hn hh]
    refine ⟨hmod.trans hkept.keptKeys, hkept.keys.trans ?_⟩
    exact upd_congr (by simp only [PanelKey.pressedDown, hreports]; rfl)

theorem keyUp_kept : KeptKeys s (keyUp p s) ∧ (keyUp p s).panel.keys = upd s.panel.keys p PanelKey.released := by
  have hmod := keptKeys_modPanelKey p s PanelKey.upped
  by_cases h : s.panel.keys[p.1].action = .host
  · have hreports : s.panel.keys[p.1].reports false = true := by simp [PanelKey.reports, h]
    rw [keyUp_of_host p s h]
    refine ⟨hmod.trans (keptKeys_panelEvent _ _ _), ?_⟩
    rw [panelEvent_keys, modPanelKey, upd_upd]
    exact upd_congr (by simp only [PanelKey.released, hreports]; rfl)
  · have hreports : s.panel.keys[p.1].reports false = false := by simp [PanelKey.reports, h]
    have hkept := kept_rewriteMirror .panel (modPanelKey p PanelKey.upped s)
    rw [keyUp_of_other p s h]
    refine ⟨hmod.trans hkept.keptKeys, hkept.keys.trans ?_⟩
    exact upd_congr (by simp only [PanelKey.released, hreports]; rfl)

theorem readKey_kept (pressed : Bool) :
    KeptKeys s (readKey p pressed s) ∧ (readKey p pressed s).panel.keys = upd s.panel.keys p (PanelKey.read s.now pressed) := by
  by_cases hsame : pressed = decide (s.panel.keys[p.1].state ≠ .up)
  · rw [readKey_same hsame]
    refine ⟨keptKeys_modPanelKey _ _ _, modPanelKey_keys_of ?_⟩
    exact (if_pos hsame : s.panel.keys[p.1].read s.now pressed = _).symm
  by_cases hd : s.panel.keys[p.1].debounce < 2
  · rw [readKey_unsettled hsame hd]
    refine ⟨keptKeys_modPanelKey _ _ _, modPanelKey_keys_of ?_⟩
    exact ((if_neg hsame).trans (if_pos hd) : s.panel.keys[p.1].read s.now pressed = _).symm
  rw [readKey_settled hsame (not_lt.1 hd)]
  have hread := ((if_neg hsame).trans (if_neg hd) : s.panel.keys[p.1].read s.now pressed = _)
  cases pressed with
  | true =>
    obtain ⟨hkept, hkeys⟩ := keyDown_kept p s
    exact ⟨hkept, hkeys.trans (upd_congr hread.symm)⟩
  | false =>
    obtain ⟨hkept, hkeys⟩ := keyUp_kept p s
    exact ⟨hkept, hkeys.trans (upd_congr hread.symm)⟩
end

/-! ## A slot of the scan (R154, R160) -/

theorem eq_positionOf_iff {d : Fin 4} {r : Fin 6} {p : PosId} : positionOf d r = p ↔ p.1 / 6 = d.1 ∧ p.1 % 6 = r.1 := by
  unfold positionOf
  rw [Fin.ext_iff]
  dsimp only
  omega

/-- The readings of these return lines of a drive line, in their order. -/
def readLines (d : Fin 4) (levels : BitVec 6) (l : List (Fin 6)) (s : State) : State :=
  l.foldl (fun s r => readKey (positionOf d r) (levels.getLsbD r.1) s) s

section
variable {d : Fin 4} {levels : BitVec 6}

theorem keptKeys_readLines (l : List (Fin 6)) (s : State) : KeptKeys s (readLines d levels l s) :=
  keptKeys_foldl (fun s r => (readKey_kept (positionOf d r) s (levels.getLsbD r.1)).1) l s

theorem readLines_keys {l : List (Fin 6)} (hl : l.Nodup) (s : State) (p : PosId) :
    (readLines d levels l s).panel.keys[p.1] =
      if p.1 / 6 = d.1 ∧ ∃ r ∈ l, p.1 % 6 = r.1 then s.panel.keys[p.1].read s.now (levels.getLsbD (p.1 % 6))
      else s.panel.keys[p.1] := by
  induction l generalizing s with
  | nil => simp [readLines]
  | cons r l ih =>
    obtain ⟨hr, hl⟩ := List.nodup_cons.1 hl
    obtain ⟨hkept, hkeys⟩ := readKey_kept (positionOf d r) s (levels.getLsbD r.1)
    have hnow : (readKey (positionOf d r) (levels.getLsbD r.1) s).now = s.now := hkept.now
    have hrest := ih hl (readKey (positionOf d r) (levels.getLsbD r.1) s)
    rw [hnow] at hrest
    refine hrest.trans ?_
    simp only [hkeys, upd_get, eq_positionOf_iff]
    by_cases hp : p.1 / 6 = d.1 ∧ p.1 % 6 = r.1
    · obtain ⟨hd, hm⟩ := hp
      have hout : ¬∃ r' ∈ l, p.1 % 6 = r'.1 := fun ⟨r', hmem, he⟩ => hr (Fin.ext (hm.symm.trans he) ▸ hmem)
      rw [if_neg fun h => hout h.2, if_pos ⟨hd, hm⟩, if_pos ⟨hd, r, List.mem_cons_self, hm⟩, hm]
    · simp only [if_neg hp]
      refine if_congr (and_congr_right fun hd => ?_) rfl rfl
      rw [List.exists_mem_cons_iff]
      exact (or_iff_right fun hm => hp ⟨hd, hm⟩).symm

theorem readSlot_keys (s : State) (p : PosId) :
    (readLines d levels (ids 6) s).panel.keys[p.1] =
      if p.1 / 6 = d.1 then s.panel.keys[p.1].read s.now (levels.getLsbD (p.1 % 6)) else s.panel.keys[p.1] := by
  refine (readLines_keys (List.nodup_finRange 6) s p).trans ?_
  exact if_congr (and_iff_left ⟨⟨p.1 % 6, Nat.mod_lt _ (by omega)⟩, mem_ids _, rfl⟩) rfl rfl
end

/-- The panel with the lights of a drive line's slot (R160). -/
theorem lightSlot_lit (d : Fin 4) (s : State) (p : PosId) :
    (lightSlot d s).panel.lit[p.1] =
      if p.1 / 6 = d.1 then s.panel.inds[p.1].litFor s.panel.view s.phase else s.panel.lit[p.1] := mapVec_get _ _ _

theorem lightSlot_keys (d : Fin 4) (s : State) : (lightSlot d s).panel.keys = s.panel.keys := by simp only [lightSlot]

theorem lightSlot_now (d : Fin 4) (s : State) : (lightSlot d s).now = s.now := by simp only [lightSlot]

section
variable {t : Nat} {levels : BitVec 6} {s : State}

theorem exec_panelSlot_starting (hs : s.live) (h : s.runState = .starting) : exec (.panelSlot t levels) s = .next (s.advance t) := by
  have hskip : (if (s.advance t).runState = .starting then s.advance t else panelSlot levels (s.advance t)) = s.advance t := if_pos h
  refine (act_quiet (f := fun s => if s.runState = .starting then s else panelSlot levels s) hs ?_).trans ?_
  · rw [hskip]
    exact hs.2
  · rw [hskip]

theorem exec_panelSlot (hs : s.live) (h : s.runState ≠ .starting) :
    exec (.panelSlot t levels) s = .next (settle (panelSlot levels (s.advance t))) :=
  (act_live (f := fun s => if s.runState = .starting then s else panelSlot levels s) hs).trans
    (congrArg (fun v => Host.Outcome.next (settle v)) (if_neg h))
end

/-! ## The slot as a whole -/

/-- The state with this drive line next. -/
def State.withDrive (d : Fin 4) (s : State) : State := { s with panel := { s.panel with nextDrive := d } }

theorem withDrive_keys (d : Fin 4) (s : State) : (s.withDrive d).panel.keys = s.panel.keys := rfl

theorem withDrive_lit (d : Fin 4) (s : State) : (s.withDrive d).panel.lit = s.panel.lit := rfl

theorem kept_withDrive {s t : State} (h : Kept s t) (d : Fin 4) : Kept (s.withDrive d) (t.withDrive d) := by
  have houter : (t.withDrive d).outer = (s.withDrive d).outer := by
    have ho := h.outer
    simp only [State.outer, Prod.mk.injEq] at ho
    simp [State.outer, State.withDrive, ho]
  exact ⟨houter, h.screens, h.lines, h.canonical, h.above, h.cells, h.inWork, h.residuals, h.done⟩

/-- The lights of a slot, the readings of these return lines, and the next drive line (R154). -/
def slotRead (levels : BitVec 6) (l : List (Fin 6)) (s : State) : State :=
  (readLines s.panel.nextDrive levels l (lightSlot s.panel.nextDrive s)).withDrive (s.panel.nextDrive + 1)

theorem panelSlot_eq (levels : BitVec 6) (s : State) : panelSlot levels s = slotRead levels (ids 6) s := by
  unfold panelSlot readSlot slotRead readLines
  rfl

/-- The state with the keys, the lights, the last event and the next drive line of a panel. -/
def State.withScan (q : Panel) (s : State) : State :=
  { s with panel := { s.panel with keys := q.keys, lit := q.lit, lastEvent := q.lastEvent, nextDrive := q.nextDrive } }

theorem KeptKeys.lit {s t : State} (h : KeptKeys s t) : t.panel.lit = s.panel.lit :=
  Kept.lit (s := s.withKeys t.panel.keys t.panel.lastEvent) h

theorem KeptKeys.scan {s r t : State} (h : KeptKeys r t) (hr : r = { s with panel := { s.panel with lit := r.panel.lit } }) (d : Fin 4) :
    Kept (s.withScan (t.withDrive d).panel) (t.withDrive d) := by
  have hscan : s.withScan (t.withDrive d).panel = (r.withKeys t.panel.keys t.panel.lastEvent).withDrive d := by
    rw [hr, ← h.lit]
    rfl
  rw [hscan]
  exact kept_withDrive h d

theorem lightSlot_rest (d : Fin 4) (s : State) : lightSlot d s = { s with panel := { s.panel with lit := (lightSlot d s).panel.lit } } := rfl

/-- A slot keeps all but the keys, the slot's lights, the last event and the next drive line. -/
theorem kept_slotRead (levels : BitVec 6) (l : List (Fin 6)) (s : State) : Kept (s.withScan (slotRead levels l s).panel) (slotRead levels l s) := by
  unfold slotRead
  exact (keptKeys_readLines l (lightSlot s.panel.nextDrive s)).scan (lightSlot_rest _ _) _

theorem slotRead_lit (levels : BitVec 6) (l : List (Fin 6)) (s : State) :
    (slotRead levels l s).panel.lit = (lightSlot s.panel.nextDrive s).panel.lit := by
  unfold slotRead
  rw [withDrive_lit, (keptKeys_readLines l (lightSlot s.panel.nextDrive s)).lit]

theorem slotRead_keys (levels : BitVec 6) (s : State) (p : PosId) :
    (slotRead levels (ids 6) s).panel.keys[p.1] =
      if p.1 / 6 = s.panel.nextDrive.1 then s.panel.keys[p.1].read s.now (levels.getLsbD (p.1 % 6)) else s.panel.keys[p.1] := by
  have hread := readSlot_keys (d := s.panel.nextDrive) (levels := levels) (lightSlot s.panel.nextDrive s) p
  unfold slotRead
  simp only [withDrive_keys, hread, lightSlot_keys, lightSlot_now]

theorem Indicator.litFor_eq (v : PanelView) (phase : Nat) (i : Indicator) :
    i.litFor v phase = if i.condition v = true ∧ i.pattern.gate phase = true then i.intensity else 0 := by
  unfold Indicator.litFor
  simp only [Bool.and_eq_true]

/-! ## The long press (R157) -/

/-- The state in which a key has become HELD. -/
def keyIsHeld (p : PosId) (s : State) : State :=
  rewriteMirror .panel (modPanelKey p (fun k => { k with state := .held, longDue := none }) s)

section
variable {p : PosId} {s : State}

theorem keyHeld_of_focus (h : s.panel.keys[p.1].action = .focus) :
    keyHeld p s = wakeRequest s.panel.keys[p.1].ops (keyIsHeld p s) := by
  have hself := modPanelKey_self p s fun k => { k with state := .held, longDue := none }
  have haction : (keyIsHeld p s).panel.keys[p.1].action = .focus := (congrArg PanelKey.action hself).trans h
  have hops : (keyIsHeld p s).panel.keys[p.1].ops = s.panel.keys[p.1].ops := (congrArg PanelKey.ops hself :)
  unfold keyHeld
  dsimp only
  split
  next => rw [← hops]; rfl
  next hother => exact absurd haction hother

theorem keyHeld_of_other (h : s.panel.keys[p.1].action ≠ .focus) : keyHeld p s = keyIsHeld p s := by
  have hself := modPanelKey_self p s fun k => { k with state := .held, longDue := none }
  unfold keyHeld
  dsimp only
  split
  next hfocus => exact absurd ((congrArg PanelKey.action hself).symm.trans hfocus) h
  next => rfl
end

section
variable {k : TargetId} {s : State} (hidle : s.wakes[k.1].state = .idle) (hon : s.power[k.1].state ≠ .on)
include hidle hon

/-- A request of no one that starts with the resume signal. -/
theorem requestWake_nobody_signals (h : s.tlines[k.1].link = .suspended ∧ s.setups[k.1].policy.signal = true) :
    let v := requestWake k .nobody s
    v.focus = s.focus ∧ v.wakes[k.1].state = .signalling ∧ v.wakes[k.1].attempts = 1 ∧ v.wakes[k.1].joined = [] ∧
      v.wakes[k.1].method = some .signal ∧ v.tlines[k.1].resumeUntil ≠ none := by
  obtain ⟨hstarted, huntil⟩ := (requestWake_firstAttempt (who := .nobody) hidle hon).signal h
  have hown := hstarted.own
  refine ⟨hstarted.focus, ?_, ?_, ?_, ?_, ?_⟩
  · rw [hown]
  · rw [hown]; rfl
  · rw [hown]; rfl
  · rw [hown]; rfl
  · rw [huntil]; nofun

/-- A request of no one that the policy's pulse can serve starts an operation, by the one method or the other. -/
theorem requestWake_nobody_pulses (h : s.setups[k.1].policy.pulse = true) :
    let v := requestWake k .nobody s
    v.focus = s.focus ∧ v.wakes[k.1].state ≠ .idle ∧ v.wakes[k.1].attempts = 1 ∧ v.wakes[k.1].joined = [] := by
  obtain ⟨-, hdelaying, hpulsing, hwatching⟩ := requestWake_firstAttempt (who := .nobody) hidle hon
  have hstarts {op : WakeOp} (g : WakeStarted k op s (requestWake k .nobody s)) (hstate : op.state ≠ .idle)
      (hattempts : op.attempts = 1) (hjoined : op.joined = []) :
      (requestWake k .nobody s).focus = s.focus ∧ (requestWake k .nobody s).wakes[k.1].state ≠ .idle ∧
        (requestWake k .nobody s).wakes[k.1].attempts = 1 ∧ (requestWake k .nobody s).wakes[k.1].joined = [] := by
    rw [g.own]
    exact ⟨g.focus, hstate, hattempts, hjoined⟩
  intro v
  by_cases hsignal : s.tlines[k.1].link = .suspended ∧ s.setups[k.1].policy.signal = true
  · obtain ⟨hfocus, hstate, hattempts, hjoined, -, -⟩ := requestWake_nobody_signals hidle hon hsignal
    exact ⟨hfocus, by rw [hstate]; nofun, hattempts, hjoined⟩
  · by_cases hd : 0 < s.setups[k.1].policy.delay
    · exact hstarts (hdelaying hsignal h hd) nofun rfl rfl
    · have hd : s.setups[k.1].policy.delay = 0 := Nat.eq_zero_of_not_pos hd
      by_cases ha : AsksPulse s.power[k.1].state
      · exact hstarts (hpulsing hsignal h hd ha) nofun rfl rfl
      · exact hstarts (hwatching hsignal h hd ha) nofun rfl rfl
end

/-! ## The obligation -/

/-- Settles O51: a slot is a fold of one reading per return line, each of which writes its own key and leaves the rest to the blocks below; the long press is a wake request with no one to tell. -/
theorem panelKeysFollowReadings : Obligations.PanelKeysFollowReadings := by
  unfold Obligations.PanelKeysFollowReadings
  refine ⟨fun t levels s hs => ?slots, fun p s => ?readings, fun t p s hs => ?held⟩
  case slots =>
    intro u d reports after
    refine ⟨exec_panelSlot_starting hs, fun hrun => ⟨exec_panelSlot hs hrun, _, exec_panelSlot hs hrun, ?_, ?_, ?_⟩⟩
    all_goals rw [panelSlot_eq]
    · intro p
      simp only [(kept_settle (slotRead levels (ids 6) (s.advance t))).keys]
      exact slotRead_keys levels (s.advance t) p
    all_goals generalize ids 6 = l
    · intro p
      simp only [(kept_settle (slotRead levels l (s.advance t))).lit, slotRead_lit]
      exact (lightSlot_lit d u p).trans (if_congr Iff.rfl (Indicator.litFor_eq _ _ _) rfl)
    · have hsettle := kept_settle (slotRead levels l (s.advance t))
      rw [hsettle.keys, hsettle.lit, hsettle.lastEvent]
      exact (kept_slotRead levels l (s.advance t)).trans hsettle
  case readings =>
    intro k pressed event
    have hpressed : (!pressed) ≠ decide (k.state ≠ .up) := Bool.not_ne_self _
    refine ⟨readKey_same rfl, readKey_unsettled hpressed, fun hd hup => ?down, fun hd hup => ?up⟩
    case down =>
      intro w v asks
      have hdown := readKey_down hup hd
      have hasks {a : Action} (h : k.action = a) (hn : a ≠ .notify) (hh : a ≠ .host) :
          readKey p true s = dispatchAction .panel a k.ops v := hdown.trans (keyDown_of_asks p s h hn hh)
      refine ⟨fun c h hc => (hasks h nofun nofun).trans (dispatchAction_focus .panel hc v), fun h => hasks h nofun nofun,
        fun h => hasks h nofun nofun, fun h => hasks h nofun nofun, fun h => hasks h nofun nofun, fun h => hasks h nofun nofun,
        fun h => hasks h nofun nofun, fun h => (hasks h nofun nofun).trans (dispatchAction_pinToggle .panel k.ops v),
        fun h => hdown.trans (keyDown_of_reports p s h), fun h => hasks h nofun nofun⟩
    case up => exact ⟨fun h => (readKey_up hup hd).trans (keyUp_of_host p s h), fun h => (readKey_up hup hd).trans (keyUp_of_other p s h)⟩
  case held =>
    intro u k held
    refine ⟨act_undue (due := fun s => s.panel.keys[p.1].longDue) (f := keyHeld p) hs, fun d hd hle => ?_⟩
    have hexec : exec (.longPressExpiry t p) s = .next (settle (keyHeld p u)) :=
      act_due (due := fun s => s.panel.keys[p.1].longDue) (f := keyHeld p) hs hd hle
    have hquiet {v : State} (hv : v.focus = u.focus) : settle v = v := settle_of_empty v ((congrArg Focus.inbox hv).trans hs.2)
    have hheld : settle held = held := hquiet rfl
    refine ⟨fun h => ?other, fun h => ?focus⟩
    case other =>
      have hother : keyHeld p u = held := keyHeld_of_other h
      rw [hexec, hother, hheld]
    case focus =>
      have hkeyHeld : keyHeld p u = wakeRequest k.ops held := keyHeld_of_focus h
      refine ⟨_, hexec, ?_, by rw [hkeyHeld], fun hc => ?_, fun c hc hfit => ?_⟩
      · rw [hkeyHeld]
        exact (kept_wakeRequest _ _).trans (kept_settle _)
      · rw [hkeyHeld, wakeRequest_unfitted (s := held) hc, hheld]
      · have hrequest : keyHeld p u = requestWake c .nobody held := hkeyHeld.trans (wakeRequest_fitted (s := held) hc hfit)
        have hends (hend : held.wakes[c.1].state ≠ .idle ∨ held.power[c.1].state = .on ∨
            (¬(held.tlines[c.1].link = .suspended ∧ held.setups[c.1].policy.signal = true) ∧ held.setups[c.1].policy.pulse = false)) :
            settle (keyHeld p u) = held := by rw [hrequest, requestWake_nobody_ends hend, hheld]
        intro signal
        refine ⟨fun hidle hon => ⟨fun hsig => ?_, fun hsig hp => hends (.inr (.inr ⟨hsig, hp⟩))⟩, fun hend => hends (hend.symm.imp_right .inl),
          fun hidle hon hp => ?_⟩
        · obtain ⟨hfocus, hrest⟩ := requestWake_nobody_signals (s := held) hidle hon hsig
          rw [hrequest, hquiet hfocus]
          exact hrest
        · obtain ⟨hfocus, hrest⟩ := requestWake_nobody_pulses (s := held) hidle hon hp
          rw [hrequest, hquiet hfocus]
          exact hrest

end Sys2Proof.Machine
end

section
/-! PROOFS. LINE_CONTROL, the port registers as they read, and the two lines of the exchange port (R168 to R171, R180). -/

namespace Sys2Proof.Machine

open Sys2Proof

/-! ## The sweep periods and their codes (R171) -/

theorem SweepPeriod.ofCode_code (p : SweepPeriod) : SweepPeriod.ofCode p.code = some p := by
  cases p with
  | off | ms1 | ms2 | ms5 | ms10 => rfl

theorem SweepPeriod.ofCode_of_toNat {b : BitVec 4} {p : SweepPeriod} (h : b.toNat = p.code.toNat) : SweepPeriod.ofCode b = some p := by
  rw [BitVec.eq_of_toNat_eq h, SweepPeriod.ofCode_code]

theorem SweepPeriod.ofCode_of_le {b : BitVec 4} (h : 5 ≤ b.toNat) : SweepPeriod.ofCode b = none := by
  unfold SweepPeriod.ofCode
  split
  next h0 => omega
  next h1 => omega
  next h2 => omega
  next h3 => omega
  next h4 => omega
  next => rfl

theorem writeLineControl_keeps {v : Word16} {s : State}
    (h : 5 ≤ (v.extractLsb' 8 4).toNat ∨ (v.extractLsb' 8 4).toNat = s.xm.sweepPeriod.code.toNat) :
    writeLineControl v s = { s with xm := { s.xm with noteEnable := v.getLsbD 0 } } := by
  unfold writeLineControl
  obtain h | h := h
  · rw [SweepPeriod.ofCode_of_le h]
  · rw [SweepPeriod.ofCode_of_toNat h]
    exact if_pos rfl

theorem writeLineControl_changes {v : Word16} {s : State} {p : SweepPeriod} (h : (v.extractLsb' 8 4).toNat = p.code.toNat)
    (hp : p ≠ s.xm.sweepPeriod) :
    writeLineControl v s = { s with xm := { s.xm with
      noteEnable := v.getLsbD 0, sweepPeriod := p,
      sweepDue := if s.runState = .starting then none else p.length.map fun n => s.now + n } } := by
  unfold writeLineControl
  rw [SweepPeriod.ofCode_of_toNat h]
  exact if_neg hp

theorem writeLineControl_focus (v : Word16) (s : State) : (writeLineControl v s).focus = s.focus := by
  unfold writeLineControl
  dsimp only
  split
  next => rfl
  next =>
    split
    next => rfl
    next => rfl

/-! ## STATUS and LINE_CONTROL, bit by bit (R170, R171) -/

section
variable (s : State)

theorem statusWord_runState : s.statusWord.extractLsb' 0 2 = s.runState.code := by
  refine BitVec.eq_of_getLsbD_eq fun i hi => ?_
  simp only [State.statusWord, BitVec.getLsbD_extractLsb', BitVec.getLsbD_append, hi, Nat.zero_add]
  simp [show i < 4 by omega]

theorem statusWord_sweeping : s.statusWord.getLsbD 2 = s.xm.sweepState.isSweeping := by
  simp only [State.statusWord, BitVec.getLsbD_append]
  simp

theorem statusWord_pending : s.statusWord.getLsbD 3 = s.xm.pendingSweep := by
  simp only [State.statusWord, BitVec.getLsbD_append]
  simp

theorem statusWord_screens : s.statusWord.extractLsb' 4 4 = 0#1 ++ BitVec.ofNat 3 s.straps.screens := by
  refine BitVec.eq_of_getLsbD_eq fun i hi => ?_
  simp only [State.statusWord, BitVec.getLsbD_extractLsb', BitVec.getLsbD_append, hi]
  simp [show ¬4 + i < 4 by omega, show 4 + i - 4 = i by omega, hi]

theorem statusWord_targets : s.statusWord.extractLsb' 8 4 = BitVec.ofNat 4 s.straps.targets := by
  refine BitVec.eq_of_getLsbD_eq fun i hi => ?_
  simp only [State.statusWord, BitVec.getLsbD_extractLsb', BitVec.getLsbD_append, hi]
  simp [show ¬8 + i < 4 by omega, show ¬8 + i - 4 < 4 by omega, show 8 + i - 4 - 4 = i by omega, hi]

theorem statusWord_glide {i : Nat} (h : 12 ≤ i) : s.statusWord.getLsbD i = (decide (i = 12) && s.straps.glide) := by
  simp only [State.statusWord, BitVec.getLsbD_append]
  simp [show ¬i < 4 by omega, show ¬i - 4 < 4 by omega, show ¬i - 4 - 4 < 4 by omega, show i - 4 - 4 - 4 = i - 12 by omega]
  exact congrArg (· && s.straps.glide) (decide_eq_decide.2 (by omega))

theorem lineControlWord_enable : s.lineControlWord.getLsbD 0 = s.xm.noteEnable := by
  simp only [State.lineControlWord, BitVec.getLsbD_append]
  simp

theorem lineControlWord_period : s.lineControlWord.extractLsb' 8 4 = s.xm.sweepPeriod.code := by
  refine BitVec.eq_of_getLsbD_eq fun i hi => ?_
  simp only [State.lineControlWord, BitVec.getLsbD_extractLsb', BitVec.getLsbD_append, hi]
  simp [hi]

theorem lineControlWord_rest {i : Nat} (h1 : 1 ≤ i) (h : i < 8 ∨ 12 ≤ i) : s.lineControlWord.getLsbD i = false := by
  simp only [State.lineControlWord, BitVec.getLsbD_append]
  obtain h | h := h
  · simp [h, show i ≠ 0 by omega]
  · simp [show ¬i < 8 by omega, show ¬i - 8 < 4 by omega]
end


/-! ## The two lines and host reads (R168 to R170, R180) -/

theorem noteN_iff (s : State) : s.noteN = true ↔ s.xm.noteEnable = true ∧ ∃ g < 22, s.xm.mem.read (0x0400 + g) ≠ 0 := by
  unfold State.noteN State.summary
  rw [Memory.block_eq, Bool.and_eq_true, List.any_map, List.any_eq_true]
  simp only [List.mem_range, Function.comp_apply, Bool.not_eq_true', beq_eq_false_iff_ne]
  rfl

theorem waitN_iff (s : State) : s.waitN = true ↔ s.xm.waiting ≠ [] := by
  simp [State.waitN]

section
variable {s : State} {a : BitVec 14}

theorem hostRead_memory (hs : s.resetAsserted = false) (ha : byteAddress a < 0x7FF8) :
    s.hostRead a = if s.mustWait (byteAddress a) then .waits else .word (s.xm.mem.word (byteAddress a)) := by
  unfold State.hostRead
  rw [if_neg (by rw [hs]; nofun)]
  split
  next h => omega
  next h => omega
  next h => omega
  next h => omega
  next => rfl

theorem hostRead_port (hs : s.resetAsserted = false) :
    (byteAddress a = 0x7FF8 → s.hostRead a = .word s.statusWord) ∧ (byteAddress a = 0x7FFA → s.hostRead a = .word 0) ∧
      (byteAddress a = 0x7FFC → s.hostRead a = .word s.lineControlWord) ∧
      (byteAddress a = 0x7FFE → s.hostRead a = .word 0x0186) := by
  unfold State.hostRead
  rw [if_neg (by rw [hs]; nofun)]
  refine ⟨fun h => ?_, fun h => ?_, fun h => ?_, fun h => ?_⟩
  all_goals simp only [h]
  rfl
end

/-- Settles O57. -/
theorem lineControlTakesBothFields : Obligations.LineControlTakesBothFields := by
  unfold Obligations.LineControlTakesBothFields
  refine ⟨fun t v s hs => ?writes, fun s => ?reads⟩
  case writes =>
    intro u code enabled
    have hexec {w : State} (hw : writeLineControl v u = w) : exec (.lineControl t v) s = .next w :=
      (act_quiet hs ((congrArg Focus.inbox (writeLineControl_focus v u)).trans hs.2)).trans (congrArg _ hw)
    refine ⟨fun r => act_quiet hs hs.2, fun h => hexec (writeLineControl_keeps h), fun p length hcode hp hlength => ?_⟩
    have hlen : length = p.length := hlength.trans (by cases p with | off | ms1 | ms2 | ms5 | ms10 => rfl)
    rw [hlen]
    exact hexec (writeLineControl_changes hcode hp)
  case reads =>
    intro status control slotHeld
    have hrun : s.runState.code = (match s.runState with | .starting => 0 | .running => 1 | .restarting _ _ => 2) := by
      cases s.runState with
      | starting | running | restarting => rfl
    have hsweep : s.xm.sweepState.isSweeping = true ↔ ∃ c, s.xm.sweepState = .sweeping c := by
      cases s.xm.sweepState with
      | idle => exact ⟨nofun, nofun⟩
      | sweeping c => exact ⟨fun _ => ⟨c, rfl⟩, fun _ => rfl⟩
    refine ⟨(statusWord_runState s).trans hrun, by rw [show status.getLsbD 2 = _ from statusWord_sweeping s]; exact hsweep,
      statusWord_pending s, fun hlegal => ?straps, fun i => statusWord_glide s, lineControlWord_enable s, lineControlWord_period s,
      fun i h1 h => lineControlWord_rest s h1 h, rfl, noteN_iff s, waitN_iff s, fun a => ⟨fun hs => if_pos hs, fun hs => ?host⟩⟩
    case straps =>
      obtain ⟨hs1, hs6, ht1, ht8⟩ := hlegal
      constructor
      · rw [show status.extractLsb' 4 4 = _ from statusWord_screens s]
        simp only [BitVec.toNat_append, BitVec.toNat_ofNat]
        simp
        omega
      · rw [show status.extractLsb' 8 4 = _ from statusWord_targets s, BitVec.toNat_ofNat]
        omega
    case host =>
      obtain ⟨hstatus, hattention, hcontrol, hident⟩ := hostRead_port (s := s) (a := a) hs
      refine ⟨hstatus, hattention, hcontrol, hident, fun ha => ⟨fun hw => ?_, fun hw => ?_⟩⟩
      all_goals rw [hostRead_memory hs ha]
      · exact if_pos ((mustWait_iff s _).2 hw)
      · exact if_neg fun h => hw ((mustWait_iff s _).1 h)

end Sys2Proof.Machine
end

section
/-! PROOFS. Sweeps and their visits (R171, R174 to R176). -/

namespace Sys2Proof.Machine

open Sys2Proof

/-! ## Ticks in succession -/

theorem repeat_tick_add (m n : Nat) (s : State) : Nat.repeat tick (m + n) s = Nat.repeat tick n (Nat.repeat tick m s) := by
  induction m generalizing s with
  | zero => rw [Nat.zero_add]; rfl
  | succ m ih => rw [Nat.succ_add, repeat_tick, ih, repeat_tick]

theorem repeat_tick_idle {s : State} (h : s.busy = false) (n : Nat) : Nat.repeat tick n s = s := by
  induction n with
  | zero => rfl
  | succ n ih => rw [repeat_tick, tick_idle s h, ih]

/-! ## The visit of a cell (R175, R176) -/

section
variable {s : State} {c : CellId}

theorem cellReady_iff (hs : s.live) : s.cellReady c = true ↔ s.commandReady c (s.cellKind c) := by
  refine ⟨fun h => ?_, fun h => (cellReady_of h).1⟩
  unfold State.cellReady at h
  rw [Bool.and_eq_true, Bool.and_eq_true, decide_eq_true_eq, Option.isNone_iff_eq_none, beq_iff_eq] at h
  obtain ⟨⟨hrun, hentry⟩, hstate⟩ := h
  exact ⟨hs, hrun, hentry, hstate, rfl⟩

theorem visit_of_ready {kind : Byte} (h : s.commandReady c kind) : visit c s = handOver ((ownerOf kind).getD ownUnknown) c s := by
  obtain ⟨hready, hkind⟩ := cellReady_of h
  unfold visit
  rw [if_pos hready, hkind]

theorem visit_of_unready (h : s.cellReady c = false) : visit c s = s := if_neg (by rw [h]; nofun)

theorem visitCell_of_command {kind : Byte} (h : s.commandReady c kind) (hk : kind ≠ 0x10) : visitCell c s = sweepOn c (visit c s) := by
  obtain ⟨-, hkind⟩ := cellReady_of h
  refine if_neg fun hr => hk ?_
  rw [Bool.and_eq_true, beq_iff_eq, hkind] at hr
  exact hr.2

theorem visitCell_of_restart (h : s.commandReady c 0x10) : visitCell c s = beginRestart c s := by
  obtain ⟨hready, hkind⟩ := cellReady_of h
  exact if_pos (by rw [hready, hkind]; rfl)

theorem visitCell_of_unready (h : s.cellReady c = false) : visitCell c s = sweepOn c s := by
  unfold visitCell
  rw [if_neg (by rw [h]; nofun), visit_of_unready h]
end

/-- The catalogue names no kind but those from 1 to 0x0F, and RESTART. -/
theorem ownerOf_eq_none_iff (k : Byte) : ownerOf k = none ∧ k ≠ 0x10 ↔ k = 0 ∨ 0x10 < k.toNat := by
  have h10 : k = 0x10 ↔ k.toNat = 0x10 := BitVec.toNat_inj.symm
  rw [toNat_eq_zero_iff, Ne, h10]
  by_cases hlt : k.toNat ≤ 0x10
  · have hcase := h10
    unfold ownerOf
    generalize k.toNat = n at *
    interval_cases n
    all_goals simp
  · refine iff_of_true ⟨?_, by omega⟩ (.inr (not_le.1 hlt))
    unfold ownerOf
    split
    any_goals omega
    rfl

/-- The row of a command is the take of its cell by the owner that the catalogue names. -/
theorem exec_of_cellRow {i : Instr} {c : CellId} {kind : Byte} (h : cellRow i = some (c, kind)) :
    ∃ owner, ownerOf kind = some owner ∧ ∀ s, exec i s = takeCell i.time kind owner c s := by
  unfold cellRow at h
  split at h
  all_goals cases h
  all_goals exact ⟨_, rfl, fun _ => rfl⟩

theorem handOver_focus {owner : Owner} {c : CellId} {s : State} : (handOver owner c s).focus.inbox = [] := settle_inbox _

section
variable {i : Instr} {c : CellId} {kind : Byte} {s : State}

theorem exec_visit (h : cellRow i = some (c, kind)) (hready : s.commandReady c kind) :
    exec i s = .next (visit c (s.advance i.time)) := by
  obtain ⟨owner, howner, hexec⟩ := exec_of_cellRow h
  have hready' : (s.advance i.time).commandReady c kind := hready
  rw [hexec, takeCell_ready hready, visit_of_ready hready', howner]
  rfl

theorem exec_unvisited (h : cellRow i = some (c, kind)) (hs : s.live) (hready : ¬s.commandReady c kind) :
    exec i s = .next (s.advance i.time) := by
  obtain ⟨owner, -, hexec⟩ := exec_of_cellRow h
  rw [hexec, takeCell_other hs hready]

theorem cellRow_ne_restart (h : cellRow i = some (c, kind)) : kind ≠ 0x10 := by
  obtain ⟨owner, howner, -⟩ := exec_of_cellRow h
  rintro rfl
  cases howner

theorem handOver_unknown (hs : s.live) : handOver ownUnknown c s = complete c .unknownKind [] (take c s) :=
  settle_of_empty _ ((congrArg Focus.inbox (complete_focus ..)).trans hs.2)

theorem visit_unknown (hready : s.commandReady c kind) (hk : kind = 0 ∨ 0x10 < kind.toNat) :
    visit c s = complete c .unknownKind [] (take c s) := by
  obtain ⟨hnone, -⟩ := (ownerOf_eq_none_iff kind).2 hk
  rw [visit_of_ready hready, hnone]
  exact handOver_unknown hready.1
end

/-- The test of the unknown-kind row. -/
def takesUnknown (c : CellId) (s : State) : Bool :=
  s.cellReady c && !(s.cellKind c == restartKind) && (ownerOf (s.cellKind c)).isNone

theorem takesUnknown_iff {c : CellId} {s : State} (hs : s.live) :
    takesUnknown c s = true ↔ s.commandReady c (s.cellKind c) ∧ (s.cellKind c = 0 ∨ 0x10 < (s.cellKind c).toNat) := by
  unfold takesUnknown
  rw [Bool.and_eq_true, Bool.and_eq_true, Bool.not_eq_true', beq_eq_false_iff_ne, Option.isNone_iff_eq_none, and_assoc, cellReady_iff hs,
    and_comm (a := _ ≠ _)]
  exact and_congr_right fun _ => ownerOf_eq_none_iff _

section
variable {t : Nat} {c : CellId} {s : State}

theorem exec_unknownKind_taken {kind : Byte} (hready : s.commandReady c kind) (hk : kind = 0 ∨ 0x10 < kind.toNat) :
    exec (.unknownKind t c) s = .next (complete c .unknownKind [] (take c (s.advance t))) := by
  have hready' : (s.advance t).commandReady c kind := hready
  obtain ⟨-, hkind⟩ := cellReady_of hready'
  have htaken : takesUnknown c (s.advance t) = true := by
    rw [takesUnknown_iff hready'.1, hkind]
    exact ⟨hready', hk⟩
  refine (act_live (f := fun s => if takesUnknown c s then handOver ownUnknown c s else s) hready.1).trans (congrArg Host.Outcome.next ?_)
  rw [if_pos htaken, handOver_unknown hready'.1]
  exact settle_of_empty _ ((congrArg Focus.inbox (complete_focus ..)).trans hready.1.2)

theorem exec_unknownKind_other (hs : s.live) (h : ∀ kind : Byte, kind = 0 ∨ 0x10 < kind.toNat → ¬s.commandReady c kind) :
    exec (.unknownKind t c) s = .next (s.advance t) := by
  have hs' : (s.advance t).live := hs
  have hno : ¬takesUnknown c (s.advance t) = true := fun htaken => by
    obtain ⟨hready, hk⟩ := (takesUnknown_iff hs').1 htaken
    exact h _ hk hready
  refine (act_live (f := fun s => if takesUnknown c s then handOver ownUnknown c s else s) hs).trans (congrArg Host.Outcome.next ?_)
  rw [if_neg hno]
  exact settle_of_empty _ hs.2
end

/-! ## A sweep that finds no cell READY -/

/-- The state with this sweep state. -/
def sweptTo (w : SweepState) (s : State) : State := { s with xm := { s.xm with sweepState := w } }

/-- No cell is READY, and the part is RUNNING with nothing left to take. -/
structure Unready (s : State) : Prop where
  live : s.live
  running : s.runState = .running
  unready : ∀ c : CellId, s.xm.entry c = none → s.xm.mem.read (64 * c.1 + 2) ≠ 1

theorem Unready.cellReady {s : State} (h : Unready s) (c : CellId) : s.cellReady c = false := by
  rw [Bool.eq_false_iff]
  intro hready
  obtain ⟨-, -, hentry, hstate, -⟩ := (cellReady_iff h.live).1 hready
  exact h.unready c hentry hstate

theorem Unready.swept {s : State} (h : Unready s) (w : SweepState) : Unready (sweptTo w s) := ⟨h.live, h.running, h.unready⟩

theorem sweepOn_inbox (c : CellId) (s : State) : (sweepOn c s).focus = s.focus := by
  unfold sweepOn startPending
  split
  · split
    · rfl
    · rfl
  · rfl

theorem tick_sweeping {s : State} {c : CellId} (hrun : ∀ c k, s.runState ≠ .restarting c k) (hsweep : s.xm.sweepState = .sweeping c) :
    tick s = settle (visitCell c s) := by
  unfold tick
  rw [hsweep]
  cases hr : s.runState with
  | restarting c k => exact absurd hr (hrun c k)
  | starting | running => rfl

theorem Unready.tick_eq {s : State} (h : Unready s) {c : CellId} (hsweep : s.xm.sweepState = .sweeping c) : tick s = sweepOn c s := by
  rw [tick_sweeping (by rw [h.running]; nofun) hsweep, visitCell_of_unready (h.cellReady c)]
  exact settle_of_empty _ ((congrArg Focus.inbox (sweepOn_inbox c s)).trans h.live.2)

/-- The visits that are left of the sweep lead to the pending flag's test. -/
theorem Unready.passes {s : State} (h : Unready s) (j : Nat) {c : CellId} (hc : c.1 + j = 15) :
    Nat.repeat tick (j + 1) (sweptTo (.sweeping c) s) = startPending s := by
  induction j generalizing c with
  | zero =>
    exact ((h.swept (.sweeping c)).tick_eq rfl).trans (if_pos hc)
  | succ j ih =>
    have hnext : (c + 1 : CellId).1 = c.1 + 1 := by
      rw [Fin.val_add_one_of_lt' (by omega)]
    rw [repeat_tick, (h.swept (.sweeping c)).tick_eq rfl, sweepOn, if_neg (by omega)]
    exact ih (c := c + 1) (by omega)

theorem Unready.sweep {s : State} (h : Unready s) (n : Nat) :
    Nat.repeat tick (16 + n) (sweptTo (.sweeping 0) s) = Nat.repeat tick n (startPending s) := by
  rw [repeat_tick_add, h.passes 15 rfl]

/-- A sweep of no READY cell, and the one more that the pending flag asks for. -/
theorem Unready.counted {s : State} (h : Unready s) (n : Word16) (b : Bool) :
    Unready { s with xm := { s.xm with sweepCount := n, pendingSweep := b } } := ⟨h.live, h.running, h.unready⟩

theorem Unready.not_busy {s : State} (h : Unready s) (hsweep : s.xm.sweepState = .idle) : s.busy = false :=
  not_busy_of_idle (by rw [h.running]; nofun) hsweep

theorem Unready.sweeps {s : State} (h : Unready s) {n : Nat} (h16 : 16 ≤ n) (h32 : s.xm.pendingSweep = true → 32 ≤ n) :
    Nat.repeat tick n (startSweep s) =
      { s with xm := { s.xm with sweepState := .idle, pendingSweep := false,
                                 sweepCount := if s.xm.pendingSweep then s.xm.sweepCount + 2 else s.xm.sweepCount + 1 } } := by
  obtain ⟨m, rfl⟩ := Nat.exists_eq_add_of_le h16
  have hfirst := (h.counted (s.xm.sweepCount + 1) s.xm.pendingSweep).sweep m
  refine hfirst.trans ?_
  cases hp : s.xm.pendingSweep with
  | false =>
    have hdone : startPending { s with xm := { s.xm with sweepCount := s.xm.sweepCount + 1, pendingSweep := false } } =
        sweptTo .idle { s with xm := { s.xm with sweepCount := s.xm.sweepCount + 1, pendingSweep := false } } := if_neg nofun
    rw [hdone, repeat_tick_idle (((h.counted _ _).swept .idle).not_busy rfl)]
    rfl
  | true =>
    have hm : 16 ≤ m := by have := h32 hp; omega
    obtain ⟨k, rfl⟩ := Nat.exists_eq_add_of_le hm
    have htwo : s.xm.sweepCount + 1 + 1 = s.xm.sweepCount + 2 := add_assoc _ _ _
    have hsecond := (h.counted (s.xm.sweepCount + 1 + 1) false).sweep k
    have hdone : startPending { s with xm := { s.xm with sweepCount := s.xm.sweepCount + 1 + 1, pendingSweep := false } } =
        sweptTo .idle { s with xm := { s.xm with sweepCount := s.xm.sweepCount + 1 + 1, pendingSweep := false } } := if_neg nofun
    rw [hdone, repeat_tick_idle (((h.counted _ _).swept .idle).not_busy rfl)] at hsecond
    rw [if_pos rfl, ← htwo]
    exact hsecond

/-! ## Sweep requests (R171, R174) -/

/-- The state as a sweep request finds it: the pace used up, and the timer's next request set. -/
def askedSweep (due : Option Nat) (s : State) : State := { s with paces := s.paces.tail, xm := { s.xm with sweepDue := due } }

theorem requestSweep_focus (s : State) : (requestSweep s).focus = s.focus := by
  unfold requestSweep
  split
  · rfl
  · rfl

theorem requestSweep_started {s : State} (hrun : s.runState = .running) (hsweep : s.xm.sweepState = .idle) :
    requestSweep s = startSweep s := if_pos ⟨hrun, hsweep⟩

theorem requestSweep_flagged {s : State} (h : s.runState ≠ .running ∨ s.xm.sweepState ≠ .idle) :
    requestSweep s = { s with xm := { s.xm with pendingSweep := true } } := if_neg (not_and_or.2 h)

/-- The next request of the sweep timer. -/
def sweepDueAfter (s : State) : Option Nat :=
  match s.xm.sweepDue, s.xm.sweepPeriod.length with
  | some d, some p => some (d + p)
  | _, _ => none

section
variable {t : Nat} {s : State}

theorem repeat_tick_requestSweep_inbox {n : Nat} (h : s.focus.inbox = []) : (Nat.repeat tick n (requestSweep s)).focus.inbox = [] :=
  repeat_tick_inbox n _ ((congrArg Focus.inbox (requestSweep_focus s)).trans h)

theorem exec_attention {v : Word16} (hs : s.live) :
    exec (.attention t v) s = .next (Nat.repeat tick (s.paces.headD 512) (requestSweep (askedSweep s.xm.sweepDue (s.advance t)))) := by
  have hpaced : paced requestSweep (s.advance t) =
      Nat.repeat tick (s.paces.headD 512) (requestSweep (askedSweep s.xm.sweepDue (s.advance t))) := paced_eq_repeat _ _
  refine (act_live (f := paced requestSweep) hs).trans (congrArg Host.Outcome.next ?_)
  rw [hpaced]
  exact settle_of_empty _ (repeat_tick_requestSweep_inbox hs.2)

theorem exec_sweepTimerExpiry {d : Nat} (hs : s.live) (hd : s.xm.sweepDue = some d) (hle : d ≤ (s.advance t).now) :
    exec (.sweepTimerExpiry t) s =
      .next (Nat.repeat tick (s.paces.headD 512) (requestSweep (askedSweep (sweepDueAfter s) (s.advance t)))) := by
  have hpaced : paced sweepTick (s.advance t) =
      Nat.repeat tick (s.paces.headD 512) (requestSweep (askedSweep (sweepDueAfter s) (s.advance t))) := paced_eq_repeat _ _
  refine (act_due (due := fun s => s.xm.sweepDue) (f := paced sweepTick) hs hd hle).trans (congrArg Host.Outcome.next ?_)
  rw [hpaced]
  exact settle_of_empty _ (repeat_tick_requestSweep_inbox hs.2)
end

/-! ## The obligation -/

theorem advance_self (s : State) : s.advance s.now = s := by
  unfold State.advance
  rw [max_self]

/-- Settles O56: a request's ticks are followed visit by visit where no cell is READY; a visit of a READY cell is its command's row. -/
theorem sweepsVisitReadyCells : Obligations.SweepsVisitReadyCells := by
  unfold Obligations.SweepsVisitReadyCells
  refine ⟨fun t s hs => ?requests, fun s hs => ?ticks⟩
  case requests =>
    intro u noneReady timed n asked
    have hasked {i : Instr} {due : Option Nat} (hexec : exec i s = .next (Nat.repeat tick n (requestSweep (askedSweep due u)))) :
        asked i due := by
      refine ⟨fun h => hexec.trans ?_, fun hrun hsweep => ?_⟩
      · rw [requestSweep_flagged (s := askedSweep due u) h]
        rfl
      have hstarts : requestSweep (askedSweep due u) = startSweep (askedSweep due u) := requestSweep_started hrun hsweep
      rw [hstarts] at hexec
      refine ⟨hexec, fun hnone h16 h32 => hexec.trans ?_⟩
      have hunready : Unready (askedSweep due u) := ⟨hs, hrun, hnone⟩
      rw [hunready.sweeps h16 h32]
      rfl
    have htimed : timed = sweepDueAfter s := by
      show (match s.xm.sweepDue, s.xm.sweepPeriod with
        | some d, .ms1 => some (d + 1000)
        | some d, .ms2 => some (d + 2000)
        | some d, .ms5 => some (d + 5000)
        | some d, .ms10 => some (d + 10000)
        | _, _ => none) = _
      unfold sweepDueAfter
      cases s.xm.sweepDue with
      | none => rfl
      | some d =>
        cases s.xm.sweepPeriod with
        | off | ms1 | ms2 | ms5 | ms10 => rfl
    refine ⟨fun v => hasked (exec_attention hs), fun d hd hle => ?_, act_undue (due := fun s => s.xm.sweepDue) (f := paced sweepTick) hs,
      fun i c kind htime hrow => ?row, fun c => ⟨fun kind => exec_unknownKind_taken, exec_unknownKind_other hs⟩⟩
    · rw [htimed]
      exact hasked (exec_sweepTimerExpiry hs hd hle)
    case row =>
      subst htime
      exact ⟨exec_visit hrow, exec_unvisited hrow hs⟩
  case ticks =>
    intro idle
    refine ⟨fun hidle hsweep => tick_idle s (not_busy_of_idle hidle hsweep), fun c hidle hsweep => ?_⟩
    intro goesOn
    have hgoesOn (v : State) : goesOn v = sweepOn c v := by
      show (if c.1 < 15 then _ else if v.xm.pendingSweep then _ else _) = _
      unfold sweepOn
      by_cases hc : c.1 = 15
      · rw [if_neg (by omega), if_pos hc]
        rfl
      · rw [if_pos (by omega), if_neg hc]
    have htick {v : State} (hv : visitCell c s = v) (hempty : v.focus.inbox = []) : tick s = v := by
      rw [tick_sweeping hidle hsweep, hv, settle_of_empty v hempty]
    have hon {v : State} (hv : visitCell c s = sweepOn c v) (hempty : v.focus.inbox = []) : tick s = goesOn v := by
      rw [hgoesOn]
      exact htick hv ((congrArg Focus.inbox (sweepOn_inbox c v)).trans hempty)
    refine ⟨fun h => ?unready, fun i kind v htime hrow hready hexec => ?row, fun kind hready hk => ?unknown, fun hready => ?restart⟩
    case unready =>
      have hno : s.cellReady c = false := by
        rw [Bool.eq_false_iff]
        exact fun hr => h _ ((cellReady_iff hs).1 hr)
      exact hon (visitCell_of_unready hno) hs.2
    case row =>
      have hv : visit c s = v := by
        have hvisit := exec_visit hrow hready
        rw [hexec, htime, advance_self] at hvisit
        exact (Host.Outcome.next.inj hvisit).symm
      refine hon ((visitCell_of_command hready (cellRow_ne_restart hrow)).trans (congrArg _ hv)) ?_
      rw [← hv, visit_of_ready hready]
      exact handOver_focus
    case unknown =>
      obtain ⟨-, hne⟩ := (ownerOf_eq_none_iff kind).2 hk
      exact hon ((visitCell_of_command hready hne).trans (congrArg _ (visit_unknown hready hk)))
        ((congrArg Focus.inbox (complete_focus ..)).trans hs.2)
    case restart => exact htick (visitCell_of_restart hready) hs.2

end Sys2Proof.Machine
end

section
/-! PROOFS. Rewrites of several mirrors one after another (R181): each mirror of the list is rewritten once, and the bytes of the others stand. -/

namespace Sys2Proof.Machine

open Sys2Proof

/-! ## The places of the mirrors (10 section 10.5) -/

/-- The mirror in whose bytes an address of the notice area lies. -/
def mirrorAt (a : Nat) : Mirror :=
  if a < 0x0440 then .focus
  else if a < 0x0460 then .cursor
  else if a < 0x0660 then .target (Fin.ofNat 8 ((a - 0x0460) / 64))
  else if a < 0x07E0 then .screen (Fin.ofNat 6 ((a - 0x0660) / 64))
  else if a < 0x0800 then .line (Fin.ofNat 4 ((a - 0x07E0) / 8))
  else if a < 0x0850 then .hotkey
  else .panel

theorem mirrorAt_of_mem {m : Mirror} {a : Nat} (h : m.base ≤ a) (h' : a < m.base + m.size) : mirrorAt a = m := by
  unfold mirrorAt
  cases m with
  | focus | cursor | hotkey | panel =>
    simp only [Mirror.base, Mirror.size] at h h'
    split_ifs
    any_goals omega
    rfl
  | target k | screen k | line k =>
    have := k.2
    simp only [Mirror.base, Mirror.size] at h h'
    split_ifs
    any_goals omega
    refine congrArg _ (Fin.ext ?_)
    simp only [Fin.val_ofNat]
    omega

/-- The mirror of an index of the summary. -/
def mirrorOfIndex (i : Fin 22) : Mirror :=
  if i.1 = 0 then .focus
  else if i.1 < 9 then .target (Fin.ofNat 8 (i.1 - 1))
  else if i.1 < 15 then .screen (Fin.ofNat 6 (i.1 - 9))
  else if i.1 < 19 then .line (Fin.ofNat 4 (i.1 - 15))
  else if i.1 = 19 then .panel
  else if i.1 = 20 then .hotkey
  else .cursor

theorem mirrorOfIndex_index (m : Mirror) : mirrorOfIndex m.index = m := by
  cases m with
  | focus | cursor | hotkey | panel => rfl
  | target k | screen k | line k => revert k; decide

theorem Mirror.index_injective {m n : Mirror} (h : m.index = n.index) : m = n := by
  rw [← mirrorOfIndex_index m, h, mirrorOfIndex_index]

theorem index_mirrorOfIndex (i : Fin 22) : (mirrorOfIndex i).index = i := by
  revert i
  decide

/-- A mirror has no byte of another. -/
theorem Mirror.outside_of_ne {m n : Mirror} (h : m ≠ n) {a : Nat} (hm : m.base ≤ a) (hm' : a < m.base + m.size) :
    a < n.base ∨ n.base + n.size ≤ a := by
  by_contra hin
  push Not at hin
  obtain ⟨hn, hn'⟩ := hin
  exact h ((mirrorAt_of_mem hm hm').symm.trans (mirrorAt_of_mem hn hn'))

theorem mem_allMirrors (m : Mirror) : m ∈ allMirrors := by
  simp only [allMirrors, List.mem_append, List.mem_map, List.mem_cons]
  cases m with
  | focus | cursor | hotkey | panel => simp
  | target k | screen k | line k => simp [mem_ids]

theorem allMirrors_nodup : allMirrors.Nodup := by decide

/-! ## A mirror as it stands -/

/-- The mirror reads this revision and these fields. -/
structure Shows (m : Mirror) (rev : Word16) (fields : List Byte) (s : State) : Prop where
  revision : s.xm.revision[m.index.1] = rev
  word : s.xm.mem.word m.base = rev
  fields : ∀ i, 2 ≤ i → i < m.size → s.xm.mem.read (m.base + i) = fields.getD (i - 2) 0

/-- The mirror's revision and its bytes are the same. -/
structure SameMirror (m : Mirror) (s t : State) : Prop where
  revision : t.xm.revision[m.index.1] = s.xm.revision[m.index.1]
  bytes : ∀ a, m.base ≤ a → a < m.base + m.size → t.xm.mem.read a = s.xm.mem.read a

theorem Shows.same {m : Mirror} {rev : Word16} {fields : List Byte} {s t : State} (h : Shows m rev fields s) (g : SameMirror m s t) :
    Shows m rev fields t := by
  obtain ⟨hsize, -, -⟩ := m.fits
  refine ⟨g.revision.trans h.revision, ?_, fun i h2 hi => (g.bytes _ (by omega) (by omega)).trans (h.fields i h2 hi)⟩
  rw [← h.word]
  unfold Memory.word
  rw [g.bytes _ (by omega) (by omega), g.bytes _ (by omega) (by omega)]

/-- `t` is `s` with each mirror of the list rewritten. The summary bytes are left open. -/
structure Rewritten (l : List Mirror) (s t : State) : Prop where
  only : t = { s with xm := { s.xm with mem := t.xm.mem, revision := t.xm.revision } }
  shows : ∀ m ∈ l, Shows m (s.xm.revision[m.index.1] + 1) (mirrorFields s m) t
  revision : ∀ m, m ∉ l → t.xm.revision[m.index.1] = s.xm.revision[m.index.1]
  outside : ∀ a, a < 0x0400 ∨ 0x0416 ≤ a → (∀ m ∈ l, a < m.base ∨ m.base + m.size ≤ a) → t.xm.mem.read a = s.xm.mem.read a

theorem Rewritten.fields {l : List Mirror} {s t : State} (h : Rewritten l s t) (m : Mirror) : mirrorFields t m = mirrorFields s m := by
  rw [h.only]
  cases m with
  | focus | cursor | hotkey | panel | target | screen | line => rfl

theorem Rewritten.same {l : List Mirror} {s t : State} (h : Rewritten l s t) {m : Mirror} (hm : m ∉ l) : SameMirror m s t := by
  obtain ⟨-, hbase, -⟩ := m.fits
  refine ⟨h.revision m hm, fun a ha ha' => h.outside a (by omega) fun n hn => ?_⟩
  have hne : m ≠ n := fun e => hm (by rw [e]; exact hn)
  exact Mirror.outside_of_ne hne ha ha'

theorem Rewritten.append {l l' : List Mirror} {s t u : State} (h : Rewritten l s t) (g : Rewritten l' t u) (hd : l.Disjoint l') :
    Rewritten (l ++ l') s u := by
  refine ⟨?only, fun m hm => ?rewrites, fun m hm => ?revision, fun a ha hout => ?outside⟩
  case only =>
    have honly := g.only
    rw [h.only] at honly
    exact honly
  case rewrites =>
    obtain hm | hm := List.mem_append.1 hm
    · exact (h.shows m hm).same (g.same fun hm' => hd hm hm')
    · have hshows := g.shows m hm
      rw [h.revision m fun hm' => hd hm' hm, h.fields] at hshows
      exact hshows
  case revision =>
    rw [List.mem_append, not_or] at hm
    exact (g.revision m hm.2).trans (h.revision m hm.1)
  case outside =>
    exact (g.outside a ha fun m hm => hout m (List.mem_append_right _ hm)).trans
      (h.outside a ha fun m hm => hout m (List.mem_append_left _ hm))

theorem rewritten_rewriteMirror (m : Mirror) (s : State) : Rewritten [m] s (rewriteMirror m s) := by
  refine ⟨rfl, fun n hn => ?_, fun n hn => ?_, fun a _ hout => rewriteMirror_read_outside m s (hout m (List.mem_singleton_self m))⟩
  · obtain rfl := List.mem_singleton.1 hn
    refine ⟨?_, rewriteMirror_word n s, fun i => rewriteMirror_read_field n s⟩
    simp only [rewriteMirror_revision, Vector.getElem_set_self]
  · have hne : m.index.1 ≠ n.index.1 := fun e => hn (List.mem_singleton.2 (Mirror.index_injective (Fin.ext e)).symm)
    simp only [rewriteMirror_revision]
    exact Vector.getElem_set_ne _ _ hne

theorem rewritten_notice (m : Mirror) (s : State) : Rewritten [m] s (notice m s) := by
  obtain ⟨-, hshows, hrevision, houtside⟩ := rewritten_rewriteMirror m s
  have hread {a : Nat} (ha : a < 0x0400 ∨ 0x0416 ≤ a) : (notice m s).xm.mem.read a = (rewriteMirror m s).xm.mem.read a :=
    (notice_read m s a).trans (if_neg (by have := m.index.2; omega))
  refine ⟨rfl, fun n hn => (hshows n hn).same ⟨rfl, fun a ha _ => hread ?_⟩, hrevision, fun a ha hout => (hread ha).trans (houtside a ha hout)⟩
  obtain ⟨-, hbase, -⟩ := n.fits
  omega

theorem rewritten_foldl {f : State → Mirror → State} (hf : ∀ m s, Rewritten [m] s (f s m)) {l : List Mirror} (hl : l.Nodup) (s : State) :
    Rewritten l s (l.foldl f s) := by
  induction l generalizing s with
  | nil => exact ⟨rfl, nofun, fun _ _ => rfl, fun _ _ _ => rfl⟩
  | cons m l ih =>
    obtain ⟨hm, hl⟩ := List.nodup_cons.1 hl
    exact (hf m s).append (ih hl (f s m)) fun n hn hn' => hm (List.mem_singleton.1 hn ▸ hn')

/-! ## The summary bytes -/

theorem rewriteMirror_summary (m : Mirror) (s : State) {a : Nat} (ha : a < 0x0420) :
    (rewriteMirror m s).xm.mem.read a = s.xm.mem.read a := by
  obtain ⟨-, hbase, -⟩ := m.fits
  exact rewriteMirror_read_outside m s (.inl (by omega))

theorem foldl_rewriteMirror_summary (l : List Mirror) (s : State) {a : Nat} (ha : a < 0x0420) :
    (l.foldl (fun s m => rewriteMirror m s) s).xm.mem.read a = s.xm.mem.read a := by
  induction l generalizing s with
  | nil => rfl
  | cons m l ih => exact (ih _).trans (rewriteMirror_summary m s ha)

theorem foldl_notice_summary (l : List Mirror) (s : State) {a : Nat} (ha : a < 0x0420) :
    (l.foldl (fun s m => notice m s) s).xm.mem.read a = if ∃ m ∈ l, a = 0x0400 + m.index.1 then 1 else s.xm.mem.read a := by
  induction l generalizing s with
  | nil => simp
  | cons m l ih =>
    refine (ih _).trans ?_
    rw [notice_read, rewriteMirror_summary m s ha]
    by_cases hl : ∃ n ∈ l, a = 0x0400 + n.index.1
    · rw [if_pos hl, if_pos ((List.exists_mem_cons_iff _ _ _).2 (.inr hl))]
    · rw [if_neg hl]
      exact if_congr ((List.exists_mem_cons_iff _ _ _).trans (or_iff_left hl)).symm rfl rfl

end Sys2Proof.Machine
end

section
/-! PROOFS. The end of the memory clear (R168, R184). -/

namespace Sys2Proof.Machine

open Sys2Proof

/-! ## What is written after the clear -/

theorem noticeLines_eq (s : State) : noticeLines s = ((ids 4).map .line).foldl (fun s m => notice m s) s := by
  unfold noticeLines
  rw [List.foldl_map]

theorem rewritten_noticeLines (s : State) : Rewritten ((ids 4).map .line) s (noticeLines s) := by
  rw [noticeLines_eq]
  exact rewritten_foldl rewritten_notice (by decide) s

theorem noticeLines_summary (s : State) {g : Nat} (hg : g < 32) :
    (noticeLines s).xm.mem.read (0x0400 + g) = if 15 ≤ g ∧ g ≤ 18 then 1 else s.xm.mem.read (0x0400 + g) := by
  rw [noticeLines_eq, foldl_notice_summary _ _ (by omega)]
  refine if_congr ?_ rfl rfl
  simp only [List.mem_map, exists_exists_and_eq_and, Nat.add_left_cancel_iff]
  constructor
  · rintro ⟨l, -, rfl⟩
    have := l.2
    simp only [Mirror.index]
    omega
  · rintro ⟨hlow, hhigh⟩
    exact ⟨⟨g - 15, by omega⟩, mem_ids _, by simp only [Mirror.index]; omega⟩

/-- The state with the memory cleared and the LINE mirrors written. -/
def linesSetUp (s : State) : State := noticeLines (driveLineResets (clearMemory s))

/-- The state before the first mirrors are written. -/
def deskSetUp (s : State) : State := giveAll (presentAll (beginScan (beginTiming (beginDebounce (linesSetUp s)))))

theorem setUpDesk_eq (s : State) : setUpDesk s = firstMirrors.foldl (fun s m => rewriteMirror m s) (deskSetUp s) := rfl

theorem linesSetUp_rewritten (s : State) : Rewritten ((ids 4).map .line) (driveLineResets (clearMemory s)) (linesSetUp s) :=
  rewritten_noticeLines _

theorem setUpDesk_rewritten (s : State) : Rewritten firstMirrors (deskSetUp s) (setUpDesk s) := by
  rw [setUpDesk_eq]
  exact rewritten_foldl rewritten_rewriteMirror (by decide) _

/-- What the set-up leaves but for the memory and the revisions. -/
theorem linesSetUp_only (s : State) :
    linesSetUp s = { driveLineResets s with xm := { s.xm with mem := (linesSetUp s).xm.mem, revision := (linesSetUp s).xm.revision } } :=
  (linesSetUp_rewritten s).only

theorem mem_firstMirrors_or (m : Mirror) : m ∈ firstMirrors ∨ m ∈ (ids 4).map .line := by
  simp only [firstMirrors, List.mem_append, List.mem_map, List.mem_cons]
  cases m with
  | focus | cursor | hotkey | panel => simp
  | target k | screen k | line k => simp [mem_ids]

theorem firstMirrors_disjoint : firstMirrors.Disjoint ((ids 4).map .line) := by
  unfold List.Disjoint
  decide

/-- The blocks as the end of the clear sets them up, over an exchange port. -/
def blocksSetUp (x : Exchange) (s : State) : State :=
  presentAll (beginScan (beginTiming (beginDebounce { driveLineResets s with xm := x })))

theorem deskSetUp_eq (s : State) :
    deskSetUp s = giveAll (blocksSetUp { s.xm with mem := (linesSetUp s).xm.mem, revision := (linesSetUp s).xm.revision } s) := by
  unfold deskSetUp blocksSetUp
  have hlines := linesSetUp_only s
  generalize linesSetUp s = v at *
  rw [hlines]

theorem blocksSetUp_xm (x : Exchange) (s : State) : (blocksSetUp x s).xm = x := rfl

theorem blocksSetUp_with (x y : Exchange) (s : State) : { blocksSetUp x s with xm := y } = blocksSetUp y s := rfl

/-- A rewrite of mirrors after every owner has given its fields leaves given what they give. -/
theorem Rewritten.given {l : List Mirror} {s t : State} (h : Rewritten l (giveAll s) t) :
    t = { s with xm := { s.xm with mem := t.xm.mem, revision := t.xm.revision, given := t.gives } } := by
  have hgives : t.gives = s.gives := by
    rw [h.only]
    rfl
  rw [hgives]
  exact h.only

theorem setUpDesk_blocks (s : State) :
    setUpDesk s = blocksSetUp { s.xm with mem := (setUpDesk s).xm.mem, revision := (setUpDesk s).xm.revision, given := (setUpDesk s).gives } s := by
  have hfirst := setUpDesk_rewritten s
  rw [deskSetUp_eq] at hfirst
  have hgiven := hfirst.given
  rw [blocksSetUp_xm, blocksSetUp_with] at hgiven
  exact hgiven

theorem deskSetUp_mem (s : State) : (deskSetUp s).xm.mem = (linesSetUp s).xm.mem := rfl

theorem deskSetUp_revision (s : State) : (deskSetUp s).xm.revision = (linesSetUp s).xm.revision := rfl

theorem deskSetUp_desk (s : State) : (deskSetUp s).desk = (linesSetUp s).desk := rfl

theorem clearMemory_read (s : State) (a : Nat) : (driveLineResets (clearMemory s)).xm.mem.read a = 0 := rfl

theorem clearMemory_revision (s : State) (m : Mirror) : (driveLineResets (clearMemory s)).xm.revision[m.index.1] + 1 = 1 := by
  have hzero : (driveLineResets (clearMemory s)).xm.revision[m.index.1] = 0 := Vector.getElem_replicate _
  rw [hzero]
  rfl

theorem setUpDesk_shows (s : State) (m : Mirror) : Shows m 1 (mirrorFields (setUpDesk s) m) (setUpDesk s) := by
  have hlines := linesSetUp_rewritten s
  have hfirst := setUpDesk_rewritten s
  rw [hfirst.fields]
  by_cases hm : m ∈ firstMirrors
  · have hshows := hfirst.shows m hm
    have hrev : (deskSetUp s).xm.revision[m.index.1] + 1 = 1 := by
      simp only [deskSetUp_revision, hlines.revision m (firstMirrors_disjoint hm)]
      exact clearMemory_revision s m
    rw [hrev] at hshows
    exact hshows
  · have hline := (mem_firstMirrors_or m).resolve_left hm
    have hshows := hlines.shows m hline
    rw [clearMemory_revision, ← hlines.fields] at hshows
    refine Shows.same (s := deskSetUp s) ?_ (hfirst.same hm)
    have hfields : mirrorFields (deskSetUp s) m = mirrorFields (linesSetUp s) m := by
      obtain ⟨l, -, rfl⟩ := List.mem_map.1 hline
      exact congrArg (fun d : DeskInput => lineFields d.lines[l.1]) (deskSetUp_desk s)
    rw [hfields]
    exact ⟨hshows.revision, hshows.word, hshows.fields⟩

theorem setUpDesk_summary (s : State) {g : Nat} (hg : g < 32) :
    (setUpDesk s).xm.mem.read (0x0400 + g) = if 15 ≤ g ∧ g ≤ 18 then 1 else 0 := by
  rw [setUpDesk_eq, foldl_rewriteMirror_summary _ _ (by omega), deskSetUp_mem]
  exact noticeLines_summary _ hg

theorem setUpDesk_clear (s : State) {a : Nat} (ha : a < 0x0400 ∨ 0x0420 ≤ a) (hout : ∀ m : Mirror, a < m.base ∨ m.base + m.size ≤ a) :
    (setUpDesk s).xm.mem.read a = 0 := by
  rw [(setUpDesk_rewritten s).outside a (by omega) fun m _ => hout m, deskSetUp_mem,
    (linesSetUp_rewritten s).outside a (by omega) fun m _ => hout m]
  exact clearMemory_read s a

/-! ## RUNNING (R184) -/

theorem hostOnly_storeWord (b : Nat) (v : Word16) (s : State) : HostOnly s (storeWord b v s) := by
  rw [storeWord_eq]
  rfl

theorem hostOnly_foldl {α : Type} {f : State → α → State} (hf : ∀ s a, HostOnly s (f s a)) (l : List α) (s : State) :
    HostOnly s (l.foldl f s) := by
  induction l generalizing s with
  | nil => rfl
  | cons a l ih => exact (hf s a).trans (ih _)

theorem hostOnly_releaseAll (s : State) : HostOnly s (releaseAll s) := by
  have hcleared : HostOnly s { s with xm := { s.xm with waiting := [] } } := rfl
  exact hcleared.trans (hostOnly_foldl (fun _ _ => hostOnly_storeWord _ _ _) _ _)

theorem releaseAll_of_nil {s : State} (h : s.xm.waiting = []) : releaseAll s = s := by
  unfold releaseAll
  rw [h]
  exact congrArg (fun l => ({ s with xm := { s.xm with waiting := l } } : State)) h.symm

theorem startSweepTimer_of_running {due : Option Nat} {s : State} (h : s.runState ≠ .starting)
    (hdue : s.xm.sweepPeriod.length.map (fun n => s.now + n) = due) :
    startSweepTimer s = { s with xm := { s.xm with sweepDue := due } } := by
  unfold startSweepTimer
  rw [if_neg h, hdue]

theorem startPending_eq (s : State) :
    startPending s = { s with xm := { s.xm with
      pendingSweep := false
      sweepState := if s.xm.pendingSweep then .sweeping 0 else .idle
      sweepCount := if s.xm.pendingSweep then s.xm.sweepCount + 1 else s.xm.sweepCount } } := by
  unfold startPending
  cases hp : s.xm.pendingSweep with
  | true => rfl
  | false => exact congrArg (fun b => ({ s with xm := { s.xm with sweepState := .idle, pendingSweep := b } } : State)) hp

/-- The desk set up and RUNNING. -/
def runningDesk (s : State) : State := { setUpDesk { s with paces := s.paces.tail } with runState := .running }

theorem runningDesk_running (s : State) : (runningDesk s).runState = .running := by
  unfold runningDesk
  rfl

theorem runningDesk_xm (s : State) :
    (runningDesk s).xm = { s.xm with
      mem := (runningDesk s).xm.mem, revision := (runningDesk s).xm.revision, given := (runningDesk s).gives } := by
  have hblocks := setUpDesk_blocks { s with paces := s.paces.tail }
  have hxm := (congrArg State.xm hblocks).trans (blocksSetUp_xm _ _)
  exact hxm

theorem exchange_sweep {x y : Exchange} {m : Memory} {r : Vector Word16 22} {g : Given}
    (h : x = { y with mem := m, revision := r, given := g }) :
    x.pendingSweep = y.pendingSweep ∧ x.sweepCount = y.sweepCount ∧ x.waiting = y.waiting ∧ x.sweepPeriod = y.sweepPeriod := by
  rw [h]
  exact ⟨rfl, rfl, rfl, rfl⟩

theorem HostOnly.sweep {s t : State} (h : HostOnly s t) :
    t.focus = s.focus ∧ t.xm.pendingSweep = s.xm.pendingSweep ∧ t.xm.sweepCount = s.xm.sweepCount := by
  rw [h]
  exact ⟨rfl, rfl, rfl⟩

theorem startSweepTimer_rest (s : State) :
    (startSweepTimer s).focus = s.focus ∧ (startSweepTimer s).xm.pendingSweep = s.xm.pendingSweep ∧
      (startSweepTimer s).xm.sweepCount = s.xm.sweepCount := ⟨rfl, rfl, rfl⟩

theorem runningDesk_focus (s : State) : (runningDesk s).focus = s.focus := by
  show (setUpDesk { s with paces := s.paces.tail }).focus = s.focus
  rw [setUpDesk_blocks]
  rfl

theorem runningDesk_now (s : State) : (runningDesk s).now = s.now := by
  show (setUpDesk { s with paces := s.paces.tail }).now = s.now
  rw [setUpDesk_blocks]
  rfl

section
variable {t : Nat} {s : State}

/-- The effect of CLEAR_DONE. -/
def clearDone (s : State) : State := if s.runState = .starting then paced (fun s => enterRunning (setUpDesk s)) s else s

theorem exec_clearDone_ignored (hs : s.live) (h : s.runState ≠ .starting) : exec (.clearDone t) s = .next (s.advance t) := by
  have hskip : clearDone (s.advance t) = s.advance t := if_neg h
  refine (act_quiet (f := clearDone) hs ?_).trans (congrArg Host.Outcome.next hskip)
  rw [hskip]
  exact hs.2

theorem startPending_focus (s : State) : (startPending s).focus = s.focus := by
  rw [startPending_eq]

/-- The desk RUNNING, the accesses that waited made, and the sweep timer started. -/
def timedDesk (s : State) : State := startSweepTimer (releaseAll (runningDesk s))

theorem timedDesk_rest (s : State) :
    (timedDesk s).focus = s.focus ∧ (timedDesk s).xm.pendingSweep = s.xm.pendingSweep ∧
      (timedDesk s).xm.sweepCount = s.xm.sweepCount := by
  obtain ⟨hfocus, hpending, hcount⟩ := (hostOnly_releaseAll (runningDesk s)).sweep
  obtain ⟨hpending', hcount', -, -⟩ := exchange_sweep (runningDesk_xm s)
  obtain ⟨htfocus, htpending, htcount⟩ := startSweepTimer_rest (releaseAll (runningDesk s))
  unfold timedDesk
  rw [htfocus, hfocus, runningDesk_focus, htpending, hpending, hpending', htcount, hcount, hcount']
  exact ⟨rfl, rfl, rfl⟩

theorem enterRunning_eq (s : State) : enterRunning (setUpDesk { s with paces := s.paces.tail }) = startPending (timedDesk s) := by
  unfold enterRunning timedDesk runningDesk
  rfl

theorem exec_clearDone (hs : s.live) (h : s.runState = .starting) :
    exec (.clearDone t) s = .next (Nat.repeat tick (s.paces.headD 512) (startPending (timedDesk (s.advance t)))) := by
  have hpaced : paced (fun s => enterRunning (setUpDesk s)) (s.advance t) =
      Nat.repeat tick (s.paces.headD 512) (startPending (timedDesk (s.advance t))) := by
    rw [paced_eq_repeat, enterRunning_eq]
    rfl
  have heffect : clearDone (s.advance t) = Nat.repeat tick (s.paces.headD 512) (startPending (timedDesk (s.advance t))) :=
    (if_pos h).trans hpaced
  refine (act_quiet (f := clearDone) hs ?_).trans (congrArg Host.Outcome.next heffect)
  rw [heffect]
  refine repeat_tick_inbox _ _ ?_
  rw [startPending_focus, (timedDesk_rest _).1]
  exact hs.2

theorem timedDesk_quiet (hwait : s.xm.waiting = []) :
    timedDesk s = { runningDesk s with xm := { (runningDesk s).xm with
      sweepDue := s.xm.sweepPeriod.length.map fun n => s.now + n } } := by
  obtain ⟨-, -, hwaiting, hperiod⟩ := exchange_sweep (runningDesk_xm s)
  unfold timedDesk
  rw [releaseAll_of_nil (hwaiting.trans hwait)]
  exact startSweepTimer_of_running (by rw [runningDesk_running]; nofun) (by rw [hperiod, runningDesk_now])

theorem startPending_quiet (hpending : s.xm.pendingSweep = false) :
    startPending s = { s with xm := { s.xm with sweepState := .idle } } := if_neg (by rw [hpending]; nofun)

theorem startPending_timedDesk_quiet (hwait : s.xm.waiting = []) (hnone : s.xm.pendingSweep = false) :
    startPending (timedDesk s) = { runningDesk s with xm := { (runningDesk s).xm with
      sweepState := .idle, sweepDue := s.xm.sweepPeriod.length.map fun n => s.now + n } } := by
  obtain ⟨-, hpending, -⟩ := timedDesk_rest s
  rw [startPending_quiet (hpending.trans hnone), timedDesk_quiet hwait]
end

/-- What the set-up makes of the blocks, and what it leaves as it was. -/
theorem runningDesk_set (s : State) :
    (runningDesk s).desk = (driveLineResets s).desk ∧ (runningDesk s).comp = (beginTiming s).comp.presentAll ∧
      (runningDesk s).idents = (beginDebounce s).idents ∧ (runningDesk s).senseSlot = 0 ∧ (runningDesk s).panel.nextDrive = 0 ∧
      (runningDesk s).panel.phaseStart = s.now := by
  unfold runningDesk
  rw [setUpDesk_blocks]
  exact ⟨rfl, rfl, rfl, rfl, rfl, rfl⟩

theorem runningDesk_left (s : State) :
    (runningDesk s).focus = s.focus ∧ (runningDesk s).cur = s.cur ∧ (runningDesk s).tlines = s.tlines ∧
      (runningDesk s).power = s.power ∧ (runningDesk s).heads = s.heads := by
  unfold runningDesk
  rw [setUpDesk_blocks]
  exact ⟨rfl, rfl, rfl, rfl, rfl⟩

theorem runningDesk_summary (s : State) {g : Nat} (hg : g < 32) :
    (runningDesk s).xm.mem.read (0x0400 + g) = if 15 ≤ g ∧ g ≤ 18 then 1 else 0 :=
  setUpDesk_summary { s with paces := s.paces.tail } hg

theorem runningDesk_clear (s : State) {a : Nat} (ha : a < 0x0400 ∨ 0x0420 ≤ a) (hout : ∀ m : Mirror, a < m.base ∨ m.base + m.size ≤ a) :
    (runningDesk s).xm.mem.read a = 0 := setUpDesk_clear { s with paces := s.paces.tail } ha hout

theorem runningDesk_shows (s : State) (m : Mirror) : Shows m 1 (mirrorFields (runningDesk s) m) (runningDesk s) := by
  have hshows := setUpDesk_shows { s with paces := s.paces.tail } m
  have hfields : mirrorFields (runningDesk s) m = mirrorFields (setUpDesk { s with paces := s.paces.tail }) m := by
    unfold runningDesk
    generalize setUpDesk _ = v
    cases m with
    | focus | cursor | hotkey | panel | target | screen | line => rfl
  rw [hfields]
  exact ⟨hshows.revision, hshows.word, hshows.fields⟩

/-- A screen's timing begins (R90). -/
theorem beginTiming_screens (s : State) (sc : ScreenId) :
    (beginTiming s).comp.screens[sc.1] =
      if s.comp.screens[sc.1].state = .running then { s.comp.screens[sc.1] with timingStart := some s.now, boundary := 1 }
      else s.comp.screens[sc.1] := Vector.getElem_map _ _

theorem beginDebounce_idents (s : State) (sc : ScreenId) :
    (beginDebounce s).idents[sc.1] =
      if s.fittedScreen sc then { s.idents[sc.1] with
        debounceDue := if s.idents[sc.1].input = s.idents[sc.1].presence then none else some (s.now + 50000) }
      else s.idents[sc.1] := mapVec_get _ _ _

/-- What the crosspoint fields present does not depend on the timing of a screen. -/
theorem beginTiming_presented (s : State) (a : Fin 30) : (beginTiming s).comp.presented a = s.comp.presented a := by
  have hplan (sc : ScreenId) : (beginTiming s).comp.screens[sc.1].state = s.comp.screens[sc.1].state ∧
      (beginTiming s).comp.screens[sc.1].active = s.comp.screens[sc.1].active := by
    rw [beginTiming_screens]
    split
    · exact ⟨rfl, rfl⟩
    · exact ⟨rfl, rfl⟩
  obtain ⟨hstate, hactive⟩ := hplan ⟨a.1 / 5, by omega⟩
  have hview : (beginTiming s).comp.view = s.comp.view := rfl
  have hfields : (beginTiming s).comp.presentedFields ⟨a.1 / 5, by omega⟩ = s.comp.presentedFields ⟨a.1 / 5, by omega⟩ := by
    unfold Composer.presentedFields
    simp only [hstate, hactive, hview]
  exact congrArg (fun l : List Byte => l.getD (a.1 % 5) 0xFF) hfields

theorem beginTiming_strobes (s : State) : (beginTiming s).comp.strobes = s.comp.strobes := by
  unfold beginTiming
  rfl

theorem presentAll_strobes (c : Composer) :
    c.presentAll.strobes = c.strobes ++ (ids 30).map fun a => { addr := a, data := c.presented a } := by
  unfold Composer.presentAll Composer.writeFields
  rfl

theorem presentAll_xpoint (c : Composer) (a : Fin 30) : c.presentAll.xpoint[a.1] = c.presented a := by
  unfold Composer.presentAll Composer.writeFields
  have hmem : (ids 30).contains a = true := List.contains_iff_mem.2 (mem_ids a)
  simp only [mapVec_get, hmem, if_true]

/-! ## The obligation -/

/-- Settles O60: the set-up is a rewrite of the LINE mirrors, the blocks' own values, and a rewrite of the other mirrors. -/
theorem clearDoneSetsUpDesk : Obligations.ClearDoneSetsUpDesk := by
  unfold Obligations.ClearDoneSetsUpDesk
  intro t s hs u w x begun
  have hbegun : startPending (timedDesk u) = begun := by
    obtain ⟨-, hpending, hcount⟩ := timedDesk_rest u
    have hx : timedDesk u = x := rfl
    rw [hx] at hpending hcount ⊢
    rw [startPending_eq, hpending, hcount]
    rfl
  have hexec (h : s.runState = .starting) : exec (.clearDone t) s = .next (Nat.repeat tick (s.paces.headD 512) begun) :=
    (exec_clearDone hs h).trans (congrArg (fun v => Host.Outcome.next (Nat.repeat tick (s.paces.headD 512) v)) hbegun)
  have hw : runningDesk u = w := rfl
  refine ⟨exec_clearDone_ignored hs, fun hstart => ⟨hexec hstart, ?_⟩⟩
  have hquiet (hwait : s.xm.waiting = []) (hnone : s.xm.pendingSweep = false) : begun = { w with xm := { w.xm with
      sweepState := .idle, sweepDue := s.xm.sweepPeriod.length.map fun n => u.now + n } } := by
    have hquiet := startPending_timedDesk_quiet (s := u) hwait hnone
    rw [hbegun, hw] at hquiet
    exact hquiet
  have hrun := runningDesk_running u
  obtain ⟨hdesk, hcomp, hidents, hsense, hdrive, hphase⟩ := runningDesk_set u
  have hleft := runningDesk_left u
  have hshows := runningDesk_shows u
  have hgiven := congrArg Exchange.given (runningDesk_xm u)
  have hsummary (g : Nat) (hg : g < 32) := runningDesk_summary u hg
  have hclear (a : Nat) (ha : a < 0x0400 ∨ 0x0420 ≤ a) := runningDesk_clear u ha
  rw [hw] at hrun hdesk hcomp hidents hsense hdrive hphase hleft hshows hgiven hsummary hclear
  clear_value w
  refine ⟨fun hwait hnone => (hexec hstart).trans ?quiet, fun m => ?mirrors, hsummary, hclear, fun l => ?lines,
    fun sc => ⟨?screens, ?idents⟩, hgiven, ?strobes, fun a => ?fields, hsense, hdrive, hphase, hleft⟩
  case quiet =>
    rw [hquiet hwait hnone, repeat_tick_idle (not_busy_of_idle ?_ rfl)]
    intro c k hr
    cases hrun.symm.trans hr
  case mirrors => exact ⟨(hshows m).word, (hshows m).revision, (hshows m).fields⟩
  case lines =>
    simp only [hdesk]
    exact Vector.getElem_map _ _
  case screens =>
    simp only [hcomp]
    exact beginTiming_screens u sc
  case idents =>
    simp only [hidents]
    exact beginDebounce_idents u sc
  case strobes =>
    rw [hcomp, presentAll_strobes, beginTiming_strobes]
    simp only [beginTiming_presented]
    rfl
  case fields =>
    simp only [hcomp]
    exact (presentAll_xpoint _ a).trans (beginTiming_presented u a)

end Sys2Proof.Machine
end

section
/-! PROOFS. RESET_N and the power-on values (R163, R183; logs 6, 7, 23). -/

namespace Sys2Proof.Machine

open Sys2Proof

/-! ## The commands of RESET_N -/

theorem strapsOf_eq (a b : BitVec 3) (g : Bool) :
    strapsOf a b g = { screens := if a.toNat ≤ 5 then a.toNat + 1 else 6, targets := b.toNat + 1, glide := g } := by
  have hscreens : min (a.toNat + 1) 6 = if a.toNat ≤ 5 then a.toNat + 1 else 6 := by
    split
    · omega
    · omega
  unfold strapsOf
  rw [hscreens]

/-- The power-on values with what a reset keeps. -/
def keptOverPowerOn (st : Straps) (present : BitVec 8) (s : State) (t : Nat) : State :=
  { State.powerOn st present with
    pending := s.pending, paces := s.paces, now := max s.now t, xm := { Exchange.initial with mem := s.xm.mem },
    idents := Vector.ofFn fun sc => { (State.powerOn st present).idents[sc.1] with input := s.idents[sc.1].input } }

theorem overPowerOn_eq (st : Straps) (present : BitVec 8) (s : State) (t : Nat) :
    overPowerOn (s.advance t) st present = keptOverPowerOn st present s t := rfl

/-! ## The power-on values, vector by vector -/

theorem Link.initial_eq (st : Straps) (present : BitVec 8) (k : TargetId) :
    Link.initial st present k = if k.1 < st.targets ∧ present.getLsbD k.1 = true then .up else .down := by
  unfold Link.initial
  simp only [Bool.and_eq_true, decide_eq_true_eq]

section
variable (st : Straps) (present : BitVec 8)

/-- A default indicator has one of four sources (R163). -/
theorem Indicator.initial_source (i : PosId) :
    (Indicator.initial st i).source = .nothing ∨ (Indicator.initial st i).source = .focus ∨
      (Indicator.initial st i).source = .screenLoaned ∨ (Indicator.initial st i).source = .power := by
  unfold Indicator.initial
  dsimp only
  split
  · exact .inr (.inl rfl)
  · split
    · exact .inr (.inr (.inl rfl))
    · split
      · exact .inr (.inr (.inr rfl))
      · exact .inl rfl

/-- No default indicator is lit by the view of power-on. -/
theorem Indicator.initial_condition (i : PosId) : (Indicator.initial st i).condition (Panel.initial st).view = false := by
  rw [Bool.eq_false_iff]
  obtain h | h | h | h := Indicator.initial_source st i
  · rw [condition_nothing h]
    nofun
  · rw [Ne, condition_focus h]
    rintro ⟨k, hk, -⟩
    cases hk
  · rw [Ne, condition_screenLoaned h]
    rintro ⟨sc, -, hloaned⟩
    have hno : (Panel.initial st).view.loaned[sc.1] = false := Vector.getElem_replicate _
    rw [hno] at hloaned
    cases hloaned
  · rw [Ne, condition_power h]
    rintro ⟨k, -, hon⟩
    have hunknown : (Panel.initial st).view.power[k.1] = .unknown := Vector.getElem_replicate _
    rw [hunknown] at hon
    cases hon

theorem HotEntry.initial_eq (i : Fin 32) :
    HotEntry.initial st i =
      if i.1 < 8 then
        { enabled := decide (i.1 < st.targets), kind := 1, mods := 0, key := byte (0x1E + i.1), action := 1,
          ops := { Operands.zero with target := byte i.1 }, fires := 0 }
      else if i = 8 then { enabled := true, kind := 1, mods := 0, key := 0x1A, action := 8, ops := Operands.zero, fires := 0 }
      else { enabled := false, kind := 0, mods := 0, key := 0x01, action := 9, ops := Operands.zero, fires := 0 } := by
  have hi : i.1 = 8 ↔ i = 8 := (Fin.ext_iff (b := 8)).symm
  unfold HotEntry.initial
  exact if_congr Iff.rfl rfl (if_congr hi rfl rfl)

/-- The key of the default map before its action. -/
def blankKey (action : Action) (ops : Operands) : PanelKey :=
  { state := .up, debounce := 0, longDue := none, action := action, ops := ops, events := 0 }

/-- An indicator of the default map. -/
def steadyIndicator (source : IndSource) (operand : Nat) : Indicator :=
  { source := source, operand := byte operand, intensity := 15, pattern := .steady, hostLevel := false }

section
variable {st} {i : PosId}

theorem PanelKey.initial_eq :
    PanelKey.initial st i =
      if i.1 < 8 ∧ i.1 < st.targets then blankKey .focus { Operands.zero with target := byte i.1 }
      else if (8 ≤ i.1 ∧ i.1 < 14) ∧ i.1 - 8 < st.screens then blankKey .restore { Operands.zero with screen := byte (i.1 - 8) }
      else blankKey .nothing Operands.zero := by
  unfold PanelKey.initial
  simp only [Bool.and_eq_true, decide_eq_true_eq]
  rfl

theorem Indicator.initial_eq :
    Indicator.initial st i =
      if i.1 < 8 ∧ i.1 < st.targets then steadyIndicator .focus i.1
      else if (8 ≤ i.1 ∧ i.1 < 14) ∧ i.1 - 8 < st.screens then steadyIndicator .screenLoaned (i.1 - 8)
      else if 16 ≤ i.1 ∧ i.1 - 16 < st.targets then steadyIndicator .power (i.1 - 16)
      else steadyIndicator .nothing 0 := by
  unfold Indicator.initial
  simp only [Bool.and_eq_true, decide_eq_true_eq]
  rfl

theorem defaultMap_focus (h : i.1 < 8 ∧ i.1 < st.targets) :
    PanelKey.initial st i = blankKey .focus { Operands.zero with target := byte i.1 } ∧
      Indicator.initial st i = steadyIndicator .focus i.1 := by
  rw [PanelKey.initial_eq, Indicator.initial_eq, if_pos h, if_pos h]
  exact ⟨rfl, rfl⟩

theorem defaultMap_restore (h : 8 ≤ i.1 ∧ i.1 < 14 ∧ i.1 - 8 < st.screens) :
    PanelKey.initial st i = blankKey .restore { Operands.zero with screen := byte (i.1 - 8) } ∧
      Indicator.initial st i = steadyIndicator .screenLoaned (i.1 - 8) := by
  have h8 : ¬(i.1 < 8 ∧ i.1 < st.targets) := by omega
  have h14 : (8 ≤ i.1 ∧ i.1 < 14) ∧ i.1 - 8 < st.screens := by omega
  rw [PanelKey.initial_eq, Indicator.initial_eq, if_neg h8, if_neg h8, if_pos h14, if_pos h14]
  exact ⟨rfl, rfl⟩

theorem defaultMap_power (h : 16 ≤ i.1 ∧ i.1 - 16 < st.targets) :
    PanelKey.initial st i = blankKey .nothing Operands.zero ∧ Indicator.initial st i = steadyIndicator .power (i.1 - 16) := by
  have h8 : ¬(i.1 < 8 ∧ i.1 < st.targets) := by omega
  have h14 : ¬((8 ≤ i.1 ∧ i.1 < 14) ∧ i.1 - 8 < st.screens) := by omega
  rw [PanelKey.initial_eq, Indicator.initial_eq, if_neg h8, if_neg h8, if_neg h14, if_neg h14, if_pos h]
  exact ⟨rfl, rfl⟩

theorem defaultMap_nothing (h : (i.1 < 8 ∧ st.targets ≤ i.1) ∨ (8 ≤ i.1 ∧ i.1 < 14 ∧ st.screens ≤ i.1 - 8) ∨ i.1 = 14 ∨ i.1 = 15 ∨
    (16 ≤ i.1 ∧ st.targets ≤ i.1 - 16)) :
    PanelKey.initial st i = blankKey .nothing Operands.zero ∧ Indicator.initial st i = steadyIndicator .nothing 0 := by
  have h8 : ¬(i.1 < 8 ∧ i.1 < st.targets) := by omega
  have h14 : ¬((8 ≤ i.1 ∧ i.1 < 14) ∧ i.1 - 8 < st.screens) := by omega
  have h16 : ¬(16 ≤ i.1 ∧ i.1 - 16 < st.targets) := by omega
  rw [PanelKey.initial_eq, Indicator.initial_eq, if_neg h8, if_neg h8, if_neg h14, if_neg h14, if_neg h16]
  exact ⟨rfl, rfl⟩
end
end

/-! ## The obligation -/

/-- Settles O59. -/
theorem resetGivesPowerOnValues : Obligations.ResetGivesPowerOnValues := by
  unfold Obligations.ResetGivesPowerOnValues
  intro kept
  refine ⟨fun c s hr h1 h2 h3 => (acts_exec c h1 h2 h3).inReset s hr, fun t sc level s hr => if_pos hr, fun t s => ?asserted,
    fun t a b g present s => ?release, rfl, fun st present => ?values⟩
  case asserted =>
    intro v
    refine ⟨rfl, rfl, rfl, fun a => if_pos rfl, rfl, fun h => ?_, fun k => ?_, fun sc => rfl, fun p => ?_, fun k => ?_, fun l => ?_⟩
    · exact congrArg Served.hotplug (Vector.getElem_replicate _ : v.served[h.1] = Served.initial)
    · exact congrArg WakeOp.outHigh (Vector.getElem_replicate _ : v.wakes[k.1] = WakeOp.initial)
    · exact Vector.getElem_replicate _
    · have hline : v.tlines[k.1] = TargetLine.initial s.straps 0 k := Vector.getElem_ofFn _
      rw [hline]
      exact ⟨rfl, rfl⟩
    · exact congrArg DeskLine.resetUntil (Vector.getElem_replicate _ : v.desk.lines[l.1] = DeskLine.initial)
  case release =>
    intro st
    have hstraps : strapsOf a b g = st := strapsOf_eq a b g
    rw [← hstraps]
    rfl
  case values =>
    intro p link plan noOps
    have hlink : Link.initial st present = link := funext (Link.initial_eq st present)
    refine ⟨rfl, rfl, rfl, rfl, fun l => Vector.getElem_replicate _, rfl, rfl, fun k => ?line, fun sc => Vector.getElem_ofFn _, rfl, rfl,
      fun k => ⟨Vector.getElem_replicate _, Vector.getElem_replicate _⟩, rfl, ?focus, rfl, rfl, rfl, rfl, fun i => ?hot,
      fun sc => Vector.getElem_ofFn _, fun k => ?view, fun a => Vector.getElem_replicate _, rfl, fun h => Vector.getElem_replicate _,
      fun sc => Vector.getElem_replicate _, fun h => Vector.getElem_replicate _,
      fun k => ⟨Vector.getElem_replicate _, Vector.getElem_replicate _, Vector.getElem_replicate _⟩, rfl, fun i => ?position, rfl,
      fun sc => Vector.getElem_replicate _, rfl, rfl, rfl, rfl, rfl⟩
    case line => exact (Vector.getElem_ofFn _).trans (by rw [TargetLine.initial, hlink])
    case focus =>
      show Focus.initial st present = _
      rw [Focus.initial, hlink]
    case hot => exact (Vector.getElem_ofFn _).trans (HotEntry.initial_eq st i)
    case view => exact (Vector.getElem_ofFn _).trans (by rw [hlink])
    case position =>
      intro key ind
      have hkey : p.panel.keys[i.1] = PanelKey.initial st i := Vector.getElem_ofFn _
      have hind : p.panel.inds[i.1] = Indicator.initial st i := Vector.getElem_ofFn _
      rw [hkey, hind]
      exact ⟨Vector.getElem_replicate _, Indicator.initial_condition st i, defaultMap_focus, defaultMap_restore, defaultMap_power,
        defaultMap_nothing⟩

end Sys2Proof.Machine
end

section
/-! PROOFS. Cells that a restart completes ABORTED, and the step of a restart (R185). -/

namespace Sys2Proof.Machine

open Sys2Proof

/-! ## Work that leaves the cells alone -/

/-- The in-work set and the bytes of the cells are the same. -/
structure SameCells (s t : State) : Prop where
  inWork : t.xm.inWork = s.xm.inWork
  bytes : ∀ a, a < 0x0400 → t.xm.mem.read a = s.xm.mem.read a

theorem SameCells.refl (s : State) : SameCells s s := ⟨rfl, fun _ _ => rfl⟩

theorem SameCells.trans {s t u : State} (h : SameCells s t) (g : SameCells t u) : SameCells s u :=
  ⟨g.inWork.trans h.inWork, fun a ha => (g.bytes a ha).trans (h.bytes a ha)⟩

theorem SameCells.entry {s t : State} (h : SameCells s t) (c : CellId) : t.xm.entry c = s.xm.entry c := by
  unfold Exchange.entry
  rw [h.inWork]

theorem sameCells_of_xm {s t : State} (h : t.xm = s.xm) : SameCells s t := ⟨by rw [h], fun _ _ => by rw [h]⟩

theorem sameCells_foldl {α : Type} {f : State → α → State} (hf : ∀ s a, SameCells s (f s a)) (l : List α) (s : State) :
    SameCells s (l.foldl f s) := by
  induction l generalizing s with
  | nil => exact .refl s
  | cons a l ih => exact (hf s a).trans (ih _)

theorem sameCells_writeMem {a : Nat} (ha : 0x0400 ≤ a) (bs : List Byte) (s : State) : SameCells s (writeMem a bs s) :=
  ⟨rfl, fun b hb => Memory.read_write_outside s.xm.mem a bs b (.inl (by omega))⟩

theorem sameCells_rewriteMirror (m : Mirror) (s : State) : SameCells s (rewriteMirror m s) :=
  ⟨rfl, fun a ha => rewriteMirror_summary m s (by omega)⟩

theorem sameCells_notice (m : Mirror) (s : State) : SameCells s (notice m s) :=
  (sameCells_rewriteMirror m s).trans (sameCells_writeMem (by simp only [Config.noticeBase]; omega) _ _)

theorem sameCells_noticeOf (p : Share) (s : State) : SameCells s (noticeOf p s) :=
  SameCells.trans (t := give p s) ⟨rfl, fun _ _ => rfl⟩ (sameCells_notice p.mirror (give p s))

theorem sameCells_panelReport (f : Panel → Panel) (s : State) : SameCells s (panelReport f s) := by
  unfold panelReport
  dsimp only
  split
  · exact sameCells_of_xm rfl
  · exact SameCells.trans (t := { s with panel := (f s.panel).workOutDuties s.straps }) (sameCells_of_xm rfl) (sameCells_rewriteMirror _ _)

/-! ## Completions with ABORTED -/

/-- The cells of the list that are in the in-work set complete ABORTED, and the others stay as they are. -/
structure Aborts (cells : List CellId) (s t : State) : Prop where
  entry : ∀ d, t.xm.entry d = if d ∈ cells then none else s.xm.entry d
  aborted : ∀ d ∈ cells, s.xm.entry d ≠ none →
    t.xm.mem.read (64 * d.1 + 2) = 3 ∧ t.xm.mem.read (64 * d.1 + 4) = Result.aborted.code
  same : ∀ d : CellId, d ∉ cells ∨ s.xm.entry d = none → ∀ i < 64, t.xm.mem.read (64 * d.1 + i) = s.xm.mem.read (64 * d.1 + i)

theorem SameCells.aborts {s t : State} (h : SameCells s t) : Aborts [] s t :=
  ⟨fun d => h.entry d, nofun, fun d _ i hi => h.bytes _ (by omega)⟩

namespace Aborts
variable {l l' : List CellId} {s t u : State}

theorem refl (s : State) : Aborts [] s s := (SameCells.refl s).aborts

theorem gone (h : Aborts l s t) {d : CellId} (hd : d ∈ l) : t.xm.entry d = none := (h.entry d).trans (if_pos hd)

theorem kept (h : Aborts l s t) {d : CellId} (hd : d ∉ l) : t.xm.entry d = s.xm.entry d := (h.entry d).trans (if_neg hd)

theorem append (h : Aborts l s t) (g : Aborts l' t u) : Aborts (l ++ l') s u := by
  refine ⟨fun d => ?entry, fun d hd he => ?aborted, fun d hd i hi => ?same⟩
  case entry =>
    rw [g.entry, h.entry]
    by_cases h' : d ∈ l'
    · rw [if_pos h', if_pos (List.mem_append_right _ h')]
    · rw [if_neg h']
      exact if_congr (by rw [List.mem_append, or_iff_left h']) rfl rfl
  case aborted =>
    by_cases hl : d ∈ l
    · obtain ⟨hstate, hresult⟩ := h.aborted d hl he
      have hsame := g.same d (.inr (h.gone hl))
      exact ⟨(hsame 2 (by omega)).trans hstate, (hsame 4 (by omega)).trans hresult⟩
    · exact g.aborted d ((List.mem_append.1 hd).resolve_left hl) (by rw [h.kept hl]; exact he)
  case same =>
    obtain hd | he := hd
    · rw [List.mem_append, not_or] at hd
      exact (g.same d (.inl hd.2) i hi).trans (h.same d (.inl hd.1) i hi)
    · have ht : t.xm.entry d = none := by
        rw [h.entry, he, ite_self]
      exact (g.same d (.inr ht) i hi).trans (h.same d (.inr he) i hi)

theorem congr (h : Aborts l s t) (hl : ∀ d, d ∈ l' ↔ d ∈ l) : Aborts l' s t :=
  ⟨fun d => (h.entry d).trans (if_congr (hl d).symm rfl rfl), fun d hd => h.aborted d ((hl d).1 hd),
    fun d hd => h.same d (hd.imp_left (mt (hl d).2))⟩

theorem then_same (h : Aborts l s t) (g : SameCells t u) : Aborts l s u :=
  (h.append g.aborts).congr fun d => by rw [List.append_nil]

theorem after_same (h : SameCells s t) (g : Aborts l t u) : Aborts l s u := h.aborts.append g

/-- What a cell of the list reads afterwards. -/
theorem reads (h : Aborts l s t) {cells : List CellId} (hl : ∀ d ∈ cells, d ∈ l) : ∀ d ∈ cells, s.xm.entry d ≠ none →
    t.xm.entry d = none ∧ t.xm.mem.read (64 * d.1 + 2) = 3 ∧ t.xm.mem.read (64 * d.1 + 4) = Result.aborted.code :=
  fun d hd he => ⟨h.gone (hl d hd), h.aborted d (hl d hd) he⟩
end Aborts

theorem aborts_complete (c : CellId) (data : List Byte) (s : State) : Aborts [c] s (complete c .aborted data s) := by
  refine ⟨fun d => ?entry, fun d hd he => ?aborted, fun d hd i hi => ?same⟩
  case entry =>
    rw [complete_entry]
    exact if_congr List.mem_singleton.symm rfl rfl
  case aborted =>
    obtain rfl := List.mem_singleton.1 hd
    obtain ⟨hstate, hresult, -⟩ := complete_cellDone he .aborted data
    exact ⟨hstate, hresult⟩
  case same =>
    cases he : s.xm.entry c with
    | none => rw [complete_of_no_entry he]
    | some e =>
      have hne : d ≠ c := by
        rintro rfl
        obtain hd | hd := hd
        · exact hd (List.mem_singleton_self d)
        · rw [hd] at he
          cases he
      have hval : d.1 ≠ c.1 := fun h => hne (Fin.ext h)
      exact complete_read_outside he (by omega) (by omega)

theorem aborts_completeAll (cells : List CellId) (data : State → List Byte) (s : State) :
    Aborts cells s (completeAll cells .aborted data s) := by
  induction cells generalizing s with
  | nil => exact .refl s
  | cons c cs ih => exact (aborts_complete c (data s) s).append (ih _)

/-- A fold whose step at each index completes that index's own cells. -/
theorem aborts_foldl {n : Nat} {f : State → Fin n → State} {cells : State → Fin n → List CellId}
    (hf : ∀ s k, Aborts (cells s k) s (f s k)) (hkeep : ∀ s k j, j ≠ k → cells (f s k) j = cells s j) {l : List (Fin n)}
    (hl : l.Nodup) (s : State) : Aborts (l.flatMap (cells s)) s (l.foldl f s) := by
  induction l generalizing s with
  | nil => exact .refl s
  | cons k l ih =>
    obtain ⟨hk, hl⟩ := List.nodup_cons.1 hl
    have hcells : l.flatMap (cells (f s k)) = l.flatMap (cells s) :=
      List.flatMap_congr fun j hj => hkeep s k j fun h => hk (h ▸ hj)
    rw [List.flatMap_cons, ← hcells]
    exact (hf s k).append (ih hl (f s k))

/-! ## Records that each step of a fold writes once -/

theorem upd_read {α : Type} {n : Nat} (v : Vector α n) (i j : Fin n) (f : α → α) :
    (upd v i f)[j.1] = if j = i then f v[j.1] else v[j.1] := (upd_get v i j f).trans (if_congr eq_comm rfl rfl)

/-- A fold over all indices whose step at each index writes that index's own record alone, in states of a kind that the steps keep. -/
theorem foldl_ids_record {n : Nat} {α : Type} {f : State → Fin n → State} {get : State → Fin n → α} {g : Fin n → α → α}
    {inv : State → Prop} (hinv : ∀ s k, inv s → inv (f s k))
    (hf : ∀ s k j, inv s → get (f s k) j = if j = k then g j (get s j) else get s j) {s : State} (hs : inv s) (j : Fin n) :
    get ((ids n).foldl f s) j = g j (get s j) := by
  have hlist (l : List (Fin n)) (hl : l.Nodup) (s : State) (hs : inv s) :
      get (l.foldl f s) j = if j ∈ l then g j (get s j) else get s j := by
    induction l generalizing s with
    | nil => simp
    | cons k l ih =>
      obtain ⟨hk, hl⟩ := List.nodup_cons.1 hl
      rw [List.foldl_cons, ih hl (f s k) (hinv s k hs), hf s k j hs]
      by_cases hjk : j = k
      · subst hjk
        rw [if_neg hk, if_pos rfl, if_pos List.mem_cons_self]
      · rw [if_neg hjk]
        exact if_congr (by rw [List.mem_cons, or_iff_right hjk]) rfl rfl
  exact (hlist (ids n) (List.nodup_finRange n) s hs).trans (if_pos (mem_ids j))

end Sys2Proof.Machine
end

section
/-! PROOFS. The first steps of a restart: wake operations, staged plans and the display identity unit (R108, R133, R152). -/

namespace Sys2Proof.Machine

open Sys2Proof

/-! ## Step 1: wake operations (R152) -/

/-- `t` is `s` but for the wake operations, the target lines, the exchange port and the panel. -/
def OnlyWakes (s t : State) : Prop := t = { s with wakes := t.wakes, tlines := t.tlines, xm := t.xm, panel := t.panel }

theorem OnlyWakes.trans {s t u : State} (h : OnlyWakes s t) (g : OnlyWakes t u) : OnlyWakes s u := by
  unfold OnlyWakes at *
  rw [g, h]

theorem onlyWakes_foldl {α : Type} {f : State → α → State} (hf : ∀ s a, OnlyWakes s (f s a)) (l : List α) (s : State) :
    OnlyWakes s (l.foldl f s) := by
  induction l generalizing s with
  | nil => rfl
  | cons a l ih => exact (hf s a).trans (ih _)

/-- A target line whose resume signal has ended. -/
def TargetLine.unresumed (l : TargetLine) : TargetLine := { l with resumeUntil := none }

theorem stopResume_eq (k : TargetId) (s : State) :
    stopResume k s =
      if s.tlines[k.1].resumeUntil.isSome then noticeOf (.line k) (modTLine k TargetLine.unresumed s) else s := rfl

theorem stopResume_tlines (k : TargetId) (s : State) : (stopResume k s).tlines = upd s.tlines k TargetLine.unresumed := by
  rw [stopResume_eq]
  cases h : s.tlines[k.1].resumeUntil with
  | some d => rfl
  | none =>
    have hsame : s.tlines[k.1].unresumed = s.tlines[k.1] := by
      unfold TargetLine.unresumed
      rw [← h]
    exact (upd_same _ _ _ hsame).symm

theorem stopResume_rest (k : TargetId) (s : State) :
    (stopResume k s).wakes = s.wakes ∧ (stopResume k s).panel = s.panel ∧ OnlyWakes s (stopResume k s) ∧ SameCells s (stopResume k s) := by
  rw [stopResume_eq]
  split
  · exact ⟨rfl, rfl, rfl, SameCells.trans (t := modTLine k TargetLine.unresumed s) (sameCells_of_xm rfl) (sameCells_noticeOf _ _)⟩
  · exact ⟨rfl, rfl, rfl, .refl s⟩

/-- The end of a target's running operation at a restart (R152). -/
def abortWake (s : State) (k : TargetId) : State :=
  if s.wakes[k.1].state = .idle then s
  else
    let s := stopResume k (modWake k (fun w => { w with due := none, outHigh := inactiveHigh s.setups[k.1] }) s)
    let s := completeAll s.wakes[k.1].joined .aborted (wakeData k .aborted) s
    let s := modWake k (fun w => w.ended w.outHigh) s
    noticeOf (.power k) (wakingToPanel k false s)

theorem restartWakes_eq (s : State) : restartWakes s = (ids 8).foldl (fun s k => stopResume k s) ((ids 8).foldl abortWake s) := rfl

/-- The cells that a running operation has joined. -/
def runningCells (s : State) (k : TargetId) : List CellId := if s.wakes[k.1].state = .idle then [] else s.wakes[k.1].joined

/-- The record of an operation after the restart. -/
def WakeOp.aborted (high : Bool) (w : WakeOp) : WakeOp := if w.state = .idle then w else w.idled high

section
variable (k : TargetId) (s : State)

/-- The operation's deadline cancelled, its output at rest, and its resume signal ended. -/
def wakeCut : State := stopResume k (modWake k (fun w => { w with due := none, outHigh := inactiveHigh s.setups[k.1] }) s)

/-- The joined cells ABORTED. -/
def wakeCellsAborted : State := completeAll (wakeCut k s).wakes[k.1].joined .aborted (wakeData k .aborted) (wakeCut k s)

theorem wakeCut_wakes :
    (wakeCut k s).wakes = upd s.wakes k fun w => { w with due := none, outHigh := inactiveHigh s.setups[k.1] } := (stopResume_rest k _).1

theorem completeAll_only (cells : List CellId) (r : Result) (data : State → List Byte) (s : State) :
    completeAll cells r data s = { s with xm := (completeAll cells r data s).xm } := by
  induction cells generalizing s with
  | nil => rfl
  | cons c cs ih =>
    have hfirst : complete c r (data s) s = { s with xm := (complete c r (data s) s).xm } := by
      unfold complete
      split
      · rfl
      · rfl
    have hrest : completeAll (c :: cs) r data s = completeAll cs r data (complete c r (data s) s) := rfl
    rw [hrest, ih, hfirst]

/-- The operation IDLE after its abort. -/
def wakeAborted : State := modWake k (fun w => w.ended w.outHigh) (wakeCellsAborted k s)

theorem wakeCellsAborted_only : wakeCellsAborted k s = { wakeCut k s with xm := (wakeCellsAborted k s).xm } := completeAll_only _ _ _ _

theorem onlyWakes_of_xm {s t : State} (h : t = { s with xm := t.xm }) : OnlyWakes s t := by
  unfold OnlyWakes
  rw [h]

theorem wakeAborted_rest :
    (wakeAborted k s).wakes = upd s.wakes k (fun w => w.idled (inactiveHigh s.setups[k.1])) ∧
      (wakeAborted k s).tlines = upd s.tlines k TargetLine.unresumed ∧ OnlyWakes s (wakeAborted k s) := by
  have honly := wakeCellsAborted_only k s
  have hwakes : (wakeCellsAborted k s).wakes = (wakeCut k s).wakes := by rw [honly]
  have htlines : (wakeCellsAborted k s).tlines = (wakeCut k s).tlines := by rw [honly]
  obtain ⟨-, -, hcut, -⟩ := stopResume_rest k (modWake k (fun w => { w with due := none, outHigh := inactiveHigh s.setups[k.1] }) s)
  have hmod : OnlyWakes s (modWake k (fun w => { w with due := none, outHigh := inactiveHigh s.setups[k.1] }) s) := rfl
  have hidle : OnlyWakes (wakeCellsAborted k s) (wakeAborted k s) := rfl
  refine ⟨?_, ?_, ((hmod.trans hcut).trans (onlyWakes_of_xm honly)).trans hidle⟩
  · rw [wakeAborted, modWake_wakes, hwakes, wakeCut_wakes, upd_upd]
    rfl
  · show (wakeCellsAborted k s).tlines = _
    rw [htlines, wakeCut, stopResume_tlines]
    rfl

theorem aborts_wakeAborted : Aborts s.wakes[k.1].joined s (wakeAborted k s) := by
  have hcut : SameCells s (wakeCut k s) := SameCells.trans
    (t := modWake k (fun w => { w with due := none, outHigh := inactiveHigh s.setups[k.1] }) s) (sameCells_of_xm rfl) (stopResume_rest k _).2.2.2
  have hjoined : (wakeCut k s).wakes[k.1].joined = s.wakes[k.1].joined := by
    simp only [wakeCut_wakes, upd_self]
  have hcells := aborts_completeAll (wakeCut k s).wakes[k.1].joined (wakeData k .aborted) (wakeCut k s)
  rw [hjoined] at hcells
  have hdone : Aborts s.wakes[k.1].joined s (wakeCellsAborted k s) := by
    unfold wakeCellsAborted
    rw [hjoined]
    exact .after_same hcut hcells
  exact hdone.then_same (sameCells_of_xm rfl)

theorem abortWake_running (h : s.wakes[k.1].state ≠ .idle) :
    abortWake s k = noticeOf (.power k) (wakingToPanel k false (wakeAborted k s)) := if_neg h

theorem onlyWakes_noticeOf_panelReport (p : Share) (f : Panel → Panel) (s : State) : OnlyWakes s (noticeOf p (panelReport f s)) := by
  unfold panelReport
  dsimp only
  split
  · rfl
  · rfl

/-- What the abort of a target's operation makes of the wake operations, the target lines and the cells. -/
theorem abortWake_spec :
    (abortWake s k).wakes = upd s.wakes k (WakeOp.aborted (inactiveHigh s.setups[k.1])) ∧
      ((abortWake s k).tlines = s.tlines ∨ (abortWake s k).tlines = upd s.tlines k TargetLine.unresumed) ∧
      OnlyWakes s (abortWake s k) ∧ Aborts (runningCells s k) s (abortWake s k) := by
  unfold runningCells
  by_cases h : s.wakes[k.1].state = .idle
  · have hskip : abortWake s k = s := if_pos h
    have hsame : s.wakes[k.1].aborted (inactiveHigh s.setups[k.1]) = s.wakes[k.1] := if_pos h
    rw [hskip, if_pos h]
    exact ⟨(upd_same _ _ _ hsame).symm, .inl rfl, rfl, .refl s⟩
  · obtain ⟨hwakes, htlines, honly⟩ := wakeAborted_rest k s
    obtain ⟨hpwakes, -, hptlines, -, -⟩ := panelReport_rest
      (fun p => { p with view := { p.view with waking := p.view.waking.set k.1 false k.2 } }) (wakeAborted k s)
    rw [if_neg h, abortWake_running k s h]
    refine ⟨?_, .inr ?_, honly.trans (onlyWakes_noticeOf_panelReport _ _ _),
      ((aborts_wakeAborted k s).then_same (sameCells_panelReport _ _)).then_same (sameCells_noticeOf _ _)⟩
    · rw [noticeOf_wakes, wakingToPanel, hpwakes, hwakes]
      exact upd_congr (if_neg h).symm
    · rw [noticeOf_tlines, wakingToPanel, hptlines, htlines]
end

/-! ## The step as a whole -/

/-- What step 1 of a restart leaves. -/
structure WakesRestarted (s t : State) : Prop where
  only : OnlyWakes s t
  wakes : ∀ k : TargetId, t.wakes[k.1] = s.wakes[k.1].aborted (inactiveHigh s.setups[k.1])
  tlines : ∀ k : TargetId, t.tlines[k.1] = s.tlines[k.1].unresumed
  cells : Aborts ((ids 8).flatMap (runningCells s)) s t

theorem OnlyWakes.setups {s t : State} (h : OnlyWakes s t) : t.setups = s.setups := by rw [h]

theorem abortWake_unresumed (s : State) (k j : TargetId) : (abortWake s k).tlines[j.1].unresumed = s.tlines[j.1].unresumed := by
  obtain ⟨-, htlines | htlines, -, -⟩ := abortWake_spec k s
  · simp only [htlines]
  · simp only [htlines, upd_get]
    split
    · rfl
    · rfl

theorem runningCells_abortWake (s : State) {k j : TargetId} (h : j ≠ k) : runningCells (abortWake s k) j = runningCells s j := by
  obtain ⟨hwakes, -, -, -⟩ := abortWake_spec k s
  unfold runningCells
  simp only [hwakes, upd_ne _ _ _ _ h.symm]

theorem restartWakes_spec (s : State) : WakesRestarted s (restartWakes s) := by
  have hrest (u : State) (k : TargetId) := stopResume_rest k u
  rw [restartWakes_eq]
  refine ⟨?only, fun j => ?wakes, fun j => ?tlines, ?cells⟩
  case only =>
    exact (onlyWakes_foldl (fun u k => (abortWake_spec k u).2.2.1) _ s).trans (onlyWakes_foldl (fun u k => (hrest u k).2.2.1) _ _)
  case wakes =>
    have hstop := foldl_frame State.wakes (f := fun s k => stopResume k s) (fun u k => (hrest u k).1) (ids 8) ((ids 8).foldl abortWake s)
    simp only [hstop]
    refine foldl_ids_record (f := abortWake) (get := fun u k => u.wakes[k.1]) (g := fun k w => w.aborted (inactiveHigh s.setups[k.1]))
      (inv := fun u => u.setups = s.setups) (fun u k hu => (abortWake_spec k u).2.2.1.setups.trans hu) (fun u k i hu => ?_) rfl j
    obtain ⟨hwakes, -, -, -⟩ := abortWake_spec k u
    simp only [hwakes, upd_read, hu]
    by_cases hik : i = k
    · subst hik
      rfl
    · rw [if_neg hik, if_neg hik]
  case tlines =>
    have hfirst := foldl_frame (fun u : State => u.tlines[j.1].unresumed) (fun u k => abortWake_unresumed u k j) (ids 8) s
    refine (foldl_ids_record (f := fun s k => stopResume k s) (get := fun u k => u.tlines[k.1]) (g := fun _ l => l.unresumed)
      (inv := fun _ => True) (fun _ _ h => h) (fun u k i _ => ?_) trivial j).trans hfirst
    simp only [stopResume_tlines, upd_read]
  case cells =>
    exact (aborts_foldl (f := abortWake) (cells := runningCells) (fun u k => (abortWake_spec k u).2.2.2)
      (fun u k i h => runningCells_abortWake u h) (List.nodup_finRange 8) s).then_same
      (sameCells_foldl (fun u k => (hrest u k).2.2.2) _ _)

end Sys2Proof.Machine
end

section
/-! PROOFS. The steps of a restart that discard staged plans and end the display identity unit's waits (R108, R133). -/

namespace Sys2Proof.Machine

open Sys2Proof

/-! ## Step 2: staged plans (R108) -/

/-- `t` is `s` but for the screen records and the exchange port. -/
def OnlyStaged (s t : State) : Prop := t = { s with comp := { s.comp with screens := t.comp.screens }, xm := t.xm }

theorem OnlyStaged.trans {s t u : State} (h : OnlyStaged s t) (g : OnlyStaged t u) : OnlyStaged s u := by
  unfold OnlyStaged at *
  rw [g, h]

theorem onlyStaged_foldl {α : Type} {f : State → α → State} (hf : ∀ s a, OnlyStaged s (f s a)) (l : List α) (s : State) :
    OnlyStaged s (l.foldl f s) := by
  induction l generalizing s with
  | nil => rfl
  | cons a l ih => exact (hf s a).trans (ih _)

theorem onlyStaged_of_xm {s t : State} (h : t = { s with xm := t.xm }) : OnlyStaged s t := by
  unfold OnlyStaged
  rw [h]

/-- A screen's record with no staged plan. -/
def ScreenRec.unstaged (r : ScreenRec) : ScreenRec := { r with staged := none }

/-- A screen's staged plan discarded, its cells ABORTED. -/
def discardScreen (s : State) (sc : ScreenId) : State :=
  match s.comp.screens[sc.1].staged with
  | none => s
  | some g => completeAll g.cells .aborted (planData sc) (modScreen sc (fun r => { r with staged := none }) s)

theorem discardStaged_eq (s : State) : discardStaged s = (ids 6).foldl discardScreen s := rfl

/-- The cells that wait on a screen's staged plan. -/
def stagedCells (s : State) (sc : ScreenId) : List CellId := (s.comp.screens[sc.1].staged.map Staged.cells).getD []

theorem discardScreen_spec (s : State) (sc : ScreenId) :
    (discardScreen s sc).comp.screens = upd s.comp.screens sc ScreenRec.unstaged ∧ OnlyStaged s (discardScreen s sc) ∧
      Aborts (stagedCells s sc) s (discardScreen s sc) := by
  unfold discardScreen stagedCells
  cases hg : s.comp.screens[sc.1].staged with
  | none =>
    have hsame : s.comp.screens[sc.1].unstaged = s.comp.screens[sc.1] := by
      unfold ScreenRec.unstaged
      rw [← hg]
    exact ⟨(upd_same _ _ _ hsame).symm, rfl, .refl s⟩
  | some g =>
    have honly := completeAll_only g.cells .aborted (planData sc) (modScreen sc ScreenRec.unstaged s)
    have hmod : OnlyStaged s (modScreen sc ScreenRec.unstaged s) := rfl
    refine ⟨?_, hmod.trans (onlyStaged_of_xm honly), .after_same (t := modScreen sc ScreenRec.unstaged s) (sameCells_of_xm rfl) (aborts_completeAll g.cells _ _)⟩
    exact congrArg (fun v : State => v.comp.screens) honly

/-- What step 2 of a restart leaves. -/
structure StagedDiscarded (s t : State) : Prop where
  only : OnlyStaged s t
  screens : ∀ sc : ScreenId, t.comp.screens[sc.1] = s.comp.screens[sc.1].unstaged
  cells : Aborts ((ids 6).flatMap (stagedCells s)) s t

theorem discardStaged_spec (s : State) : StagedDiscarded s (discardStaged s) := by
  have hspec (u : State) (sc : ScreenId) := discardScreen_spec u sc
  rw [discardStaged_eq]
  refine ⟨onlyStaged_foldl (fun u sc => (hspec u sc).2.1) _ s, fun j => ?screens, ?cells⟩
  case screens =>
    refine foldl_ids_record (f := discardScreen) (get := fun u sc => u.comp.screens[sc.1]) (g := fun _ r => r.unstaged)
      (inv := fun _ => True) (fun _ _ h => h) (fun u sc i _ => ?_) trivial j
    simp only [(hspec u sc).1, upd_read]
  case cells =>
    refine aborts_foldl (f := discardScreen) (cells := stagedCells) (fun u sc => (hspec u sc).2.2) (fun u sc i h => ?_)
      (List.nodup_finRange 6) s
    unfold stagedCells
    simp only [(hspec u sc).1, upd_ne _ _ _ _ h.symm]

/-! ## Step 3: the display identity unit (R133) -/

theorem identityWork_foldl {α : Type} {f : State → α → State} (hf : ∀ s a, IdentityWork s (f s a)) (l : List α) (s : State) :
    IdentityWork s (l.foldl f s) := by
  induction l generalizing s with
  | nil => exact .refl s
  | cons a l ih => exact (hf s a).trans (ih _)

/-- A screen's record with no cell waiting on its read. -/
def ScreenIdent.unwaited (i : ScreenIdent) : ScreenIdent := { i with waiting := [] }

/-- A head's record with no pending replacement that a cell waits on. -/
def Served.unpended (v : Served) : Served := { v with pending := v.pending.filter fun p => p.cell.isNone }

/-- A head's record with no cell waiting on its copy or on its announcement. -/
def Served.uncelled (v : Served) : Served :=
  { v with copy := v.copy.map fun c => { c with rep := { c.rep with cell := none } }, completing := none }

theorem sameCells_changeServed (h : HeadId) (f : Served → Served) (s : State) : SameCells s (changeServed h f s) := by
  unfold changeServed
  dsimp only
  split
  · exact sameCells_of_xm rfl
  · exact SameCells.trans (t := modServed h f s) (sameCells_of_xm rfl) (sameCells_noticeOf _ _)

theorem aborts_completeServe (h : HeadId) (c : Option CellId) (sums : List Byte) (s : State) :
    Aborts c.toList s (completeServe h c .aborted sums s) := by
  cases c with
  | none => exact .refl s
  | some c => exact aborts_complete c _ s

theorem abortReads_spec (s : State) (sc : ScreenId) :
    (completeReads sc .aborted false s).idents = upd s.idents sc ScreenIdent.unwaited ∧
      Aborts s.idents[sc.1].waiting s (completeReads sc .aborted false s) :=
  ⟨completeReads_idents sc .aborted false s, (aborts_completeAll _ _ s).then_same (sameCells_of_xm rfl)⟩

/-- The cell of a pending replacement. -/
def pendingCell (s : State) (h : HeadId) : List CellId := (s.served[h.1].pending.bind Replacement.cell).toList

theorem abortPending_spec (s : State) (h : HeadId) :
    (abortPending s h).served = upd s.served h Served.unpended ∧ (abortPending s h).idents = s.idents ∧
      IdentityWork s (abortPending s h) ∧ Aborts (pendingCell s h) s (abortPending s h) := by
  unfold abortPending pendingCell
  cases hp : s.served[h.1].pending with
  | none =>
    have hsame : s.served[h.1].unpended = s.served[h.1] := by
      unfold Served.unpended
      rw [hp, Option.filter_none, ← hp]
    exact ⟨(upd_same _ _ _ hsame).symm, rfl, .refl s, .refl s⟩
  | some rep =>
    cases hc : rep.cell with
    | none =>
      have hsame : s.served[h.1].unpended = s.served[h.1] := by
        unfold Served.unpended
        rw [hp, Option.filter_some, hc, ← hp]
        rfl
      simp only [hc, Option.bind_some]
      exact ⟨(upd_same _ _ _ hsame).symm, rfl, .refl s, .refl s⟩
    | some c =>
      have hnone : { s.served[h.1] with pending := none } = s.served[h.1].unpended := by
        unfold Served.unpended
        rw [hp, Option.filter_some, hc]
        rfl
      simp only [hc, Option.bind_some, Option.isSome_some, if_true]
      refine ⟨?_, ?_, (identityWork_changeServed _ _ _).trans (identityWork_completeServe _ _ _ _ _),
        .after_same (sameCells_changeServed _ _ _) (aborts_completeServe _ _ _ _)⟩
      · exact (completeServe_served _ _ _ _ _).trans ((changeServed_served _ _ _).trans (upd_congr hnone))
      · exact (completeServe_idents _ _ _ _ _).trans (changeServed_idents _ _ _)

/-- The cells of a running copy and of a completing announcement. -/
def servingCells (s : State) (h : HeadId) : List CellId :=
  (s.served[h.1].copy.bind fun c => c.rep.cell).toList ++ s.served[h.1].completing.toList

theorem abortServing_spec (s : State) (h : HeadId) :
    (abortServing s h).served = upd s.served h Served.uncelled ∧ (abortServing s h).idents = s.idents ∧
      IdentityWork s (abortServing s h) ∧ Aborts (servingCells s h) s (abortServing s h) := by
  have hmod : SameCells s (modServed h Served.uncelled s) := sameCells_of_xm rfl
  have hwork := identityWork_modServed h Served.uncelled s
  unfold abortServing servingCells
  dsimp only
  cases hc : s.served[h.1].copy with
  | none =>
    exact ⟨completeServe_served .., completeServe_idents .., hwork.trans (identityWork_completeServe ..),
      .after_same hmod (aborts_completeServe ..)⟩
  | some c =>
    refine ⟨(completeServe_served ..).trans (completeServe_served ..), (completeServe_idents ..).trans (completeServe_idents ..),
      (hwork.trans (identityWork_completeServe ..)).trans (identityWork_completeServe ..),
      (Aborts.after_same hmod (aborts_completeServe ..)).append (aborts_completeServe ..)⟩

/-- The screens' waiting cells completed. -/
def readsAborted (s : State) : State := (ids 6).foldl (fun s sc => completeReads sc .aborted false s) s

theorem restartIdentity_eq (s : State) :
    restartIdentity s = (ids 16).foldl abortServing ((ids 16).foldl abortPending (readsAborted s)) := rfl

/-- What step 3 of a restart leaves. -/
structure IdentityRestarted (s t : State) : Prop where
  work : IdentityWork s t
  idents : ∀ sc : ScreenId, t.idents[sc.1] = s.idents[sc.1].unwaited
  served : ∀ h : HeadId, t.served[h.1] = s.served[h.1].unpended.uncelled
  cells : Aborts ((ids 6).flatMap (fun sc => s.idents[sc.1].waiting) ++ (ids 16).flatMap (pendingCell s) ++
    (ids 16).flatMap (servingCells s)) s t

theorem readsAborted_spec (s : State) :
    IdentityWork s (readsAborted s) ∧ (∀ sc : ScreenId, (readsAborted s).idents[sc.1] = s.idents[sc.1].unwaited) ∧
      (readsAborted s).served = s.served ∧ Aborts ((ids 6).flatMap fun sc => s.idents[sc.1].waiting) s (readsAborted s) := by
  have hidents (u : State) (sc : ScreenId) := (abortReads_spec u sc).1
  refine ⟨identityWork_foldl (fun u sc => identityWork_completeReads sc .aborted false u) _ s, fun j => ?idents,
    foldl_frame State.served (fun u sc => completeReads_served sc .aborted false u) _ s, ?cells⟩
  case idents =>
    refine foldl_ids_record (f := fun s sc => completeReads sc .aborted false s) (get := fun u sc => u.idents[sc.1])
      (g := fun _ i => i.unwaited) (inv := fun _ => True) (fun _ _ h => h) (fun u sc i _ => ?_) trivial j
    simp only [hidents, upd_read]
  case cells =>
    refine aborts_foldl (f := fun s sc => completeReads sc .aborted false s) (cells := fun u sc => u.idents[sc.1].waiting)
      (fun u sc => (abortReads_spec u sc).2) (fun u sc i h => ?_) (List.nodup_finRange 6) s
    simp only [hidents, upd_ne _ _ _ _ h.symm]

theorem pendingsAborted_spec (s : State) :
    IdentityWork s ((ids 16).foldl abortPending s) ∧ ((ids 16).foldl abortPending s).idents = s.idents ∧
      (∀ h : HeadId, ((ids 16).foldl abortPending s).served[h.1] = s.served[h.1].unpended) ∧
      Aborts ((ids 16).flatMap (pendingCell s)) s ((ids 16).foldl abortPending s) := by
  have hserved (u : State) (h : HeadId) := (abortPending_spec u h).1
  refine ⟨identityWork_foldl (fun u h => (abortPending_spec u h).2.2.1) _ s,
    foldl_frame State.idents (fun u h => (abortPending_spec u h).2.1) _ s, fun j => ?served, ?cells⟩
  case served =>
    refine foldl_ids_record (f := abortPending) (get := fun u h => u.served[h.1]) (g := fun _ v => v.unpended) (inv := fun _ => True)
      (fun _ _ h => h) (fun u h i _ => ?_) trivial j
    simp only [hserved, upd_read]
  case cells =>
    refine aborts_foldl (fun u h => (abortPending_spec u h).2.2.2) (fun u h i hne => ?_) (List.nodup_finRange 16) s
    unfold pendingCell
    simp only [hserved, upd_ne _ _ _ _ hne.symm]

theorem servingsAborted_spec (s : State) :
    IdentityWork s ((ids 16).foldl abortServing s) ∧ ((ids 16).foldl abortServing s).idents = s.idents ∧
      (∀ h : HeadId, ((ids 16).foldl abortServing s).served[h.1] = s.served[h.1].uncelled) ∧
      Aborts ((ids 16).flatMap (servingCells s)) s ((ids 16).foldl abortServing s) := by
  have hserved (u : State) (h : HeadId) := (abortServing_spec u h).1
  refine ⟨identityWork_foldl (fun u h => (abortServing_spec u h).2.2.1) _ s,
    foldl_frame State.idents (fun u h => (abortServing_spec u h).2.1) _ s, fun j => ?served, ?cells⟩
  case served =>
    refine foldl_ids_record (f := abortServing) (get := fun u h => u.served[h.1]) (g := fun _ v => v.uncelled) (inv := fun _ => True)
      (fun _ _ h => h) (fun u h i _ => ?_) trivial j
    simp only [hserved, upd_read]
  case cells =>
    refine aborts_foldl (fun u h => (abortServing_spec u h).2.2.2) (fun u h i hne => ?_) (List.nodup_finRange 16) s
    unfold servingCells
    simp only [hserved, upd_ne _ _ _ _ hne.symm]

theorem restartIdentity_spec (s : State) : IdentityRestarted s (restartIdentity s) := by
  obtain ⟨hwork, hidents, hserved, hcells⟩ := readsAborted_spec s
  obtain ⟨hwork', hidents', hserved', hcells'⟩ := pendingsAborted_spec (readsAborted s)
  obtain ⟨hwork'', hidents'', hserved'', hcells''⟩ := servingsAborted_spec ((ids 16).foldl abortPending (readsAborted s))
  have hpending : pendingCell (readsAborted s) = pendingCell s := by
    funext h
    unfold pendingCell
    rw [hserved]
  have hserving : servingCells ((ids 16).foldl abortPending (readsAborted s)) = servingCells s := by
    funext h
    unfold servingCells
    simp only [hserved', hserved]
    rfl
  rw [hpending] at hcells'
  rw [hserving] at hcells''
  rw [restartIdentity_eq]
  refine ⟨(hwork.trans hwork').trans hwork'', fun sc => ?_, fun h => ?_, (hcells.append hcells').append hcells''⟩
  · simp only [hidents'', hidents', hidents]
  · simp only [hserved'', hserved', hserved]

end Sys2Proof.Machine
end

section
/-! PROOFS. The steps of a restart that clear the desk, focus, the queues and the cursor (R10, R22, R28, R51, R88). -/

namespace Sys2Proof.Machine

open Sys2Proof

/-! ## Step 4: the desk (R10, R88) -/

/-- The desk input unit as a restart leaves it. -/
def DeskInput.restarted (d : DeskInput) (now : Nat) : DeskInput :=
  { lines := d.lines.map fun l => { l with
      cls := .silent, lastKeys := Keys.empty, rollover := false, buttons := 0, resetUntil := some (now + 10000) }
    keys := Keys.empty
    merged := 0 }

/-- What step 4 of a restart leaves. -/
structure DeskRestarted (s t : State) : Prop where
  only : t = { s with desk := s.desk.restarted s.now, hot := { s.hot with state := .idle }, xm := t.xm }
  kept : Kept { s with desk := t.desk, hot := t.hot } t
  cells : SameCells s t

theorem kept_modHot {s t : State} (h : Kept s t) (f : Hotkeys → Hotkeys) : Kept (modHot f s) (modHot f t) := by
  have houter : (modHot f t).outer = (modHot f s).outer := by
    have ho := h.outer
    simp only [State.outer, Prod.mk.injEq] at ho
    simp [State.outer, ho]
  exact ⟨houter, h.screens, h.lines, h.canonical, h.above, h.cells, h.inWork, h.residuals, h.done⟩

theorem kept_foldl_state {α : Type} {f : State → α → State} (hf : ∀ s a, Kept s (f s a)) (l : List α) (s : State) : Kept s (l.foldl f s) :=
  kept_foldl f hf l s

theorem kept_noticeLines (s : State) : Kept s (noticeLines s) := kept_foldl_state (fun s l => kept_notice (.line l) s) (ids 4) s

theorem sameCells_noticeLines (s : State) : SameCells s (noticeLines s) := sameCells_foldl (fun s l => sameCells_notice (.line l) s) (ids 4) s

/-- The state whose desk input unit a restart has cleared, before its notices. -/
def deskCleared (s : State) : State := { s with desk := s.desk.restarted s.now }

theorem restartDesk_eq (s : State) : restartDesk s = setMatcher .idle (noticeLines (deskCleared s)) := by
  have hlines : ((s.desk.lines.map fun r => ({ r with cls := .silent, lastKeys := Keys.empty, rollover := false, buttons := 0 } : DeskLine)).map
      fun r => { r with resetUntil := some (s.now + Config.lineReset) }) = (s.desk.restarted s.now).lines := Vector.map_map
  have hcleared : driveLineResets { s with desk := { lines := s.desk.lines.map fun r =>
      ({ r with cls := .silent, lastKeys := Keys.empty, rollover := false, buttons := 0 } : DeskLine), keys := Keys.empty, merged := 0 } } =
      deskCleared s := by
    unfold driveLineResets deskCleared
    dsimp only
    rw [hlines]
    rfl
  unfold restartDesk
  dsimp only
  rw [hcleared]

theorem restartDesk_spec (s : State) : DeskRestarted s (restartDesk s) := by
  have honly := (rewritten_noticeLines (deskCleared s)).only
  have hkept := kept_modHot (kept_noticeLines (deskCleared s)) fun h => { h with state := .idle }
  have hcells : SameCells s (noticeLines (deskCleared s)) := SameCells.trans (t := deskCleared s) (sameCells_of_xm rfl) (sameCells_noticeLines _)
  rw [restartDesk_eq]
  generalize noticeLines (deskCleared s) = v at *
  have hvdesk : v.desk = (deskCleared s).desk := by rw [honly]
  have hvhot : v.hot = s.hot := by
    rw [honly]
    rfl
  refine ⟨?_, ?_, hcells.trans (sameCells_of_xm rfl)⟩
  · rw [honly]
    rfl
  · show Kept { s with desk := v.desk, hot := { v.hot with state := .idle } } (setMatcher .idle v)
    rw [hvdesk, hvhot]
    exact hkept

/-! ## Step 5: focus (R51, R54) -/

/-- `t` is `s` but for the target lines, the exchange port, focus and the panel, no resume signal having changed. -/
structure OnlyFocus (s t : State) : Prop where
  only : t = { s with tlines := t.tlines, xm := t.xm, focus := t.focus, panel := t.panel }
  resume : ∀ k : TargetId, t.tlines[k.1].resumeUntil = s.tlines[k.1].resumeUntil

theorem OnlyFocus.trans {s t u : State} (h : OnlyFocus s t) (g : OnlyFocus t u) : OnlyFocus s u := by
  refine ⟨?_, fun k => (g.resume k).trans (h.resume k)⟩
  rw [g.only, h.only]

theorem OnlyFocus.refl (s : State) : OnlyFocus s s := ⟨rfl, fun _ => rfl⟩

theorem handIn_resume (k : TargetId) (r : Report) (o : Origin) (s : State) (j : TargetId) :
    (handIn k r o s).tlines[j.1].resumeUntil = s.tlines[j.1].resumeUntil := by
  obtain h | ⟨-, -, h⟩ := handIn_cases k r o s
  · rw [h]
  · simp only [h, upd_read]
    split
    next hj =>
      subst hj
      rfl
    next => rfl

theorem handIn_rest (k : TargetId) (r : Report) (o : Origin) (s : State) :
    OnlyFocus s (handIn k r o s) ∧ (handIn k r o s).focus = s.focus ∧ SameCells s (handIn k r o s) := by
  have hmod : SameCells s (modTLine k (fun l => l.join { report := r, origin := o }) s) := sameCells_of_xm rfl
  have hrest : handIn k r o s = { s with tlines := (handIn k r o s).tlines, xm := (handIn k r o s).xm } ∧ SameCells s (handIn k r o s) := by
    unfold handIn
    dsimp only
    split
    · split
      · exact ⟨rfl, hmod⟩
      · exact ⟨rfl, hmod.trans (sameCells_noticeOf _ _)⟩
    · exact ⟨rfl, .refl s⟩
  obtain ⟨honly, hcells⟩ := hrest
  refine ⟨⟨?_, handIn_resume k r o s⟩, ?_, hcells⟩
  · rw [honly]
  · rw [honly]

theorem releasePair_rest (k : TargetId) (s : State) :
    OnlyFocus s (releasePair k s) ∧ (releasePair k s).focus = s.focus ∧ SameCells s (releasePair k s) := by
  obtain ⟨honly, hfocus, hcells⟩ := handIn_rest k (.keys Keys.empty) .release s
  unfold releasePair
  dsimp only
  obtain ⟨honly', hfocus', hcells'⟩ := handIn_rest k (.point 0 s.cur.lastAbs[k.1].1 s.cur.lastAbs[k.1].2 0) .release
    (handIn k (.keys Keys.empty) .release s)
  exact ⟨honly.trans honly', hfocus'.trans hfocus, hcells.trans hcells'⟩

/-- The focus controller as a restart leaves it. -/
def Focus.restarted (f : Focus) : Focus :=
  { f with
    st := .nobody, waiting := [], wakeOut := false, bringOut := none, masked := Keys.empty,
    previous := f.st.target.orElse fun _ => f.previous,
    count := if f.st.target.isSome then f.count + 1 else f.count,
    source := if f.st.target.isSome then some .restart else f.source }

/-- What step 5 of a restart leaves. -/
structure FocusRestarted (s t : State) : Prop where
  only : OnlyFocus s t
  kept : Kept s t
  focus : t.focus = s.focus.restarted
  cells : Aborts s.focus.waiting s t

/-- The release pair given to the target that focus is on, if any. -/
def focusReleased (s : State) : State :=
  match s.focus.st.target with
  | some t => releasePair t s
  | none => s

theorem focusReleased_rest (s : State) :
    OnlyFocus s (focusReleased s) ∧ (focusReleased s).focus = s.focus ∧ SameCells s (focusReleased s) := by
  unfold focusReleased
  split
  · exact releasePair_rest _ s
  · exact ⟨.refl s, rfl, .refl s⟩

/-- The record of focus after the restart, as the model writes it for what focus was on. -/
def Focus.dropped (a : Option TargetId) (f : Focus) : Focus :=
  { f with
    waiting := [],
    previous := match a with
      | some t => some t
      | none => f.previous,
    st := .nobody, wakeOut := false, bringOut := none, masked := Keys.empty,
    count := if a.isSome then f.count + 1 else f.count,
    source := if a.isSome then some .restart else f.source }

theorem Focus.dropped_target (f : Focus) : f.dropped f.st.target = f.restarted := by
  unfold Focus.dropped Focus.restarted
  cases f.st.target with
  | none => rfl
  | some t => rfl

/-- The cells that wait for focus ABORTED. -/
def focusCellsAborted (s : State) : State := completeAll (focusReleased s).focus.waiting .aborted focusData (focusReleased s)

theorem restartFocus_eq (s : State) :
    restartFocus s = focusToPanel (modFocus (Focus.dropped s.focus.st.target) (focusCellsAborted s)) := rfl

theorem onlyFocus_panelReport (f : Panel → Panel) (s : State) : OnlyFocus s (panelReport f s) := by
  unfold panelReport
  dsimp only
  split
  · exact ⟨rfl, fun _ => rfl⟩
  · exact ⟨rfl, fun _ => rfl⟩

theorem onlyFocus_of_xm {s t : State} (h : t = { s with xm := t.xm }) : OnlyFocus s t := by
  rw [h]
  exact ⟨rfl, fun _ => rfl⟩

theorem focusCellsAborted_rest (s : State) :
    OnlyFocus s (focusCellsAborted s) ∧ (focusCellsAborted s).focus = s.focus ∧ Aborts s.focus.waiting s (focusCellsAborted s) := by
  obtain ⟨hreleased, hfocus, hcells⟩ := focusReleased_rest s
  have haborts := aborts_completeAll (focusReleased s).focus.waiting focusData (focusReleased s)
  refine ⟨hreleased.trans (onlyFocus_of_xm (completeAll_only ..)), (completeAll_focus ..).trans hfocus, ?_⟩
  exact (Aborts.after_same hcells haborts).congr fun d => by rw [hfocus]

theorem restartFocus_spec (s : State) : FocusRestarted s (restartFocus s) := by
  obtain ⟨honly, hfocus, hcells⟩ := focusCellsAborted_rest s
  have hkept := kept_restartFocus s
  rw [restartFocus_eq] at *
  generalize focusCellsAborted s = v at *
  have hmod : OnlyFocus v (modFocus (Focus.dropped s.focus.st.target) v) := ⟨rfl, fun _ => rfl⟩
  refine ⟨(honly.trans hmod).trans (onlyFocus_panelReport _ _), hkept, ?_,
    Aborts.then_same (t := modFocus (Focus.dropped s.focus.st.target) v) (hcells.then_same (sameCells_of_xm rfl))
      (sameCells_panelReport _ _)⟩
  have hreport : (focusToPanel (modFocus (Focus.dropped s.focus.st.target) v)).focus = v.focus.dropped s.focus.st.target :=
    (panelReport_rest _ _).2.1
  rw [hreport, hfocus, Focus.dropped_target]

/-! ## Step 6: the queues (R22) -/

theorem TargetLine.releaseFlush_eq (l : TargetLine) :
    l.releaseFlush = { l with
      queue := l.queue.filter fun e => decide (e.origin = .release),
      lastSent := (newestKeys (l.queue.filter fun e => decide (e.origin = .release))).getD (match l.inTx with
        | some (.keys keys) => keys
        | _ => l.onLine) } := by
  unfold TargetLine.releaseFlush
  dsimp only
  cases newestKeys (l.queue.filter fun e => decide (e.origin = .release)) with
  | some k => rfl
  | none => rfl

theorem restartQueues_tlines (s : State) (k : TargetId) :
    (restartQueues s).tlines[k.1] = if k.1 < s.straps.targets then s.tlines[k.1].releaseFlush else s.tlines[k.1] := by
  refine (mapVec_get _ _ _).trans ?_
  exact if_congr (fittedTarget_iff s k) rfl rfl

end Sys2Proof.Machine
end

section
/-! PROOFS. The last steps of a restart: the cursor and the notices (R28, R46, R181). -/

namespace Sys2Proof.Machine

open Sys2Proof

/-! ## Step 7: the cursor (R28) -/

/-- The cursor still, and no button held. -/
def cursorStilled (s : State) : State :=
  { s with cur := { s.cur with cursor := s.cur.cursor.still, deskButtons := 0, lastButtons := Vector.replicate 8 0 } }

theorem centreCursor_of_some {s : State} {sc : ScreenId} (h : s.lowestEnabled = some sc) : centreCursor s = centreOn sc (cursorStilled s) := by
  have hstilled : (cursorStilled s).lowestEnabled = some sc := h
  show (match (cursorStilled s).lowestEnabled with
    | some sc => centreOn sc (cursorStilled s)
    | none => modCursor (fun c => { c with screen := none }) (cursorStilled s)) = _
  rw [hstilled]

theorem centreCursor_of_none {s : State} (h : s.lowestEnabled = none) :
    centreCursor s = modCursor (fun c => { c with screen := none }) (cursorStilled s) := by
  have hstilled : (cursorStilled s).lowestEnabled = none := h
  show (match (cursorStilled s).lowestEnabled with
    | some sc => centreOn sc (cursorStilled s)
    | none => modCursor (fun c => { c with screen := none }) (cursorStilled s)) = _
  rw [hstilled]

/-- Screen `sc` is the lowest-numbered enabled one. -/
def State.Lowest (s : State) (sc : ScreenId) : Prop := s.cur.geo[sc.1].enabled = true ∧ ∀ j < sc, s.cur.geo[j.1].enabled = false

theorem lowestEnabled_of {s : State} {sc : ScreenId} (h : s.Lowest sc) : s.lowestEnabled = some sc :=
  find_ids_eq_some h.1 fun j hj => by rw [h.2 j hj]; nofun

theorem lowestEnabled_none {s : State} (h : ∀ sc : ScreenId, s.cur.geo[sc.1].enabled = false) : s.lowestEnabled = none :=
  find_ids_eq_none fun sc => by rw [h sc]; nofun

/-- A point of an enabled screen that no screen before it holds lies in one of that screen's tiles. -/
theorem locate_in_screen {s : State} {sc : ScreenId} {x y : Nat} (hen : s.cur.geo[sc.1].enabled = true)
    (hin : s.cur.geo[sc.1].rect.contains x y = true)
    (hlt : ∀ j < sc, s.cur.geo[j.1].enabled = true → s.cur.geo[j.1].rect.contains x y = false) :
    ∃ i a, s.locate x y = some (sc, i) ∧ s.tileRect sc i = some a ∧ a.contains x y = true := by
  rw [Rect.contains_iff] at hin
  simp only [Placement.rect] at hin
  obtain ⟨i, q, hq, hqin, -⟩ := exists_unique_tile_contains s.comp.screens[sc.1].active.layout
    (x := x - s.cur.geo[sc.1].x) (y := y - s.cur.geo[sc.1].y) (W := s.cur.geo[sc.1].w) (H := s.cur.geo[sc.1].h) (by omega) (by omega)
  have hrect : s.tileRect sc i = some { q with x := s.cur.geo[sc.1].x + q.x, y := s.cur.geo[sc.1].y + q.y } := by
    rw [State.tileRect, hq]
    rfl
  have hcontains : ({ q with x := s.cur.geo[sc.1].x + q.x, y := s.cur.geo[sc.1].y + q.y } : Rect).contains x y = true := by
    rw [Rect.contains_iff] at hqin ⊢
    dsimp only
    omega
  obtain ⟨k, hk⟩ := Option.isSome_iff_exists.1 (List.find?_isSome.2 ⟨i, mem_ids i, holdsPoint_iff.2 ⟨_, hrect, hcontains⟩⟩)
  obtain ⟨a, ha, hain⟩ := holdsPoint_iff.1 (List.find?_some hk)
  refine ⟨k, a, ?_, ha, hain⟩
  rw [locate_eq]
  refine findSome_ids_eq_some (i := sc) ?_ fun j hj => ?_
  · rw [if_pos (by rw [hen, rect_contains_of_tileRect ha hain]; rfl), hk]
    rfl
  · cases hj' : s.cur.geo[j.1].enabled with
    | false => rfl
    | true =>
      rw [hlt j hj hj']
      rfl

/-- The centre of the lowest-numbered enabled screen lies in one of its tiles. -/
theorem locate_centre {s : State} {sc : ScreenId} (h : s.Lowest sc) (hw : 0 < s.cur.geo[sc.1].w) (hh : 0 < s.cur.geo[sc.1].h) :
    ∃ i a, s.locate (s.cur.geo[sc.1].rect.centre.1 : Nat) (s.cur.geo[sc.1].rect.centre.2 : Nat) = some (sc, i) ∧
      s.tileRect sc i = some a ∧ a.contains (s.cur.geo[sc.1].rect.centre.1 : Nat) (s.cur.geo[sc.1].rect.centre.2 : Nat) = true := by
  obtain ⟨hen, hlt⟩ := h
  refine locate_in_screen hen ?_ fun j hj hj' => ?_
  · rw [Rect.contains_iff]
    simp only [Rect.centre, Placement.rect]
    omega
  · rw [hlt j hj] at hj'
    cases hj'

/-- What the centring of the cursor leaves. -/
structure CursorCentred (s t : State) : Prop where
  only : t = { s with cur := { s.cur with cursor := t.cur.cursor, deskButtons := 0, lastButtons := Vector.replicate 8 0 } }
  still : t.cur.cursor.rx = 0 ∧ t.cur.cursor.ry = 0 ∧ t.cur.cursor.dwell = .clear
  centre : ∀ sc : ScreenId, s.Lowest sc →
    t.cur.cursor.x = s.cur.geo[sc.1].x + s.cur.geo[sc.1].w / 2 ∧ t.cur.cursor.y = s.cur.geo[sc.1].y + s.cur.geo[sc.1].h / 2 ∧
      (0 < s.cur.geo[sc.1].w → 0 < s.cur.geo[sc.1].h →
        t.cur.cursor.screen = some sc ∧
          ∃ a, s.tileRect sc t.cur.cursor.tile = some a ∧ a.contains t.cur.cursor.x t.cur.cursor.y = true)
  nowhere : (∀ sc : ScreenId, s.cur.geo[sc.1].enabled = false) →
    t.cur.cursor = { s.cur.cursor with rx := 0, ry := 0, dwell := .clear, screen := none }

/-- The cursor at a point, before it is located. -/
def cursorAt (p : Nat × Nat) (s : State) : State := modCursor (fun c => { c with x := p.1, y := p.2 }) (cursorStilled s)

theorem relocate_cases (s : State) :
    (∃ sc i, s.underCursor = some (sc, i) ∧ relocate s = modCursor (fun c => { c with screen := some sc, tile := i }) s) ∨
      s.underCursor = none ∧ relocate s = s := by
  cases h : s.underCursor with
  | none => exact .inr ⟨rfl, relocate_of_unlocated h⟩
  | some p => exact .inl ⟨p.1, p.2, rfl, relocate_of_located h⟩

theorem cursorAt_relocated (p : Nat × Nat) (s : State) :
    relocate (cursorAt p s) = { s with cur := { s.cur with
      cursor := (relocate (cursorAt p s)).cur.cursor, deskButtons := 0, lastButtons := Vector.replicate 8 0 } } ∧
    (relocate (cursorAt p s)).cur.cursor.rx = 0 ∧ (relocate (cursorAt p s)).cur.cursor.ry = 0 ∧
      (relocate (cursorAt p s)).cur.cursor.dwell = .clear ∧ (relocate (cursorAt p s)).cur.cursor.x = p.1 ∧
      (relocate (cursorAt p s)).cur.cursor.y = p.2 := by
  obtain ⟨sc, i, -, h⟩ | ⟨-, h⟩ := relocate_cases (cursorAt p s)
  · rw [h]
    exact ⟨rfl, rfl, rfl, rfl, rfl, rfl⟩
  · rw [h]
    exact ⟨rfl, rfl, rfl, rfl, rfl, rfl⟩

theorem centreCursor_spec (s : State) : CursorCentred s (centreCursor s) := by
  cases h : s.lowestEnabled with
  | none =>
    rw [centreCursor_of_none h]
    refine ⟨rfl, ⟨rfl, rfl, rfl⟩, fun sc hsc => ?_, fun _ => rfl⟩
    rw [lowestEnabled_of hsc] at h
    cases h
  | some sc =>
    have heq : centreCursor s = relocate (cursorAt s.cur.geo[sc.1].rect.centre s) := centreCursor_of_some h
    obtain ⟨honly, hrx, hry, hdwell, hx, hy⟩ := cursorAt_relocated s.cur.geo[sc.1].rect.centre s
    rw [← heq] at honly hrx hry hdwell hx hy
    refine ⟨honly, ⟨hrx, hry, hdwell⟩, fun j hj => ?centre, fun hnone => ?nowhere⟩
    case centre =>
      rw [lowestEnabled_of hj] at h
      obtain rfl := Option.some.inj h
      refine ⟨hx, hy, fun hw hh => ?_⟩
      obtain ⟨i, a, hlocated, ha, hain⟩ := locate_centre hj hw hh
      have hunder : (cursorAt s.cur.geo[j.1].rect.centre s).underCursor = some (j, i) := hlocated
      rw [heq, relocate_of_located hunder]
      exact ⟨rfl, a, ha, hain⟩
    case nowhere =>
      rw [lowestEnabled_none hnone] at h
      cases h

theorem restartCursor_of_focused {s : State} {t : TargetId} (h : s.focus.st = .focused t) :
    restartCursor s = (placeCursor t (centreCursor s)).2 := by
  have hfocus : (centreCursor s).focus.st = .focused t := by
    rw [(centreCursor_spec s).only]
    exact h
  unfold restartCursor
  dsimp only
  rw [hfocus]

theorem restartCursor_of_unfocused {s : State} (h : ∀ t, s.focus.st ≠ .focused t) : restartCursor s = centreCursor s := by
  have hfocus : (centreCursor s).focus.st = s.focus.st := by rw [(centreCursor_spec s).only]
  unfold restartCursor
  dsimp only
  rw [hfocus]
  cases hst : s.focus.st with
  | focused t => exact absurd hst (h t)
  | nobody | pending t => rfl

theorem findHead_some {s : State} {h : HeadId} {sc : ScreenId} {i : Fin 4} (hf : s.findHead h = some (sc, i)) :
    s.tileSource sc i = some h ∧ ∃ a, s.tileRect sc i = some a := by
  unfold State.findHead at hf
  obtain ⟨c, -, hc⟩ := List.exists_of_findSome?_eq_some hf
  rw [Option.ite_none_right_eq_some, Option.map_eq_some_iff] at hc
  obtain ⟨-, j, hj, hpair⟩ := hc
  obtain ⟨rfl, rfl⟩ := Prod.mk.injEq .. ▸ hpair
  have hshown := List.find?_some hj
  rw [Bool.and_eq_true, decide_eq_true_eq, Option.isSome_iff_exists] at hshown
  exact hshown

theorem placementTile_some {s : State} {k : TargetId} {sc : ScreenId} {i : Fin 4} (h : s.placementTile k = some (sc, i)) :
    s.tileTarget sc i = some k ∧ ∃ a, s.tileRect sc i = some a := by
  have htarget {x : HeadId} (hx : headTarget x = k) (hf : s.findHead x = some (sc, i)) :
      s.tileTarget sc i = some k ∧ ∃ a, s.tileRect sc i = some a := by
    obtain ⟨hsource, hrect⟩ := findHead_some hf
    exact ⟨by rw [State.tileTarget, hsource, Option.map_some, hx], hrect⟩
  unfold State.placementTile at h
  split at h
  next p hp =>
    rw [h] at hp
    exact htarget (Fin.ext (by simp only [headTarget, headAOf]; omega)) hp
  next => exact htarget (Fin.ext (by simp only [headTarget, headBOf]; omega)) h

/-! ## Step 8: the notices (R181) -/

/-- What step 8 of a restart leaves. -/
structure NoticesRestarted (s t : State) : Prop where
  only : t = { s with xm := { s.xm with mem := t.xm.mem, revision := t.xm.revision, given := s.gives } }
  summary : ∀ g < 22, t.xm.mem.read (0x0400 + g) = 1
  shows : ∀ m : Mirror, Shows m (s.xm.revision[m.index.1] + 1) (mirrorFields t m) t
  outside : ∀ a, a < 0x0400 ∨ 0x0416 ≤ a → (∀ m : Mirror, a < m.base ∨ m.base + m.size ≤ a) → t.xm.mem.read a = s.xm.mem.read a

/-- The state with every mirror rewritten from its owners' state. -/
def mirrorsRewritten (s : State) : State := allMirrors.foldl (fun s m => rewriteMirror m s) (giveAll s)

theorem mirrorsRewritten_rewritten (s : State) : Rewritten allMirrors (giveAll s) (mirrorsRewritten s) :=
  rewritten_foldl rewritten_rewriteMirror allMirrors_nodup _

theorem restartNotices_spec (s : State) : NoticesRestarted s (restartNotices s) := by
  have hrewritten := mirrorsRewritten_rewritten s
  have heq : restartNotices s = writeMem 0x0400 (List.replicate 22 1) (mirrorsRewritten s) := rfl
  rw [heq]
  generalize mirrorsRewritten s = v at *
  have hread (a : Nat) : (writeMem 0x0400 (List.replicate 22 1) v).xm.mem.read a =
      if 0x0400 ≤ a ∧ a < 0x0416 then 1 else v.xm.mem.read a := by
    refine (Memory.read_write v.xm.mem 0x0400 (List.replicate 22 1) a).trans ?_
    rw [List.length_replicate]
    split
    case isTrue h => rw [List.getD_eq_getElem _ _ (by rw [List.length_replicate]; omega), List.getElem_replicate]
    case isFalse => rfl
  have hsame (m : Mirror) : SameMirror m v (writeMem 0x0400 (List.replicate 22 1) v) := by
    obtain ⟨-, hbase, -⟩ := m.fits
    exact ⟨rfl, fun a ha _ => by rw [hread, if_neg (by omega)]⟩
  have honly : writeMem 0x0400 (List.replicate 22 1) v = { s with xm := { s.xm with
      mem := (writeMem 0x0400 (List.replicate 22 1) v).xm.mem, revision := v.xm.revision, given := s.gives } } := by
    unfold writeMem
    rw [hrewritten.only]
    rfl
  refine ⟨honly, fun g hg => by rw [hread, if_pos (by omega)], fun m => ?shows, fun a ha hm => ?outside⟩
  case shows =>
    have hfields : mirrorFields (writeMem 0x0400 (List.replicate 22 1) v) m = mirrorFields (giveAll s) m := by
      rw [← hrewritten.fields m]
      cases m with
      | focus | cursor | hotkey | panel | target | screen | line => rfl
    rw [hfields]
    exact (hrewritten.shows m (mem_allMirrors m)).same (hsame m)
  case outside =>
    rw [hread, if_neg (by omega)]
    exact hrewritten.outside a ha fun m _ => hm m

end Sys2Proof.Machine
end

section
/-! PROOFS. One step of a restart as an action of the part's own (R185). -/

namespace Sys2Proof.Machine

open Sys2Proof

/-! ## The run state beside the work of a step -/

/-- The state with this run state. -/
def withRun (r : RunState) (s : State) : State := { s with runState := r }

theorem kept_withRun {s t : State} (h : Kept s t) (r : RunState) : Kept (withRun r s) (withRun r t) := by
  have houter : (withRun r t).outer = (withRun r s).outer := by
    have ho := h.outer
    simp only [State.outer, Prod.mk.injEq] at ho
    simp [State.outer, withRun, ho]
  exact ⟨houter, h.screens, h.lines, h.canonical, h.above, h.cells, h.inWork, h.residuals, h.done⟩

theorem sameCells_withRun (r : RunState) (s : State) : SameCells s (withRun r s) := sameCells_of_xm rfl

/-! ## The steps by number -/

section
variable (s : State)

theorem restartWork_wakes : restartWork 0 s = restartWakes s := rfl
theorem restartWork_staged : restartWork 1 s = discardStaged s := rfl
theorem restartWork_identity : restartWork 2 s = restartIdentity s := rfl
theorem restartWork_desk_step : restartWork 3 s = restartDesk s := rfl
theorem restartWork_focus : restartWork 4 s = restartFocus s := rfl
theorem restartWork_queues : restartWork 5 s = restartQueues s := rfl
theorem restartWork_cursor : restartWork 6 s = restartCursor s := rfl
theorem restartWork_notices : restartWork 7 s = restartNotices s := rfl

/-- What the placing of the cursor for a target does. -/
theorem placeCursor_cases (k : TargetId) (s : State) :
    (placeCursor k s).2 = s ∨ s.cursorOn k = false ∧ ∃ sc i q, s.placementTile k = some (sc, i) ∧ s.tileTarget sc i = some k ∧
      s.tileRect sc i = some q ∧ (placeCursor k s).2 = rewriteMirror .cursor (modCursor (fun c => { c with
        x := q.x + q.w / 2, y := q.y + q.h / 2, rx := 0, ry := 0, screen := some sc, tile := i, dwell := .clear }) s) := by
  cases hon : s.cursorOn k with
  | true => exact .inl (by rw [placeCursor_of_on hon])
  | false =>
    cases hp : s.placementTile k with
    | none => exact .inl (by rw [placeCursor_of_none hon hp])
    | some p =>
      obtain ⟨htarget, q, hq⟩ := placementTile_some hp
      exact .inr ⟨rfl, p.1, p.2, q, rfl, htarget, hq, by rw [placeCursor_of_tile hon hp hq]⟩

theorem placeCursor_focus (k : TargetId) : (placeCursor k s).2.focus = s.focus := by
  obtain h | ⟨-, sc, i, q, -, -, -, h⟩ := placeCursor_cases k s
  · rw [h]
  · rw [h]
    rfl

theorem restartCursor_focus : (restartCursor s).focus = s.focus := by
  have hcentred : (centreCursor s).focus = s.focus := by rw [(centreCursor_spec s).only]
  cases h : s.focus.st with
  | focused t => rw [restartCursor_of_focused h, placeCursor_focus, hcentred]
  | nobody | pending t => rw [restartCursor_of_unfocused (by rw [h]; nofun), hcentred]
end

/-- The step leaves what the focus controller has to take. -/
theorem restartWork_inbox (k : Fin 9) (s : State) : (restartWork k s).focus.inbox = s.focus.inbox := by
  match k with
  | 0 => rw [restartWork_wakes, (restartWakes_spec s).only]
  | 1 => rw [restartWork_staged, (discardStaged_spec s).only]
  | 2 => rw [restartWork_identity, (restartIdentity_spec s).work.only]
  | 3 => rw [restartWork_desk_step, (restartDesk_spec s).only]
  | 4 =>
    rw [restartWork_focus, (restartFocus_spec s).focus]
    rfl
  | 5 => rfl
  | 6 => rw [restartWork_cursor, restartCursor_focus]
  | 7 => rw [restartWork_notices, (restartNotices_spec s).only]
  | 8 => rfl

/-- The steps in their order. -/
theorem restartWork_getElem? (k : Fin 9) (hk : k.1 < 8) :
    [restartWakes, discardStaged, restartIdentity, restartDesk, restartFocus, restartQueues, restartCursor, restartNotices][k.1]? =
      some (restartWork k) := by
  match k with
  | 0 | 1 | 2 | 3 | 4 | 5 | 6 | 7 => rfl
  | 8 => omega

theorem restartStep_early {c : CellId} {k : Fin 9} (s : State) (hk : k.1 < 8) :
    restartStep c k s = withRun (.restarting c ⟨k.1 + 1, by omega⟩) (restartWork k s) := by
  have hnext : (k + 1 : Fin 9) = ⟨k.1 + 1, by omega⟩ := Fin.ext (Fin.val_add_one_of_lt' (by omega))
  rw [restartStep, if_neg (by omega), hnext]
  rfl

/-- One of a restart's first eight steps, as an action of the part's own. -/
theorem tick_step {s : State} {c : CellId} {k : Fin 9} (hs : s.live) (hr : s.runState = .restarting c k) (hk : k.1 < 8) :
    tick s = withRun (.restarting c ⟨k.1 + 1, by omega⟩) (restartWork k s) := by
  rw [tick_restarting hr, restartStep_early s hk]
  exact settle_of_empty _ ((restartWork_inbox k s).trans hs.2)

/-- A restart's ninth step. -/
theorem tick_last {s : State} {c : CellId} (hs : s.live) (hr : s.runState = .restarting c 8) :
    tick s = { complete c .ok [] s with
      runState := .running
      xm := { (complete c .ok [] s).xm with
        pendingSweep := false
        sweepState := if s.xm.pendingSweep then .sweeping 0 else .idle
        sweepCount := if s.xm.pendingSweep then s.xm.sweepCount + 1 else s.xm.sweepCount } } := by
  have hkept := kept_complete c .ok [] s
  have hstep : restartStep c 8 s = startPending { complete c .ok [] s with runState := .running } := rfl
  have hinbox : (complete c .ok [] s).focus.inbox = [] := by
    rw [complete_focus]
    exact hs.2
  rw [tick_restarting hr, hstep, startPending_eq, ← hkept.pendingSweep, ← hkept.sweepCount]
  exact settle_of_empty _ hinbox

/-! ## What each step keeps -/

theorem kept_restartIdentity (s : State) :
    Kept { s with idents := (restartIdentity s).idents, served := (restartIdentity s).served } (restartIdentity s) := by
  obtain ⟨⟨honly, habove, hcells, hinWork⟩, -, -, haborts⟩ := restartIdentity_spec s
  have hcanonical := (lawful_restartIdentity s).canonical
  generalize restartIdentity s = t at *
  refine ⟨?outer, fun c => ?screens, fun k => ?lines, hcanonical, habove, hcells, hinWork, fun h => ?residuals, fun c hc ht => ?done⟩
  case outer =>
    rw [honly]
    rfl
  case screens =>
    rw [show t.comp = s.comp by rw [honly]]
    exact .refl _
  case lines =>
    rw [show t.tlines = s.tlines by rw [honly]]
    exact .refl _
  case residuals =>
    rw [honly]
    exact h
  case done =>
    rw [haborts.entry] at ht
    exact (haborts.aborted c (by_contra fun hmem => hc ((if_neg hmem).symm.trans ht)) hc).1

end Sys2Proof.Machine
end

section
/-! PROOFS. What each step of a restart makes of the state (R185). -/

namespace Sys2Proof.Machine

open Sys2Proof

/-! ## Step 7 and the focus target -/

section
variable {s : State} {t : TargetId}

theorem placementTile_centreCursor (s : State) (t : TargetId) : (centreCursor s).placementTile t = s.placementTile t := by
  rw [(centreCursor_spec s).only]
  rfl

theorem tileTarget_centreCursor (s : State) (sc : ScreenId) (i : Fin 4) : (centreCursor s).tileTarget sc i = s.tileTarget sc i := by
  rw [(centreCursor_spec s).only]
  rfl

theorem tileRect_centreCursor (s : State) (sc : ScreenId) (i : Fin 4) : (centreCursor s).tileRect sc i = s.tileRect sc i := by
  rw [(centreCursor_spec s).only]
  rfl

theorem restartCursor_of_on (h : ∀ t, s.focus.st = .focused t → (centreCursor s).cursorOn t = true) :
    restartCursor s = centreCursor s := by
  by_cases hf : ∃ t, s.focus.st = .focused t
  · obtain ⟨t, ht⟩ := hf
    rw [restartCursor_of_focused ht, placeCursor_of_on (h t ht)]
  · exact restartCursor_of_unfocused fun t ht => hf ⟨t, ht⟩

theorem restartCursor_of_no_tile (hf : s.focus.st = .focused t) (hon : (centreCursor s).cursorOn t = false)
    (hp : s.placementTile t = none) : restartCursor s = centreCursor s := by
  rw [restartCursor_of_focused hf, placeCursor_of_none hon ((placementTile_centreCursor s t).trans hp)]

theorem restartCursor_of_tile {sc : ScreenId} {i : Fin 4} (hf : s.focus.st = .focused t) (hon : (centreCursor s).cursorOn t = false)
    (hp : s.placementTile t = some (sc, i)) :
    s.tileTarget sc i = some t ∧ ∃ a, s.tileRect sc i = some a ∧
      restartCursor s = rewriteMirror .cursor (modCursor (fun c => { c with
        x := a.x + a.w / 2, y := a.y + a.h / 2, screen := some sc, tile := i }) (centreCursor s)) := by
  obtain ⟨htarget, a, ha⟩ := placementTile_some hp
  obtain ⟨hrx, hry, hdwell⟩ := (centreCursor_spec s).still
  refine ⟨htarget, a, ha, ?_⟩
  rw [restartCursor_of_focused hf, placeCursor_of_tile hon ((placementTile_centreCursor s t).trans hp)
    ((tileRect_centreCursor s sc i).trans ha)]
  have hcursor : { (centreCursor s).cur.cursor with
      x := a.x + a.w / 2, y := a.y + a.h / 2, rx := 0, ry := 0, screen := some sc, tile := i, dwell := .clear } =
      ({ (centreCursor s).cur.cursor with x := a.x + a.w / 2, y := a.y + a.h / 2, screen := some sc, tile := i } : Cursor) := by
    simp only [hrx, hry, hdwell]
  unfold modCursor
  rw [hcursor]
end

/-! ## The cells of a step -/

theorem mem_of_mem_flatMap_ids {n : Nat} {f : Fin n → List CellId} (k : Fin n) : ∀ d ∈ f k, d ∈ (ids n).flatMap f :=
  fun _ hd => List.mem_flatMap.2 ⟨k, mem_ids k, hd⟩

theorem runningCells_of_running {s : State} {k : TargetId} (h : s.wakes[k.1].state ≠ .idle) : runningCells s k = s.wakes[k.1].joined :=
  if_neg h

theorem stagedCells_of_some {s : State} {sc : ScreenId} {g : Staged} (h : s.comp.screens[sc.1].staged = some g) :
    stagedCells s sc = g.cells := by
  unfold stagedCells
  rw [h]
  rfl

theorem pendingCell_of_some {s : State} {h : HeadId} {p : Replacement} (hp : s.served[h.1].pending = some p) :
    pendingCell s h = p.cell.toList := by
  unfold pendingCell
  rw [hp]
  rfl

theorem mem_servingCells {s : State} {h : HeadId} {d : CellId} :
    d ∈ servingCells s h ↔ (∃ p, s.served[h.1].copy = some p ∧ d ∈ p.rep.cell.toList) ∨ d ∈ s.served[h.1].completing.toList := by
  unfold servingCells
  cases s.served[h.1].copy <;> simp

/-- The cells that step 3 completes. -/
def identityCells (s : State) : List CellId :=
  (ids 6).flatMap (fun sc => s.idents[sc.1].waiting) ++ (ids 16).flatMap (pendingCell s) ++ (ids 16).flatMap (servingCells s)

section
variable {s : State} {d : CellId}

theorem mem_identityCells_waiting (sc : ScreenId) (hd : d ∈ s.idents[sc.1].waiting) : d ∈ identityCells s :=
  List.mem_append_left _ (List.mem_append_left _ (mem_of_mem_flatMap_ids (f := fun sc => s.idents[sc.1].waiting) sc d hd))

theorem mem_identityCells_pending {h : HeadId} {p : Replacement} (hp : s.served[h.1].pending = some p) (hd : d ∈ p.cell.toList) :
    d ∈ identityCells s :=
  List.mem_append_left _ (List.mem_append_right _ (mem_of_mem_flatMap_ids h d (by rw [pendingCell_of_some hp]; exact hd)))

theorem mem_identityCells_copy {h : HeadId} {p} (hp : s.served[h.1].copy = some p) (hd : d ∈ p.rep.cell.toList) :
    d ∈ identityCells s :=
  List.mem_append_right _ (mem_of_mem_flatMap_ids h d (mem_servingCells.2 (.inl ⟨p, hp, hd⟩)))

theorem mem_identityCells_completing (h : HeadId) (hd : d ∈ s.served[h.1].completing.toList) : d ∈ identityCells s :=
  List.mem_append_right _ (mem_of_mem_flatMap_ids h d (mem_servingCells.2 (.inr hd)))
end

end Sys2Proof.Machine
end

section
/-! PROOFS. The eight steps of a restart taken one after another (R185). -/

namespace Sys2Proof.Machine

open Sys2Proof

/-! ## What every step leaves -/

/-- The state of the sweep is the same, with what the straps, the host and the detectors have set and the words after the mirrors. -/
structure Beside (s t : State) : Prop where
  sweep : (t.xm.pendingSweep, t.xm.sweepState, t.xm.sweepCount) = (s.xm.pendingSweep, s.xm.sweepState, s.xm.sweepCount)
  records : (t.heads, t.power, t.setups, t.straps, t.cur.geo, t.cur.settings, t.panel.keys, t.panel.inds) =
    (s.heads, s.power, s.setups, s.straps, s.cur.geo, s.cur.settings, s.panel.keys, s.panel.inds)
  above : ∀ a, 0x0C00 ≤ a → t.xm.mem.read a = s.xm.mem.read a

theorem Beside.trans {s t u : State} (h : Beside s t) (g : Beside t u) : Beside s u :=
  ⟨g.sweep.trans h.sweep, g.records.trans h.records, fun a ha => (g.above a ha).trans (h.above a ha)⟩

theorem Kept.beside {s t : State} (h : Kept s t) : Beside s t := by
  refine ⟨?_, ?_, h.above⟩
  · rw [h.pendingSweep, h.sweepState, h.sweepCount]
  · rw [h.heads, h.power, h.setups, h.straps, h.geo, h.settings, h.keys, h.inds]

theorem Mirror.below_staging (m : Mirror) : m.base + m.size ≤ 0x0C00 := by
  cases m with
  | focus | cursor | hotkey | panel => decide
  | target k | screen k | line k =>
    simp only [Mirror.base, Mirror.size]
    omega

theorem beside_restartWork (k : Fin 9) (s : State) : Beside s (restartWork k s) := by
  match k with
  | 0 => exact (restartWork_wakes s).symm ▸ (kept_restartWakes s).beside
  | 1 => exact (restartWork_staged s).symm ▸ (kept_discardStaged s).beside
  | 2 =>
    rw [restartWork_identity]
    obtain ⟨hsweep, hrecords, habove⟩ := (kept_restartIdentity s).beside
    exact ⟨hsweep, hrecords, habove⟩
  | 3 =>
    rw [restartWork_desk_step]
    obtain ⟨hsweep, hrecords, habove⟩ := (restartDesk_spec s).kept.beside
    exact ⟨hsweep, hrecords, habove⟩
  | 4 => exact (restartWork_focus s).symm ▸ (kept_restartFocus s).beside
  | 5 => exact ⟨rfl, rfl, fun _ _ => rfl⟩
  | 6 =>
    have hcentred : Beside s (centreCursor s) := by
      rw [(centreCursor_spec s).only]
      exact ⟨rfl, rfl, fun _ _ => rfl⟩
    exact (restartWork_cursor s).symm ▸ hcentred.trans (kept_restartCursor s).beside
  | 7 =>
    rw [restartWork_notices]
    obtain ⟨honly, -, -, houtside⟩ := restartNotices_spec s
    generalize restartNotices s = t at *
    refine ⟨?_, ?_, fun a ha => houtside a (by omega) fun m => .inr (by have := m.below_staging; omega)⟩
    · rw [honly]
    · rw [honly]
  | 8 => exact ⟨rfl, rfl, fun _ _ => rfl⟩

theorem beside_withRun (r : RunState) (s : State) : Beside s (withRun r s) := ⟨rfl, rfl, fun _ _ => rfl⟩

/-! ## The states between the steps -/

section
variable {b : State} {c : CellId}

theorem repeat_tick_succ (n : Nat) (s : State) : Nat.repeat tick (n + 1) s = tick (Nat.repeat tick n s) := rfl

/-- The state after so many of the eight steps. -/
theorem repeat_tick_steps (hb : b.live) (hr : b.runState = .restarting c 0) (n : Nat) (hn : n ≤ 8) :
    (Nat.repeat tick n b).live ∧ (Nat.repeat tick n b).runState = .restarting c ⟨n, by omega⟩ ∧ Beside b (Nat.repeat tick n b) := by
  induction n with
  | zero => exact ⟨hb, hr, ⟨rfl, rfl, fun _ _ => rfl⟩⟩
  | succ n ih =>
    obtain ⟨hlive, hrun, hbeside⟩ := ih (by omega)
    have hstep := tick_step hlive hrun (show n < 8 by omega)
    rw [repeat_tick_succ, hstep]
    generalize Nat.repeat tick n b = s at *
    have hreset : (restartWork ⟨n, by omega⟩ s).resetAsserted = s.resetAsserted :=
      congrArg (fun f : List Instr × Nat × Bool × Straps => f.2.2.1) (lawful_restartWork ⟨n, by omega⟩ s).fixed
    exact ⟨⟨hreset.trans hlive.1, (restartWork_inbox _ s).trans hlive.2⟩, rfl,
      (hbeside.trans (beside_restartWork _ s)).trans (beside_withRun _ _)⟩

theorem repeat_tick_step (hb : b.live) (hr : b.runState = .restarting c 0) (n : Nat) (hn : n < 8) {f : State → State}
    (hf : ∀ s, restartWork ⟨n, by omega⟩ s = f s) :
    Nat.repeat tick (n + 1) b = withRun (.restarting c ⟨n + 1, by omega⟩) (f (Nat.repeat tick n b)) := by
  obtain ⟨hlive, hrun, -⟩ := repeat_tick_steps hb hr n (by omega)
  rw [← hf]
  exact tick_step hlive hrun (show n < 8 by omega)
end

end Sys2Proof.Machine
end

section
/-! PROOFS. The eight steps of a restart composed (R185). -/

namespace Sys2Proof.Machine

open Sys2Proof

/-- The cells that a restart completes: those of the running wake operations, of the staged plans, of the display identity unit and of focus. -/
def restartCells (s : State) : List CellId :=
  (ids 8).flatMap (runningCells s) ++ (ids 6).flatMap (stagedCells s) ++ identityCells s ++ s.focus.waiting

/-- What the eight steps of a restart leave, taken one after another. -/
structure Restarted (b r : State) : Prop where
  beside : Beside b r
  summary : ∀ g < 22, r.xm.mem.read (0x0400 + g) = 1
  cells : Aborts (restartCells b) b r
  wakes : ∀ k : TargetId, r.wakes[k.1] = b.wakes[k.1].aborted (inactiveHigh b.setups[k.1])
  tlines : ∀ k : TargetId, r.tlines[k.1].resumeUntil = none ∧
    (k.1 < b.straps.targets → ∀ e ∈ r.tlines[k.1].queue, e.origin = .release)
  screens : ∀ sc : ScreenId, r.comp.screens[sc.1] = b.comp.screens[sc.1].unstaged
  idents : ∀ sc : ScreenId, r.idents[sc.1] = b.idents[sc.1].unwaited
  served : ∀ h : HeadId, r.served[h.1] = b.served[h.1].unpended.uncelled
  desk : r.desk = b.desk.restarted b.now
  hot : r.hot = { b.hot with state := .idle }
  focus : r.focus = b.focus.restarted
  cursor : ∃ s t : State, CursorCentred s t ∧ t.cur = r.cur ∧ s.cur = b.cur ∧ ∀ sc i, s.tileRect sc i = b.tileRect sc i

section
variable {b s1 s2 s3 s4 s5 s6 s7 s8 : State} {r1 r2 r3 r4 r5 r6 r7 : RunState}

theorem records_after_staged (h1 : OnlyWakes b s1) (h2 : OnlyStaged (withRun r1 s1) s2) :
    withRun r2 s2 = { b with
      runState := r2, wakes := s1.wakes, tlines := s1.tlines, comp := { b.comp with screens := s2.comp.screens }, panel := s1.panel,
      xm := s2.xm } := by
  rw [h2, h1]
  rfl

theorem records_after_desk (h1 : OnlyWakes b s1) (h2 : OnlyStaged (withRun r1 s1) s2) (h3 : IdentityOnly (withRun r2 s2) s3)
    (h4 : DeskRestarted (withRun r3 s3) s4) :
    withRun r4 s4 = { b with
      runState := r4, wakes := s1.wakes, tlines := s1.tlines, comp := { b.comp with screens := s2.comp.screens }, idents := s3.idents,
      served := s3.served, desk := b.desk.restarted b.now, hot := { b.hot with state := .idle }, panel := s1.panel, xm := s4.xm } := by
  rw [h4.only, h3, records_after_staged h1 h2]
  rfl

theorem records_after_queues (h1 : OnlyWakes b s1) (h2 : OnlyStaged (withRun r1 s1) s2) (h3 : IdentityOnly (withRun r2 s2) s3)
    (h4 : DeskRestarted (withRun r3 s3) s4) (h5 : OnlyFocus (withRun r4 s4) s5) :
    withRun r6 (restartQueues (withRun r5 s5)) = { b with
      runState := r6, wakes := s1.wakes, tlines := (restartQueues (withRun r5 s5)).tlines,
      comp := { b.comp with screens := s2.comp.screens }, idents := s3.idents, served := s3.served, desk := b.desk.restarted b.now,
      hot := { b.hot with state := .idle }, focus := s5.focus, panel := s5.panel, xm := s5.xm } := by
  have hqueues : restartQueues (withRun r5 s5) = { withRun r5 s5 with tlines := (restartQueues (withRun r5 s5)).tlines } := rfl
  rw [hqueues, h5.only, records_after_desk h1 h2 h3 h4]
  rfl

/-- The records of the state after the eight steps, each as the step that writes it last leaves it. -/
theorem records_after_notices (h1 : OnlyWakes b s1) (h2 : OnlyStaged (withRun r1 s1) s2) (h3 : IdentityOnly (withRun r2 s2) s3)
    (h4 : DeskRestarted (withRun r3 s3) s4) (h5 : OnlyFocus (withRun r4 s4) s5)
    (h7 : CursorCentred (withRun r6 (restartQueues (withRun r5 s5))) s7) (h8 : NoticesRestarted (withRun r7 s7) s8) :
    s8 = { b with
      runState := r7, wakes := s1.wakes, tlines := (restartQueues (withRun r5 s5)).tlines,
      comp := { b.comp with screens := s2.comp.screens }, idents := s3.idents, served := s3.served, desk := b.desk.restarted b.now,
      hot := { b.hot with state := .idle }, focus := s5.focus, cur := s7.cur, panel := s5.panel, xm := s8.xm } := by
  have hcur : s7 = { withRun r6 (restartQueues (withRun r5 s5)) with cur := s7.cur } := by
    rw [h7.only]
  rw [h8.only, hcur, records_after_queues h1 h2 h3 h4 h5]
  rfl

/-- The tiles of a state in which only staged plans have been discarded from the screens' records. -/
theorem tileRect_unstaged {s t : State} (hgeo : t.cur.geo = s.cur.geo)
    (hscreens : ∀ sc : ScreenId, t.comp.screens[sc.1] = s.comp.screens[sc.1].unstaged) (sc : ScreenId) (i : Fin 4) :
    t.tileRect sc i = s.tileRect sc i := by
  unfold State.tileRect
  simp only [hgeo, hscreens]
  rfl

theorem queue_releaseFlush (l : TargetLine) : ∀ e ∈ l.releaseFlush.queue, e.origin = .release := by
  rw [TargetLine.releaseFlush_eq]
  intro e he
  exact of_decide_eq_true (List.mem_filter.1 he).2

theorem cells_after_steps (h1 : WakesRestarted b s1) (h2 : StagedDiscarded (withRun r1 s1) s2)
    (h3 : IdentityRestarted (withRun r2 s2) s3) (h4 : DeskRestarted (withRun r3 s3) s4) (h5 : FocusRestarted (withRun r4 s4) s5)
    (h7 : CursorCentred (withRun r6 (restartQueues (withRun r5 s5))) s7) (h8 : NoticesRestarted (withRun r7 s7) s8) :
    Aborts (restartCells b) b s8 := by
  have hstagedCells : stagedCells (withRun r1 s1) = stagedCells b := by
    rw [h1.only]
    rfl
  have hidentityCells : identityCells (withRun r2 s2) = identityCells b := by
    rw [records_after_staged h1.only h2.only]
    rfl
  have hwaiting : (withRun r4 s4).focus.waiting = b.focus.waiting := by
    rw [records_after_desk h1.only h2.only h3.work.only h4]
  have hstaged := h2.cells
  have hidentity : Aborts (identityCells (withRun r2 s2)) (withRun r2 s2) s3 := h3.cells
  have hfocus := h5.cells
  rw [hstagedCells] at hstaged
  rw [hidentityCells] at hidentity
  rw [hwaiting] at hfocus
  have hcentred : SameCells (withRun r6 (restartQueues (withRun r5 s5))) s7 := sameCells_of_xm (by rw [h7.only])
  have hnotices : SameCells (withRun r7 s7) s8 := by
    refine ⟨by rw [h8.only], fun a ha => h8.outside a (.inl ha) fun m => ?_⟩
    obtain ⟨-, hbase, -⟩ := m.fits
    exact .inl (by omega)
  have hafter : SameCells s5 s8 :=
    (((sameCells_of_xm rfl : SameCells s5 (withRun r6 (restartQueues (withRun r5 s5)))).trans hcentred).trans
      (sameCells_withRun r7 s7)).trans hnotices
  exact ((((h1.cells.then_same (sameCells_withRun r1 s1)).append hstaged).then_same (sameCells_withRun r2 s2)).append
    ((hidentity.then_same (sameCells_withRun r3 s3)).then_same (h4.cells.trans (sameCells_withRun r4 s4)))).append
      (hfocus.then_same hafter)

/-- The eight steps taken one after another. -/
theorem restarted_of_steps (h1 : WakesRestarted b s1) (h2 : StagedDiscarded (withRun r1 s1) s2)
    (h3 : IdentityRestarted (withRun r2 s2) s3) (h4 : DeskRestarted (withRun r3 s3) s4) (h5 : FocusRestarted (withRun r4 s4) s5)
    (h7 : CursorCentred (withRun r6 (restartQueues (withRun r5 s5))) s7) (h8 : NoticesRestarted (withRun r7 s7) s8)
    (hbeside : Beside b s8) : Restarted b s8 := by
  have hstaged := records_after_staged (r2 := r2) h1.only h2.only
  have hdesk := records_after_desk (r4 := r4) h1.only h2.only h3.work.only h4
  have hqueues := records_after_queues (r5 := r5) (r6 := r6) h1.only h2.only h3.work.only h4 h5.only
  have hnotices := records_after_notices h1.only h2.only h3.work.only h4 h5.only h7 h8
  have hfocus : (withRun r4 s4).focus = b.focus := by rw [hdesk]
  have hscreens (sc : ScreenId) : s2.comp.screens[sc.1] = b.comp.screens[sc.1].unstaged := by
    rw [h2.screens, h1.only]
    rfl
  refine ⟨hbeside, h8.summary, ?cells, fun k => ?wakes, fun k => ?tlines, fun sc => ?screens, fun sc => ?idents, fun h => ?served,
    ?desk, ?hot, ?focus, ⟨withRun r6 (restartQueues (withRun r5 s5)), s7, h7, ?cur, ?before, ?tiles⟩⟩
  case cells => exact cells_after_steps h1 h2 h3 h4 h5 h7 h8
  case wakes =>
    rw [hnotices]
    exact h1.wakes k
  case tlines =>
    have hstraps : (withRun r5 s5).straps = b.straps := by
      show s5.straps = b.straps
      rw [h5.only.only, hdesk]
    have hresume : s5.tlines[k.1].resumeUntil = none := by
      have h := h5.only.resume k
      rw [hdesk] at h
      exact h.trans (congrArg TargetLine.resumeUntil (h1.tlines k))
    have hline := restartQueues_tlines (withRun r5 s5) k
    rw [hstraps] at hline
    rw [hnotices]
    simp only [hline]
    split
    next =>
      refine ⟨?_, fun _ => queue_releaseFlush _⟩
      rw [TargetLine.releaseFlush_eq]
      exact hresume
    next hk => exact ⟨hresume, fun h => absurd h hk⟩
  case screens =>
    rw [hnotices]
    exact hscreens sc
  case idents =>
    have h := h3.idents sc
    rw [hstaged] at h
    rw [hnotices]
    exact h
  case served =>
    have h' := h3.served h
    rw [hstaged] at h'
    rw [hnotices]
    exact h'
  case desk => rw [hnotices]
  case hot => rw [hnotices]
  case focus =>
    rw [hnotices]
    exact h5.focus.trans (congrArg Focus.restarted hfocus)
  case cur => rw [hnotices]
  case before => rw [hqueues]
  case tiles =>
    rw [hqueues]
    exact tileRect_unstaged rfl hscreens
end

theorem Restarted.withRun {b t : State} (h : Restarted b t) (r : RunState) : Restarted b (withRun r t) where
  beside := h.beside.trans (beside_withRun r t)
  summary := h.summary
  cells := h.cells.then_same (sameCells_withRun r t)
  wakes := h.wakes
  tlines := h.tlines
  screens := h.screens
  idents := h.idents
  served := h.served
  desk := h.desk
  hot := h.hot
  focus := h.focus
  cursor := h.cursor

/-- A restart's state after its eight steps. -/
theorem restarted {b : State} {c : CellId} (hb : b.live) (hr : b.runState = .restarting c 0) : Restarted b (Nat.repeat tick 8 b) := by
  have e1 : Nat.repeat tick 1 b = Machine.withRun (.restarting c 1) (restartWakes b) :=
    repeat_tick_step hb hr 0 (by omega) restartWork_wakes
  have e2 : Nat.repeat tick 2 b = Machine.withRun (.restarting c 2) (discardStaged (Nat.repeat tick 1 b)) :=
    repeat_tick_step hb hr 1 (by omega) restartWork_staged
  have e3 : Nat.repeat tick 3 b = Machine.withRun (.restarting c 3) (restartIdentity (Nat.repeat tick 2 b)) :=
    repeat_tick_step hb hr 2 (by omega) restartWork_identity
  have e4 : Nat.repeat tick 4 b = Machine.withRun (.restarting c 4) (restartDesk (Nat.repeat tick 3 b)) :=
    repeat_tick_step hb hr 3 (by omega) restartWork_desk_step
  have e5 : Nat.repeat tick 5 b = Machine.withRun (.restarting c 5) (restartFocus (Nat.repeat tick 4 b)) :=
    repeat_tick_step hb hr 4 (by omega) restartWork_focus
  have e6 : Nat.repeat tick 6 b = Machine.withRun (.restarting c 6) (restartQueues (Nat.repeat tick 5 b)) :=
    repeat_tick_step hb hr 5 (by omega) restartWork_queues
  have e7 : Nat.repeat tick 7 b = Machine.withRun (.restarting c 7) (restartCursor (Nat.repeat tick 6 b)) :=
    repeat_tick_step hb hr 6 (by omega) restartWork_cursor
  have e8 : Nat.repeat tick 8 b = Machine.withRun (.restarting c 8) (restartNotices (Nat.repeat tick 7 b)) :=
    repeat_tick_step hb hr 7 (by omega) restartWork_notices
  have h5 := restartFocus_spec (Nat.repeat tick 4 b)
  have hunfocused : restartCursor (Nat.repeat tick 6 b) = centreCursor (Nat.repeat tick 6 b) := by
    refine restartCursor_of_unfocused fun t ht => ?_
    have hfocus : (Nat.repeat tick 6 b).focus = (restartFocus (Nat.repeat tick 4 b)).focus := by
      rw [e6, e5]
      rfl
    rw [hfocus, h5.focus] at ht
    cases ht
  have hbeside := (repeat_tick_steps hb hr 8 (by omega)).2.2
  have h1 := restartWakes_spec b
  have h2 := discardStaged_spec (Nat.repeat tick 1 b)
  have h3 := restartIdentity_spec (Nat.repeat tick 2 b)
  have h4 := restartDesk_spec (Nat.repeat tick 3 b)
  have h7 := centreCursor_spec (Nat.repeat tick 6 b)
  have h8 := restartNotices_spec (Nat.repeat tick 7 b)
  rw [hunfocused] at e7
  generalize Nat.repeat tick 8 b = t8, Nat.repeat tick 7 b = t7, Nat.repeat tick 6 b = t6, Nat.repeat tick 5 b = t5,
    Nat.repeat tick 4 b = t4, Nat.repeat tick 3 b = t3, Nat.repeat tick 2 b = t2, Nat.repeat tick 1 b = t1 at *
  generalize restartWakes b = s1 at *
  generalize discardStaged t1 = s2 at *
  generalize restartIdentity t2 = s3 at *
  generalize restartDesk t3 = s4 at *
  generalize restartFocus t4 = s5 at *
  subst e1 e2 e3 e4 e5 e6
  generalize centreCursor (Machine.withRun (.restarting c 6) (restartQueues (Machine.withRun (.restarting c 5) s5))) = s7 at *
  subst e7
  generalize restartNotices (Machine.withRun (.restarting c 7) s7) = s8 at *
  subst e8
  obtain ⟨hsweep, hrecords, habove⟩ := hbeside
  exact (restarted_of_steps h1 h2 h3 h4 h5 h7 h8 ⟨hsweep, hrecords, habove⟩).withRun _

end Sys2Proof.Machine
end

section
/-! PROOFS. O58: what a restart does, step by step and as a whole (R185). -/

namespace Sys2Proof.Machine

open Sys2Proof

/-! ## The take of a RESTART -/

section
variable {s : State} {c : CellId}

theorem takesRestart_iff (hs : s.live) : (s.cellReady c && s.cellKind c == restartKind) = true ↔ s.commandReady c 0x10 := by
  refine ⟨fun h => ?_, fun h => ?_⟩
  · rw [Bool.and_eq_true, beq_iff_eq] at h
    obtain ⟨hready, hkind⟩ := h
    have hcommand := (cellReady_iff hs).1 hready
    rw [hkind] at hcommand
    exact hcommand
  · obtain ⟨hready, hkind⟩ := cellReady_of h
    rw [hready, hkind]
    rfl

/-- The state in which a restart's first step is next. -/
def restartBegun (t : Nat) (c : CellId) (s : State) : State := beginRestart c { s.advance t with paces := s.paces.tail }

theorem exec_restart_unready (t : Nat) (hs : s.live) (h : ¬s.commandReady c 0x10) : exec (.restart t c) s = .next (s.advance t) := by
  have hskip : ((s.advance t).cellReady c && (s.advance t).cellKind c == restartKind) ≠ true := mt (takesRestart_iff hs).1 h
  have hsame := act_quiet (t := t) (f := fun s => if s.cellReady c && s.cellKind c == restartKind then paced (beginRestart c) s else s) hs
    (by rw [if_neg hskip]; exact hs.2)
  rw [if_neg hskip] at hsame
  exact hsame

theorem restartBegun_live (t : Nat) (hs : s.live) : (restartBegun t c s).live := hs

theorem exec_restart_ready (t : Nat) (hs : s.live) (h : s.commandReady c 0x10) :
    exec (.restart t c) s = .next (Nat.repeat tick (s.paces.headD 512) (restartBegun t c s)) := by
  have htake : ((s.advance t).cellReady c && (s.advance t).cellKind c == restartKind) = true := (takesRestart_iff hs).2 h
  have hpaced : paced (beginRestart c) (s.advance t) = Nat.repeat tick (s.paces.headD 512) (restartBegun t c s) := paced_eq_repeat _ _
  have hinbox := repeat_tick_inbox (s.paces.headD 512) (restartBegun t c s) hs.2
  have hrun := act_quiet (t := t) (f := fun s => if s.cellReady c && s.cellKind c == restartKind then paced (beginRestart c) s else s) hs
    (by rw [if_pos htake, hpaced]; exact hinbox)
  rw [if_pos htake, hpaced] at hrun
  exact hrun

/-- The in-work set with a taken cell holds what it held. -/
theorem take_entry_of_entry (c : CellId) {d : CellId} (h : s.xm.entry d ≠ none) : (take c s).xm.entry d ≠ none := by
  have hinWork : (take c s).xm.inWork = s.xm.inWork ++ [{ cell := c, tag := s.xm.mem.word (cellBase c), kind := s.cellKind c }] := rfl
  unfold Exchange.entry at *
  rw [hinWork, List.find?_append]
  exact fun hnone => h (Option.or_eq_none_iff.1 hnone).1

theorem take_read_state (c : CellId) (s : State) : (take c s).xm.mem.read (64 * c.1 + 2) = 2 := by
  simp only [take, writeMem_xm, cellBase]
  rw [Memory.read_write_outside _ _ _ _ (by omega), Memory.read_write, if_pos ⟨by omega, by simp⟩, Nat.sub_self]
  rfl
end

/-! ## What the eight steps leave, field by field -/

namespace Restarted
variable {b r : State} {c : CellId}

/-- The RESTART cell is DONE after step 9, whoever completes it. -/
theorem own_cell (h : Restarted b r) (hb : b.xm.entry c ≠ none) :
    (complete c .ok [] r).xm.entry c = none ∧ (complete c .ok [] r).xm.mem.read (64 * c.1 + 2) = 3 := by
  refine ⟨(complete_entry ..).trans (if_pos rfl), ?_⟩
  by_cases he : r.xm.entry c = none
  · have hmem : c ∈ restartCells b := by_contra fun hmem => hb ((h.cells.kept hmem).symm.trans he)
    rw [complete_of_no_entry he]
    exact (h.cells.aborted c hmem hb).1
  · exact (complete_cellDone he .ok []).1

theorem cell_waiting_on_nothing (h : Restarted b r) (hb : b.xm.entry c ≠ none) (hstate : b.xm.mem.read (64 * c.1 + 2) = 2)
    (hc : c ∉ restartCells b) :
    r.xm.entry c ≠ none ∧ r.xm.mem.read (64 * c.1 + 2) = 2 ∧ (complete c .ok [] r).cellDone c .ok [] := by
  have he : r.xm.entry c ≠ none := by
    rw [h.cells.kept hc]
    exact hb
  exact ⟨he, (h.cells.same c (.inl hc) 2 (by omega)).trans hstate, complete_cellDone he .ok []⟩

theorem tileRect (h : Restarted b r) (sc : ScreenId) (i : Fin 4) : r.tileRect sc i = b.tileRect sc i := by
  have hrecords := h.beside.records
  simp only [Prod.mk.injEq] at hrecords
  obtain ⟨-, -, -, -, hgeo, -, -, -⟩ := hrecords
  exact tileRect_unstaged hgeo h.screens sc i

theorem centred (h : Restarted b r) (sc : ScreenId) (hsc : b.Lowest sc) :
    r.cur.cursor.x = b.cur.geo[sc.1].x + b.cur.geo[sc.1].w / 2 ∧ r.cur.cursor.y = b.cur.geo[sc.1].y + b.cur.geo[sc.1].h / 2 ∧
      (0 < b.cur.geo[sc.1].w → 0 < b.cur.geo[sc.1].h →
        r.cur.cursor.screen = some sc ∧
          ∃ a, r.tileRect sc r.cur.cursor.tile = some a ∧ a.contains r.cur.cursor.x r.cur.cursor.y = true) := by
  obtain ⟨s, t, hcentred, ht, hs, htiles⟩ := h.cursor
  have hcentre := hcentred.centre sc
  rw [State.Lowest, hs] at hcentre
  simp only [ht, htiles, ← h.tileRect] at hcentre
  exact hcentre hsc

theorem nowhere (h : Restarted b r) (hnone : ∀ sc : ScreenId, b.cur.geo[sc.1].enabled = false) :
    r.cur.cursor = { b.cur.cursor with rx := 0, ry := 0, dwell := .clear, screen := none } := by
  obtain ⟨s, t, hcentred, ht, hs, -⟩ := h.cursor
  have hnowhere := hcentred.nowhere
  rw [hs, ht] at hnowhere
  exact hnowhere hnone

theorem still (h : Restarted b r) :
    r.cur.cursor.rx = 0 ∧ r.cur.cursor.ry = 0 ∧ r.cur.cursor.dwell = .clear ∧ r.cur.deskButtons = 0 := by
  obtain ⟨s, t, hcentred, ht, -, -⟩ := h.cursor
  obtain ⟨hrx, hry, hdwell⟩ := hcentred.still
  rw [← ht]
  refine ⟨hrx, hry, hdwell, ?_⟩
  rw [hcentred.only]

theorem wake_cases (h : Restarted b r) (k : TargetId) :
    r.wakes[k.1].state = .idle ∧ r.wakes[k.1].joined = [] ∨ b.wakes[k.1].state = .idle ∧ r.wakes[k.1] = b.wakes[k.1] := by
  rw [h.wakes, WakeOp.aborted]
  split
  case isTrue hidle => exact .inr ⟨hidle, rfl⟩
  case isFalse => exact .inl ⟨rfl, rfl⟩

theorem uncelled (h : Restarted b r) (k : HeadId) :
    r.served[k.1].completing = none ∧ r.served[k.1].store = b.served[k.1].store ∧
      (∀ p, r.served[k.1].pending = some p → p.cell = none) ∧ ∀ p, r.served[k.1].copy = some p → p.rep.cell = none := by
  rw [h.served]
  refine ⟨rfl, rfl, fun p hp => ?_, fun p hp => ?_⟩
  · have hcell := (Option.filter_eq_some_iff.1 hp).2
    exact Option.isNone_iff_eq_none.1 hcell
  · obtain ⟨q, -, rfl⟩ := Option.map_eq_some_iff.1 hp
    rfl
end Restarted

theorem mem_restartCells_of_identity {s : State} {d : CellId} (h : d ∈ identityCells s) : d ∈ restartCells s :=
  List.mem_append_left _ (List.mem_append_right _ h)

/-- A cell that no work of another command has waiting is none of those that a restart completes. -/
theorem not_mem_restartCells {s : State} {c : CellId} (hwakes : ∀ k : TargetId, c ∉ s.wakes[k.1].joined) (hfocus : c ∉ s.focus.waiting)
    (hscreens : ∀ sc : ScreenId, c ∉ s.idents[sc.1].waiting ∧ ∀ g, s.comp.screens[sc.1].staged = some g → c ∉ g.cells)
    (hheads : ∀ h : HeadId, s.served[h.1].completing ≠ some c ∧ (∀ p, s.served[h.1].pending = some p → p.cell ≠ some c) ∧
      ∀ p, s.served[h.1].copy = some p → p.rep.cell ≠ some c) : c ∉ restartCells s := by
  simp only [restartCells, identityCells, List.mem_append, List.mem_flatMap, not_or, not_exists, not_and]
  refine ⟨⟨⟨fun k _ => ?running, fun sc _ => ?staged⟩, ⟨fun sc _ => (hscreens sc).1, fun h _ => ?pending⟩, fun h _ => ?serving⟩, hfocus⟩
  case running =>
    unfold runningCells
    split
    · exact List.not_mem_nil
    · exact hwakes k
  case staged =>
    cases hg : s.comp.screens[sc.1].staged with
    | none =>
      unfold stagedCells
      rw [hg]
      exact List.not_mem_nil
    | some g =>
      rw [stagedCells_of_some hg]
      exact (hscreens sc).2 g hg
  case pending =>
    cases hp : s.served[h.1].pending with
    | none =>
      unfold pendingCell
      rw [hp]
      exact List.not_mem_nil
    | some p =>
      rw [pendingCell_of_some hp]
      exact mt Option.mem_toList.1 ((hheads h).2.1 p hp)
  case serving =>
    rw [mem_servingCells]
    rintro (⟨p, hp, hc⟩ | hc)
    · exact (hheads h).2.2 p hp (Option.mem_toList.1 hc)
    · exact (hheads h).1 (Option.mem_toList.1 hc)

/-- Settles O58 by the records of what each step leaves, composed for the eight steps taken in one command. -/
theorem restartDoesBlocksWork : Obligations.RestartDoesBlocksWork := by
  unfold Obligations.RestartDoesBlocksWork
  refine ⟨?taken, fun c k s hs hr => ?_⟩
  case taken =>
    intro t c s hs u v begun r waitsOnNothing
    refine ⟨exec_restart_unready t hs, fun hready => ⟨exec_restart_ready t hs hready, ?_⟩⟩
    have hlive : begun.live := hs
    have hrun : begun.runState = .restarting c 0 := rfl
    have hrestarted : Restarted begun r := restarted hlive hrun
    obtain ⟨hrlive, hrrun, -⟩ := repeat_tick_steps hlive hrun 8 (by omega)
    have hentry : begun.xm.entry c ≠ none := take_entry c _
    have hstate : begun.xm.mem.read (64 * c.1 + 2) = 2 := take_read_state c _
    have hsweep := hrestarted.beside.sweep
    have hrecords := hrestarted.beside.records
    simp only [Prod.mk.injEq] at hsweep hrecords
    obtain ⟨hpending, hidle, hcount⟩ := hsweep
    obtain ⟨hheads, hpower, hsetups, hstraps, hgeo, hsettings, hkeys, hinds⟩ := hrecords
    obtain ⟨hrx, hry, hdwell, hbuttons⟩ := hrestarted.still
    obtain ⟨hgone, hdone⟩ := hrestarted.own_cell hentry
    have haborted {cells : List CellId} (hl : ∀ d ∈ cells, d ∈ restartCells begun) : ∀ d ∈ cells, s.xm.entry d ≠ none →
        r.xm.entry d = none ∧ r.xm.mem.read (64 * d.1 + 2) = 3 ∧ r.xm.mem.read (64 * d.1 + 4) = Result.aborted.code :=
      fun d hd he => hrestarted.cells.reads hl d hd (take_entry_of_entry c he)
    refine ⟨⟨?ninth, hgone, hdone, fun hwaits => ?own⟩, hrrun, hpending, hidle, hcount, hrestarted.summary, fun a ha => ?above, ?cells,
      ⟨fun sc hen hlt => hrestarted.centred sc ⟨hen, hlt⟩, fun hnone => ?nowhere⟩, hrestarted.wake_cases, fun k => ?tlines,
      fun sc => ⟨hrestarted.screens sc, ?idents⟩, hrestarted.uncelled, hrestarted.desk, hrestarted.hot, hrestarted.focus,
      hrx, hry, hdwell, hbuttons, hgeo, hsettings, hheads, hpower, hsetups, hstraps, hkeys, hinds⟩
    case ninth =>
      have hnine : Nat.repeat tick 9 begun = tick r := repeat_tick_succ 8 begun
      have hset : r.xm.pendingSweep = true := hpending
      have hcounted : r.xm.sweepCount = s.xm.sweepCount := hcount
      rw [hnine, tick_last hrlive hrrun, hset, hcounted, if_pos rfl, if_pos rfl]
    case own =>
      obtain ⟨hwakes, hfocus, hscreens, hserved⟩ := hwaits
      exact hrestarted.cell_waiting_on_nothing hentry hstate (not_mem_restartCells (s := begun) hwakes hfocus hscreens hserved)
    case above => exact (hrestarted.beside.above a ha).trans (take_read_above c _ (by omega))
    case cells =>
      refine ⟨fun k hk => haborted fun d hd => ?wake, fun sc g hg => haborted fun d hd => ?plan, fun sc => haborted fun d hd => ?read,
        fun h => ⟨haborted fun d hd => ?completing, fun p hp => haborted fun d hd => ?pending, fun p hp => haborted fun d hd => ?copy⟩,
        haborted fun d hd => List.mem_append_right _ hd⟩
      case wake =>
        have hmem : d ∈ runningCells begun k := (runningCells_of_running (s := begun) hk).symm ▸ hd
        exact List.mem_append_left _ (List.mem_append_left _ (List.mem_append_left _ (mem_of_mem_flatMap_ids k d hmem)))
      case plan =>
        have hmem : d ∈ stagedCells begun sc := (stagedCells_of_some (s := begun) hg).symm ▸ hd
        exact List.mem_append_left _ (List.mem_append_left _ (List.mem_append_right _ (mem_of_mem_flatMap_ids sc d hmem)))
      case read => exact mem_restartCells_of_identity (mem_identityCells_waiting (s := begun) sc hd)
      case completing => exact mem_restartCells_of_identity (mem_identityCells_completing (s := begun) h hd)
      case pending => exact mem_restartCells_of_identity (mem_identityCells_pending (s := begun) hp hd)
      case copy => exact mem_restartCells_of_identity (mem_identityCells_copy (s := begun) hp hd)
    case nowhere =>
      rw [hrestarted.nowhere hnone]
      exact ⟨rfl, rfl, rfl⟩
    case tlines =>
      obtain ⟨hresume, hqueue⟩ := hrestarted.tlines k
      exact ⟨hresume, fun hfitted => hqueue ((fittedTarget_iff s k).1 hfitted)⟩
    case idents =>
      rw [hrestarted.idents]
      rfl
  intro steps
  refine ⟨fun f hk hf => ?work, fun hk => ?step, fun hk => ?last⟩
  case work =>
    obtain rfl := Option.some.inj ((restartWork_getElem? k hk).symm.trans hf)
    rw [tick_restarting hr, restartStep_early s hk]
    rfl
  case last =>
    subst hk
    exact tick_last hs hr
  case step =>
    intro w on aborted
    have hw : w = withRun (.restarting c ⟨k.1 + 1, by omega⟩) (restartWork k s) := tick_step hs hr hk
    clear_value w
    refine ⟨⟨_, by rw [hw]; rfl, rfl⟩, ?wakes, ?staged, ?identity, ?desk, ?focus, ?queues, ?cursor, ?notices⟩
    case wakes =>
      rintro rfl
      have hw : w = withRun (.restarting c 1) (restartWakes s) := hw
      obtain ⟨-, hwakes, htlines, hcells⟩ := restartWakes_spec s
      have hkept := kept_restartWakes s
      generalize restartWakes s = v at *
      subst hw
      refine ⟨kept_withRun hkept _, fun i => ⟨congrArg TargetLine.resumeUntil (htlines i), hwakes i⟩, fun i hi => ?_⟩
      refine (hcells.then_same (sameCells_withRun _ _)).reads fun d hd => mem_of_mem_flatMap_ids i d ?_
      rw [runningCells_of_running hi]
      exact hd
    case staged =>
      rintro rfl
      have hw : w = withRun (.restarting c 2) (discardStaged s) := hw
      obtain ⟨-, hscreens, hcells⟩ := discardStaged_spec s
      have hkept := kept_discardStaged s
      generalize discardStaged s = v at *
      subst hw
      refine ⟨kept_withRun hkept _, hscreens, fun sc g hg => ?_⟩
      refine (hcells.then_same (sameCells_withRun _ _)).reads fun d hd => mem_of_mem_flatMap_ids sc d ?_
      rw [stagedCells_of_some hg]
      exact hd
    case identity =>
      rintro rfl
      have hw : w = withRun (.restarting c 3) (restartIdentity s) := hw
      obtain ⟨-, hidents, hserved, hcells⟩ := restartIdentity_spec s
      have hkept := kept_restartIdentity s
      generalize restartIdentity s = v at *
      subst hw
      have hreads {cells : List CellId} (hl : ∀ d ∈ cells, d ∈ identityCells s) := (hcells.then_same (sameCells_withRun
        (.restarting c 3) _)).reads hl
      refine ⟨kept_withRun hkept _, fun sc => ⟨hidents sc, hreads fun d => mem_identityCells_waiting sc⟩,
        fun h => ⟨hserved h, hreads fun d => mem_identityCells_completing h, fun p hp => hreads fun d => mem_identityCells_pending hp,
          fun p hp => hreads fun d => mem_identityCells_copy hp⟩⟩
    case desk =>
      rintro rfl
      have hw : w = withRun (.restarting c 4) (restartDesk s) := hw
      obtain ⟨honly, hkept, -⟩ := restartDesk_spec s
      generalize restartDesk s = v at *
      subst hw
      have hhot : v.hot = { s.hot with state := .idle } := by rw [honly]
      have hdesk : v.desk = s.desk.restarted s.now := by rw [honly]
      exact ⟨kept_withRun hkept _, hhot, hdesk⟩
    case focus =>
      rintro rfl
      have hw : w = withRun (.restarting c 5) (restartFocus s) := hw
      obtain ⟨-, hkept, hfocus, hcells⟩ := restartFocus_spec s
      generalize restartFocus s = v at *
      subst hw
      exact ⟨kept_withRun hkept _, (hcells.then_same (sameCells_withRun _ _)).reads fun d hd => hd, hfocus⟩
    case queues =>
      rintro rfl
      have hw : w = withRun (.restarting c 6) (restartQueues s) := hw
      subst hw
      refine ⟨rfl, fun i => ?_⟩
      intro l q
      exact (restartQueues_tlines s i).trans (if_congr Iff.rfl (TargetLine.releaseFlush_eq _) rfl)
    case cursor =>
      rintro rfl
      have hw : w = withRun (.restarting c 7) (restartCursor s) := hw
      obtain ⟨honly, hstill, hcentre, hnowhere⟩ := centreCursor_spec s
      generalize hrestart : restartCursor s = v at *
      subst hw
      intro m centred
      refine ⟨?only, ⟨?cur, hstill.1, hstill.2.1, hstill.2.2, fun sc hen hlt => hcentre sc ⟨hen, hlt⟩, hnowhere⟩, fun hon => ?on,
        fun t ht hoff => ⟨fun hp => ?off, fun sc i hp => ?moved⟩⟩
      case only =>
        show centreCursor s = { s with cur := (centreCursor s).cur }
        rw [honly]
      case cur => exact congrArg State.cur honly
      case on =>
        rw [← hrestart, restartCursor_of_on hon]
        rfl
      case off =>
        rw [← hrestart, restartCursor_of_no_tile ht hoff hp]
        rfl
      case moved =>
        obtain ⟨htarget, a, ha, hmoved⟩ := restartCursor_of_tile ht hoff hp
        refine ⟨htarget, a, ha, ?_⟩
        rw [← hrestart, hmoved]
        rfl
    case notices =>
      rintro rfl
      have hw : w = withRun (.restarting c 8) (restartNotices s) := hw
      obtain ⟨honly, hsummary, hshows, houtside⟩ := restartNotices_spec s
      generalize restartNotices s = v at *
      subst hw
      refine ⟨congrArg (withRun (.restarting c 8)) honly, hsummary, fun m => ?_, houtside⟩
      obtain ⟨hrevision, hword, hfields⟩ := hshows m
      have hsame : mirrorFields (withRun (.restarting c 8) v) m = mirrorFields v m := by
        cases m with
        | focus | cursor | hotkey | panel | target | screen | line => rfl
      exact ⟨hrevision, hword, hsame ▸ hfields⟩

end Sys2Proof.Machine
end

section
/-! PROOFS. LAYOUT_LOAD (R25): the three passes over the placement entries. -/

namespace Sys2Proof.Machine

open Sys2Proof

/-! ## The range pass -/

/-- The range pass refuses an entry. -/
def PlaceBeyond (e : List Byte) : Prop :=
  let p := placementOf e
  p.w < 320 ∨ 7680 < p.w ∨ p.h < 200 ∨ 4320 < p.h ∨ p.refresh < 24 ∨ 240 < p.refresh ∨ 32768 < p.x + p.w ∨ 32768 < p.y + p.h ∨
    1 < (at8 e 0).toNat

theorem placementInRange_iff (e : List Byte) : placementInRange e = true ↔ ¬PlaceBeyond e := by
  have hbool : (boolOf (at8 e 0)).isSome = true ↔ ¬1 < (at8 e 0).toNat := by
    rw [← Option.not_isNone, Bool.not_eq_true', ← Bool.not_eq_true, boolOf_isNone_iff]
    omega
  unfold placementInRange PlaceBeyond
  simp only [Bool.and_eq_true, decide_eq_true_eq, hbool]
  omega

/-- An entry of the block as it stands in the memory. -/
def placeBytes (m : Memory) (i : Fin 6) : List Byte := m.block (0x0C00 + 10 * i.1) 10

theorem placeEntries_eq (m : Memory) : entriesOf 10 6 (m.block Config.placementBase 60) = (ids 6).map (placeBytes m) :=
  entriesOf_block m 10 6 0x0C00

/-- The geometry table of the block. -/
def tableRead (m : Memory) : Vector Placement 6 := Vector.ofFn fun i => placementOf (placeBytes m i)

theorem tableRead_get (m : Memory) (i : Fin 6) : (tableRead m)[i.1] = placementOf (placeBytes m i) := Vector.getElem_ofFn _

/-! ## The overlap pass -/

/-- Two rectangles that are not empty overlap when they share a point. -/
theorem overlaps_iff {a b : Rect} (ha : 0 < a.w ∧ 0 < a.h) (hb : 0 < b.w ∧ 0 < b.h) :
    a.overlaps b = true ↔ ∃ x y : Nat, a.contains x y = true ∧ b.contains x y = true := by
  simp only [Rect.overlaps, Rect.contains_iff, decide_eq_true_eq]
  refine ⟨fun h => ⟨max a.x b.x, max a.y b.y, by omega, by omega⟩, ?_⟩
  rintro ⟨x, y, h, h'⟩
  omega

/-- The entries of a pair are enabled and share a point. -/
def PairOverlaps (ps : Vector Placement 6) (i j : Fin 6) : Prop :=
  i < j ∧ ps[i.1].enabled = true ∧ ps[j.1].enabled = true ∧
    ∃ x y : Nat, ps[i.1].rect.contains x y = true ∧ ps[j.1].rect.contains x y = true

/-- The place of a pair of entries in the order of the pass. -/
def pairNo (q : Fin 6 × Fin 6) : Nat := 6 * q.1.1 + q.2.1

theorem mem_entryPairs {q : Fin 6 × Fin 6} : q ∈ entryPairs ↔ q.1 < q.2 := by
  simp only [entryPairs, List.mem_flatMap, List.mem_map, List.mem_filter, mem_ids, true_and, decide_eq_true_eq]
  exact ⟨fun ⟨i, j, hij, hq⟩ => hq ▸ hij, fun h => ⟨q.1, q.2, h, rfl⟩⟩

theorem entryPairs_sorted : entryPairs.Pairwise fun p q => pairNo p < pairNo q := by decide

theorem find?_eq_some_of_sorted {α : Type} {p : α → Bool} {no : α → Nat} {l : List α} (hs : l.Pairwise fun a b => no a < no b) {a : α}
    (ha : a ∈ l) (hp : p a = true) (hmin : ∀ b ∈ l, p b = true → no a ≤ no b) : l.find? p = some a := by
  induction l with
  | nil => cases ha
  | cons b l ih =>
    obtain ⟨hb, hs⟩ := List.pairwise_cons.1 hs
    cases hpb : p b with
    | true =>
      obtain rfl | ha := List.mem_cons.1 ha
      · exact List.find?_cons_of_pos hp
      · exact absurd (hmin b List.mem_cons_self hpb) (not_le.2 (hb a ha))
    | false =>
      have hne : a ≠ b := fun h => by rw [h, hpb] at hp; cases hp
      rw [List.find?_cons_of_neg (by rw [hpb]; nofun)]
      exact ih hs (List.mem_of_ne_of_mem hne ha) fun c hc => hmin c (List.mem_cons_of_mem _ hc)

/-- No enabled placement of the table is empty. -/
def TableSized (ps : Vector Placement 6) : Prop := ∀ i : Fin 6, 0 < ps[i.1].rect.w ∧ 0 < ps[i.1].rect.h

section
variable {ps : Vector Placement 6} (hps : TableSized ps)
include hps

theorem pairTest_iff {i j : Fin 6} (hij : i < j) :
    (ps[i.1].enabled && ps[j.1].enabled && ps[i.1].rect.overlaps ps[j.1].rect) = true ↔ PairOverlaps ps i j := by
  rw [Bool.and_eq_true, Bool.and_eq_true, overlaps_iff (hps i) (hps j), and_assoc]
  exact (and_iff_right hij).symm

theorem overlapPair_eq_some {i j : Fin 6} (h : PairOverlaps ps i j)
    (hmin : ∀ k l, PairOverlaps ps k l → i < k ∨ (i = k ∧ j ≤ l)) : overlapPair ps = some (i, j) := by
  refine find?_eq_some_of_sorted entryPairs_sorted (mem_entryPairs.2 h.1) ((pairTest_iff hps h.1).2 h) ?_
  rintro ⟨k, l⟩ hkl htest
  have hfirst := hmin k l ((pairTest_iff hps (mem_entryPairs.1 hkl)).1 htest)
  simp only [pairNo]
  omega

theorem overlapPair_eq_none (h : ∀ i j, ¬PairOverlaps ps i j) : overlapPair ps = none := by
  refine List.find?_eq_none.2 ?_
  rintro ⟨k, l⟩ hkl htest
  exact h k l ((pairTest_iff hps (mem_entryPairs.1 hkl)).1 htest)
end

/-! ## The command -/

section
variable {c : CellId} {p : List Byte} {s : State}

/-- An enabled entry of the table is of a screen that is not fitted. -/
def PlaceUnfitted (s : State) (i : Fin 6) : Prop := (tableRead s.xm.mem)[i.1].enabled = true ∧ s.straps.screens ≤ i.1

theorem unfittedTest_iff (i : Fin 6) :
    ((tableRead s.xm.mem)[i.1].enabled && !s.fittedScreen i) = true ↔ PlaceUnfitted s i := by
  rw [Bool.and_eq_true, Bool.not_eq_true', ← Bool.not_eq_true, fittedScreen_iff]
  exact and_congr_right fun _ => not_lt

theorem tableRead_eq :
    (Vector.ofFn fun i : Fin 6 => placementOf ((entriesOf 10 6 (s.xm.mem.block Config.placementBase 60)).getD i.1 [])) =
      tableRead s.xm.mem := by
  rw [placeEntries_eq]
  simp only [map_ids_getD, tableRead]

theorem ownLayoutLoad_of_refused {r : Result} {data : List Byte}
    (h : layoutRefusal s ((ids 6).map (placeBytes s.xm.mem)) (tableRead s.xm.mem) = some (r, data)) :
    ownLayoutLoad c p s = complete c r data s := by
  unfold ownLayoutLoad
  dsimp only
  rw [tableRead_eq, placeEntries_eq, h]

theorem ownLayoutLoad_of_taken (h : layoutRefusal s ((ids 6).map (placeBytes s.xm.mem)) (tableRead s.xm.mem) = none) :
    ownLayoutLoad c p s =
      complete c .ok (layoutData (applyLayout (tableRead s.xm.mem) s)) (applyLayout (tableRead s.xm.mem) s) := by
  unfold ownLayoutLoad
  dsimp only
  rw [tableRead_eq, placeEntries_eq, h]

theorem tableSized_of_range (hrange : ∀ i, ¬PlaceBeyond (placeBytes s.xm.mem i)) : TableSized (tableRead s.xm.mem) := by
  intro i
  have h := hrange i
  rw [tableRead_get]
  unfold PlaceBeyond at h
  simp only [Placement.rect]
  omega

theorem layoutRefusal_of_beyond {i : Fin 6} (hi : PlaceBeyond (placeBytes s.xm.mem i))
    (hlt : ∀ j < i, ¬PlaceBeyond (placeBytes s.xm.mem j)) :
    layoutRefusal s ((ids 6).map (placeBytes s.xm.mem)) (tableRead s.xm.mem) = some (.badParam, [byte i.1, 0xFF]) := by
  have hfail := firstFailure_ids_eq_some (ok := placementInRange) (f := placeBytes s.xm.mem) (i := i)
    (Bool.eq_false_iff.2 fun h => (placementInRange_iff _).1 h hi) fun j hj => (placementInRange_iff _).2 (hlt j hj)
  rw [layoutRefusal, hfail]

theorem layout_fitting_passes (hfit : ∀ i, ¬PlaceUnfitted s i) :
    ((ids 6).find? fun i => (tableRead s.xm.mem)[i.1].enabled && !s.fittedScreen i) = none :=
  find_ids_eq_none fun i h => hfit i ((unfittedTest_iff i).1 h)

section
variable (hrange : ∀ i, ¬PlaceBeyond (placeBytes s.xm.mem i))
include hrange

theorem layout_range_passes :
    firstFailure (fun i e => if placementInRange e then none else some i) 0 ((ids 6).map (placeBytes s.xm.mem)) = none :=
  firstFailure_ids_eq_none fun i => (placementInRange_iff _).2 (hrange i)

theorem layoutRefusal_of_unfitted {i : Fin 6} (hi : PlaceUnfitted s i) (hlt : ∀ j < i, ¬PlaceUnfitted s j) :
    layoutRefusal s ((ids 6).map (placeBytes s.xm.mem)) (tableRead s.xm.mem) = some (.notFitted, [byte i.1, 0xFF]) := by
  have hfind := find_ids_eq_some (p := fun i => (tableRead s.xm.mem)[i.1].enabled && !s.fittedScreen i) ((unfittedTest_iff i).2 hi)
    fun j hj h => hlt j hj ((unfittedTest_iff j).1 h)
  rw [layoutRefusal, layout_range_passes hrange]
  dsimp only
  rw [hfind]

variable (hfit : ∀ i, ¬PlaceUnfitted s i)
include hfit

theorem layoutRefusal_of_overlap {i j : Fin 6} (h : PairOverlaps (tableRead s.xm.mem) i j)
    (hmin : ∀ k l, PairOverlaps (tableRead s.xm.mem) k l → i < k ∨ (i = k ∧ j ≤ l)) :
    layoutRefusal s ((ids 6).map (placeBytes s.xm.mem)) (tableRead s.xm.mem) = some (.overlap, [byte i.1, byte j.1]) := by
  rw [layoutRefusal, layout_range_passes hrange]
  dsimp only
  rw [layout_fitting_passes hfit]
  dsimp only
  rw [overlapPair_eq_some (tableSized_of_range hrange) h hmin]

theorem layoutRefusal_of_taken (h : ∀ i j, ¬PairOverlaps (tableRead s.xm.mem) i j) :
    layoutRefusal s ((ids 6).map (placeBytes s.xm.mem)) (tableRead s.xm.mem) = none := by
  rw [layoutRefusal, layout_range_passes hrange]
  dsimp only
  rw [layout_fitting_passes hfit]
  dsimp only
  rw [overlapPair_eq_none (tableSized_of_range hrange) h]
end
end

end Sys2Proof.Machine
end

section
/-! PROOFS. Screens taking their placements in a LAYOUT_LOAD (R26, R91). -/

namespace Sys2Proof.Machine

open Sys2Proof

/-! ## What the report of a plan does to the cursor -/

/-- The cursor engine's record but for the cursor's current screen and tile is the same. -/
def SamePoint (s t : State) : Prop :=
  t.cur = { s.cur with cursor := { s.cur.cursor with screen := t.cur.cursor.screen, tile := t.cur.cursor.tile } }

theorem SamePoint.trans {s t u : State} (h : SamePoint s t) (g : SamePoint t u) : SamePoint s u := by
  unfold SamePoint at *
  rw [g, h]

theorem samePoint_of_cur {s t : State} (h : t.cur = s.cur) : SamePoint s t := by
  unfold SamePoint
  rw [h]

theorem planReportToCursor_rest (sc : ScreenId) (s : State) :
    SamePoint s (planReportToCursor sc s) ∧ (planReportToCursor sc s).tlines = s.tlines ∧ (planReportToCursor sc s).focus = s.focus := by
  rw [planReportToCursor_eq]
  split
  · split
    · dsimp only
      split
      · exact ⟨rfl, rfl, rfl⟩
      · exact ⟨rfl, rfl, rfl⟩
    · exact ⟨rfl, rfl, rfl⟩
  · exact ⟨rfl, rfl, rfl⟩

/-! ## An application in a load -/

/-- What an application of a staged plan, or the presentation alone, makes of the screens, the cursor, the lines and focus. -/
structure StagedTaken (sc : ScreenId) (s t : State) : Prop where
  screens : t.comp.screens = upd s.comp.screens sc ScreenRec.afterApply
  point : SamePoint s t
  tlines : t.tlines = s.tlines
  focus : t.focus = { s.focus with
    inbox := s.focus.inbox ++ if s.comp.screens[sc.1].staged.isSome then [.planInLoad sc] else [] }
  kept : Kept (modScreen sc ScreenRec.afterApply s) t
  entry : ∀ g, s.comp.screens[sc.1].staged = some g → ∀ d ∈ g.cells, t.xm.entry d = none

section
variable (sc : ScreenId) (g : Staged) (s : State)

theorem planCompleted_rest : (planCompleted sc g s).tlines = s.tlines ∧ (planCompleted sc g s).focus = s.focus := by
  have honly := completeAll_only g.cells .ok (planData sc) (planPresented sc g s)
  unfold planCompleted
  rw [honly]
  exact ⟨by simp only [planPresented, presentScreen]; rfl, by simp only [planPresented, presentScreen]; rfl⟩

theorem planTold_rest :
    (planTold sc true g s).tlines = s.tlines ∧
      (planTold sc true g s).focus = { s.focus with inbox := s.focus.inbox ++ [.planInLoad sc] } := by
  obtain ⟨htlines, hfocus⟩ := planCompleted_rest sc g s
  obtain ⟨-, hpfocus, hptlines, -, -⟩ := panelReport_rest
    (fun p => { p with view := { p.view with
      loaned := p.view.loaned.set sc.1 (!(noticeOf (.plans sc) (planCompleted sc g s)).comp.screens[sc.1].loans.isEmpty) sc.2,
      plans := p.view.plans.set sc.1 (noticeOf (.plans sc) (planCompleted sc g s)).comp.screens[sc.1].active sc.2 } })
    (noticeOf (.plans sc) (planCompleted sc g s))
  have hfocus' : (planToPanel sc (noticeOf (.plans sc) (planCompleted sc g s))).focus = s.focus := hpfocus.trans hfocus
  have htlines' : (planToPanel sc (noticeOf (.plans sc) (planCompleted sc g s))).tlines = s.tlines := hptlines.trans htlines
  unfold planTold
  rw [← hfocus']
  exact ⟨htlines', rfl⟩

theorem stagedTaken_applyStaged : StagedTaken sc s (applyStaged sc true s) := by
  have hkept := (below_applyStaged sc true s).kept
  cases h : s.comp.screens[sc.1].staged with
  | none =>
    have hsame : s.comp.screens[sc.1].afterApply = s.comp.screens[sc.1] := by simp only [ScreenRec.afterApply, h]
    rw [applyStaged_none true h] at *
    refine ⟨?_, samePoint_of_cur (presentScreen_cur sc s), ?_, ?_, hkept, fun g hg => ?_⟩
    · rw [upd_same _ _ _ hsame]
      exact Composer.present_screens _ _
    · dsimp only [presentScreen]
    · rw [presentScreen_focus, h]
      exact congrArg (fun l => { s.focus with inbox := l }) (List.append_nil _).symm
    · rw [h] at hg
      cases hg
  | some g =>
    have hafter : s.comp.screens[sc.1].afterApply = s.comp.screens[sc.1].applied g := by simp only [ScreenRec.afterApply, h]
    obtain ⟨hpoint, htlines, hfocus⟩ := planReportToCursor_rest sc (planTold sc true g s)
    obtain ⟨htlines', hfocus'⟩ := planTold_rest sc g s
    have hentry (d : CellId) (hd : d ∈ g.cells) : (applyStaged sc true s).xm.entry d = none :=
      (kept_planCompleted_applyStaged true h).entry_none (planCompleted_entry sc g s hd)
    have hscreens : (applyStaged sc true s).comp.screens = upd s.comp.screens sc ScreenRec.afterApply := by
      rw [applyStaged_comp true h, planPresented_screens, upd_congr hafter.symm]
    refine ⟨hscreens, ?_, ?_, ?_, hkept, fun g' hg => ?_⟩
    · rw [applyStaged_some true h]
      exact (samePoint_of_cur (planTold_cur ..)).trans hpoint
    · rw [applyStaged_some true h, htlines, htlines']
    · rw [applyStaged_some true h, hfocus, hfocus', h]
      rfl
    · obtain rfl := Option.some.inj (h.symm.trans hg)
      exact hentry
end

end Sys2Proof.Machine
end

section
/-! PROOFS. The placements of all screens in a LAYOUT_LOAD, taken in number order (R26, log 40). -/

namespace Sys2Proof.Machine

open Sys2Proof

/-- A screen's record with its frame boundary timing started by a placement. -/
def ScreenRec.timed (now refresh : Nat) (r : ScreenRec) : ScreenRec :=
  { r with state := .running, refresh := refresh, timingStart := some now, boundary := 1 }

/-- A screen's record DISABLED by a placement. -/
def ScreenRec.stopped (r : ScreenRec) : ScreenRec := { r with state := .disabled, timingStart := none }

/-- A screen's record after its placement. -/
def ScreenRec.placed (now : Nat) (p : Placement) (r : ScreenRec) : ScreenRec :=
  match r.state, p.enabled with
  | .unfitted, _ => r
  | .disabled, false => r
  | .disabled, true => r.timed now p.refresh
  | .running, true => r.timed now p.refresh
  | .running, false => r.stopped.afterApply

/-- A placement applies the staged plan of the screen. -/
def ScreenRec.ends (p : Placement) (r : ScreenRec) : Bool := decide (r.state = .running) && !p.enabled && r.staged.isSome

/-- What a screen's placement makes of the state. -/
structure ScreenPlaced (sc : ScreenId) (p : Placement) (s t : State) : Prop where
  screens : t.comp.screens = upd s.comp.screens sc (ScreenRec.placed s.now p)
  outer : t.outer = s.outer
  point : SamePoint s t
  tlines : t.tlines = s.tlines
  focus : t.focus = { s.focus with
    inbox := s.focus.inbox ++ if s.comp.screens[sc.1].ends p then [.planInLoad sc] else [] }
  above : ∀ a, 0x0C00 ≤ a → t.xm.mem.read a = s.xm.mem.read a
  inWork : t.xm.inWork.Sublist s.xm.inWork
  entry : s.comp.screens[sc.1].ends p = true → ∀ g, s.comp.screens[sc.1].staged = some g → ∀ d ∈ g.cells, t.xm.entry d = none

section
variable {sc : ScreenId} {p : Placement} {s : State}

/-- A placement whose screen takes no message for focus. -/
theorem screenPlaced_of_kept {f : ScreenRec → ScreenRec} {t : State} (h : Kept (modScreen sc f s) t)
    (hscreens : t.comp.screens = upd s.comp.screens sc f) (hf : f s.comp.screens[sc.1] = s.comp.screens[sc.1].placed s.now p)
    (hcur : t.cur = s.cur) (htlines : t.tlines = s.tlines) (hfocus : t.focus = s.focus) (hno : s.comp.screens[sc.1].ends p = false) :
    ScreenPlaced sc p s t where
  screens := hscreens.trans (upd_congr hf)
  outer := h.outer
  point := samePoint_of_cur hcur
  tlines := htlines
  focus := by
    rw [hno, hfocus]
    exact congrArg (fun l => { s.focus with inbox := l }) (List.append_nil _).symm
  above := h.above
  inWork := h.inWork
  entry := fun hends => by
    rw [hno] at hends
    cases hends

theorem modScreen_id (sc : ScreenId) (s : State) : modScreen sc id s = s := by
  unfold modScreen
  rw [upd_same _ _ _ rfl]

theorem screenPlaced_unchanged (hrec : s.comp.screens[sc.1].placed s.now p = s.comp.screens[sc.1])
    (hno : s.comp.screens[sc.1].ends p = false) : ScreenPlaced sc p s s :=
  screenPlaced_of_kept (f := id) ((modScreen_id sc s).symm ▸ Kept.refl s) (upd_same _ _ _ rfl).symm hrec.symm rfl rfl rfl hno

theorem screenPlaced_stopped (hrun : s.comp.screens[sc.1].state = .running) (hoff : p.enabled = false) :
    ScreenPlaced sc p s (applyStaged sc true (noticeOf (.plans sc) (modScreen sc ScreenRec.stopped s))) := by
  have hnotice := kept_noticeOf (.plans sc) (modScreen sc ScreenRec.stopped s)
  have hscreens : (noticeOf (.plans sc) (modScreen sc ScreenRec.stopped s)).comp.screens = upd s.comp.screens sc ScreenRec.stopped := rfl
  have hstaged : (upd s.comp.screens sc ScreenRec.stopped)[sc.1].staged = s.comp.screens[sc.1].staged := by
    rw [upd_self]
    rfl
  have hends : s.comp.screens[sc.1].ends p = s.comp.screens[sc.1].staged.isSome := by
    unfold ScreenRec.ends
    rw [hrun, hoff]
    rfl
  obtain ⟨hafter, hpoint, htlines, hfocus, hkept, hentry⟩ :=
    stagedTaken_applyStaged sc (noticeOf (.plans sc) (modScreen sc ScreenRec.stopped s))
  have hcur : SamePoint s (noticeOf (.plans sc) (modScreen sc ScreenRec.stopped s)) := rfl
  have hmem : (noticeOf (.plans sc) (modScreen sc ScreenRec.stopped s)).tlines = s.tlines ∧
      (noticeOf (.plans sc) (modScreen sc ScreenRec.stopped s)).focus = s.focus := ⟨rfl, rfl⟩
  generalize noticeOf (.plans sc) (modScreen sc ScreenRec.stopped s) = v at *
  rw [hscreens, upd_upd] at hafter
  simp only [hscreens, hstaged] at hfocus hentry
  refine ⟨hafter.trans (upd_congr ?_), hkept.outer.trans hnotice.outer, hcur.trans hpoint, htlines.trans hmem.1, ?_,
    fun a ha => (hkept.above a ha).trans (hnotice.above a ha), hkept.inWork.trans hnotice.inWork, fun _ => hentry⟩
  · unfold ScreenRec.placed
    rw [hrun, hoff]
  · rw [hfocus, hmem.2, hends]

/-- A screen that keeps or gets its timing. -/
theorem screenPlaced_timed {t : State} (hst : s.comp.screens[sc.1].state ≠ .unfitted) (hon : p.enabled = true)
    (h : Kept (modScreen sc (ScreenRec.timed s.now p.refresh) s) t)
    (hscreens : t.comp.screens = upd s.comp.screens sc (ScreenRec.timed s.now p.refresh))
    (hcur : t.cur = s.cur) (htlines : t.tlines = s.tlines) (hfocus : t.focus = s.focus) : ScreenPlaced sc p s t := by
  refine screenPlaced_of_kept h hscreens ?_ hcur htlines hfocus ?_
  · unfold ScreenRec.placed
    rw [hon]
    cases hstate : s.comp.screens[sc.1].state with
    | unfitted => exact absurd hstate hst
    | disabled | running => rfl
  · unfold ScreenRec.ends
    rw [hon, Bool.not_true, Bool.and_false, Bool.false_and]

theorem screenPlacement_unfitted (e : Bool) (n : Nat) (hst : s.comp.screens[sc.1].state = .unfitted) : screenPlacement sc e n s = s := by
  unfold screenPlacement
  rw [hst]

theorem screenPlacement_disabled_off (n : Nat) (hst : s.comp.screens[sc.1].state = .disabled) : screenPlacement sc false n s = s := by
  unfold screenPlacement
  rw [hst]

theorem screenPlacement_disabled_on (n : Nat) (hst : s.comp.screens[sc.1].state = .disabled) :
    screenPlacement sc true n s = noticeOf (.plans sc) (modScreen sc (ScreenRec.timed s.now n) s) := by
  unfold screenPlacement
  rw [hst]
  rfl

theorem screenPlacement_running_off (n : Nat) (hst : s.comp.screens[sc.1].state = .running) :
    screenPlacement sc false n s = applyStaged sc true (noticeOf (.plans sc) (modScreen sc ScreenRec.stopped s)) := by
  unfold screenPlacement
  rw [hst]
  rfl

theorem screenPlacement_running_on (n : Nat) (hst : s.comp.screens[sc.1].state = .running) :
    screenPlacement sc true n s = modScreen sc (ScreenRec.timed s.now n) s := by
  have hsame : s.comp.screens[sc.1].startTiming s.now n = s.comp.screens[sc.1].timed s.now n := by
    unfold ScreenRec.startTiming ScreenRec.timed
    rw [hst]
  unfold screenPlacement
  rw [hst]
  unfold modScreen
  dsimp only
  rw [upd_congr hsame]

theorem screenPlaced (sc : ScreenId) (p : Placement) (s : State) : ScreenPlaced sc p s (screenPlacement sc p.enabled p.refresh s) := by
  have hno (h : s.comp.screens[sc.1].state ≠ .running) : s.comp.screens[sc.1].ends p = false := by
    unfold ScreenRec.ends
    rw [decide_eq_false h]
    rfl
  cases hst : s.comp.screens[sc.1].state with
  | unfitted =>
    rw [screenPlacement_unfitted _ _ hst]
    exact screenPlaced_unchanged (by unfold ScreenRec.placed; rw [hst]) (hno (by rw [hst]; nofun))
  | disabled =>
    cases hen : p.enabled with
    | false =>
      rw [screenPlacement_disabled_off _ hst]
      exact screenPlaced_unchanged (by unfold ScreenRec.placed; rw [hst, hen]) (hno (by rw [hst]; nofun))
    | true =>
      rw [screenPlacement_disabled_on _ hst]
      exact screenPlaced_timed (by rw [hst]; nofun) hen (kept_noticeOf _ _) rfl rfl rfl rfl
  | running =>
    cases hen : p.enabled with
    | false =>
      rw [screenPlacement_running_off _ hst]
      exact screenPlaced_stopped hst hen
    | true =>
      rw [screenPlacement_running_on _ hst]
      exact screenPlaced_timed (by rw [hst]; nofun) hen (Kept.refl _) rfl rfl rfl rfl
end

/-! ## All screens -/

/-- What the placements of the screens of a list make of the state. -/
structure ListPlaced (ps : Vector Placement 6) (l : List ScreenId) (s t : State) : Prop where
  screens : ∀ j : ScreenId, t.comp.screens[j.1] =
    if j ∈ l then s.comp.screens[j.1].placed s.now ps[j.1] else s.comp.screens[j.1]
  outer : t.outer = s.outer
  point : SamePoint s t
  tlines : t.tlines = s.tlines
  focus : t.focus = { s.focus with
    inbox := s.focus.inbox ++ (l.filter fun sc => s.comp.screens[sc.1].ends ps[sc.1]).map .planInLoad }
  above : ∀ a, 0x0C00 ≤ a → t.xm.mem.read a = s.xm.mem.read a
  inWork : t.xm.inWork.Sublist s.xm.inWork
  entry : ∀ sc ∈ l, s.comp.screens[sc.1].ends ps[sc.1] = true →
    ∀ g, s.comp.screens[sc.1].staged = some g → ∀ d ∈ g.cells, t.xm.entry d = none

/-- A screen's placement from a table. -/
def placeScreen (ps : Vector Placement 6) (s : State) (sc : ScreenId) : State := screenPlacement sc ps[sc.1].enabled ps[sc.1].refresh s

theorem listPlaced_nil (ps : Vector Placement 6) (s : State) : ListPlaced ps [] s s where
  screens := fun _ => (if_neg List.not_mem_nil).symm
  outer := rfl
  point := rfl
  tlines := rfl
  focus := congrArg (fun l => { s.focus with inbox := l }) (List.append_nil _).symm
  above := fun _ _ => rfl
  inWork := List.Sublist.refl _
  entry := fun _ h => absurd h List.not_mem_nil

theorem ListPlaced.cons {ps : Vector Placement 6} {k : ScreenId} {l : List ScreenId} {s t u : State} (hk : k ∉ l)
    (h : ScreenPlaced k ps[k.1] s t) (g : ListPlaced ps l t u) : ListPlaced ps (k :: l) s u := by
  have hnow : t.now = s.now := congrArg (·.2.1) h.outer
  have hother (j : ScreenId) (hj : j ≠ k) : t.comp.screens[j.1] = s.comp.screens[j.1] := by
    simp only [h.screens, upd_ne _ _ _ _ hj.symm]
  have hin (j : ScreenId) (hj : j ∈ l) : t.comp.screens[j.1] = s.comp.screens[j.1] := hother j fun e => hk (e ▸ hj)
  refine ⟨fun j => ?screens, g.outer.trans h.outer, h.point.trans g.point, g.tlines.trans h.tlines, ?focus,
    fun a ha => (g.above a ha).trans (h.above a ha), g.inWork.trans h.inWork, fun j hj hends pl hpl d hd => ?entry⟩
  case screens =>
    rw [g.screens, hnow]
    by_cases hjk : j = k
    · subst hjk
      rw [if_neg hk, if_pos List.mem_cons_self]
      simp only [h.screens, upd_self]
    · rw [hother j hjk]
      exact if_congr (by rw [List.mem_cons, or_iff_right hjk]) rfl rfl
  case focus =>
    have hfilter : (l.filter fun sc => t.comp.screens[sc.1].ends ps[sc.1]) = l.filter fun sc => s.comp.screens[sc.1].ends ps[sc.1] :=
      List.filter_congr fun j hj => by rw [hin j hj]
    rw [g.focus, h.focus, hfilter]
    refine congrArg (fun l => { s.focus with inbox := l }) ?_
    dsimp only
    rw [List.filter_cons, List.append_assoc]
    split
    · rfl
    · rfl
  case entry =>
    obtain rfl | hj := List.mem_cons.1 hj
    · exact entry_none_of_sublist _ _ g.inWork d (h.entry hends pl hpl d hd)
    · rw [← hin j hj] at hends hpl
      exact g.entry j hj hends pl hpl d hd

theorem listPlaced_foldl (ps : Vector Placement 6) {l : List ScreenId} (hl : l.Nodup) (s : State) :
    ListPlaced ps l s (l.foldl (placeScreen ps) s) := by
  induction l generalizing s with
  | nil => exact listPlaced_nil ps s
  | cons k l ih =>
    obtain ⟨hk, hl⟩ := List.nodup_cons.1 hl
    exact .cons hk (screenPlaced k ps[k.1] s) (ih hl _)

end Sys2Proof.Machine
end

section
/-! PROOFS. The cursor re-placed by a LAYOUT_LOAD, and what the whole load makes of the state (R26). -/

namespace Sys2Proof.Machine

open Sys2Proof

/-- The screen is enabled and holds the point. -/
def State.Inside (s : State) (sc : ScreenId) (x y : Nat) : Prop :=
  s.cur.geo[sc.1].enabled = true ∧ s.cur.geo[sc.1].rect.contains x y = true

theorem locate_none {s : State} {x y : Nat} (h : ∀ sc, ¬s.Inside sc x y) : s.locate x y = none := by
  rw [locate_eq]
  refine findSome_ids_eq_none fun sc => ?_
  rw [if_neg fun hin => h sc (Bool.and_eq_true_iff.1 hin)]

/-- The cursor stands in a tile of the screen. -/
def State.Located (s : State) (sc : ScreenId) : Prop :=
  s.cur.cursor.screen = some sc ∧
    ∃ r, s.tileRect sc s.cur.cursor.tile = some r ∧ r.contains s.cur.cursor.x s.cur.cursor.y = true

/-- What the re-placement makes of the cursor, where no two enabled screens share a point. -/
structure CursorReplaced (s t : State) : Prop where
  only : t = { s with cur := { s.cur with cursor := t.cur.cursor } }
  rest : t.cur.cursor.rx = s.cur.cursor.rx ∧ t.cur.cursor.ry = s.cur.cursor.ry ∧ t.cur.cursor.dwell = s.cur.cursor.dwell
  inside : ∀ sc, s.Inside sc s.cur.cursor.x s.cur.cursor.y →
    t.cur.cursor.x = s.cur.cursor.x ∧ t.cur.cursor.y = s.cur.cursor.y ∧ t.Located sc
  centre : (∀ sc, ¬s.Inside sc s.cur.cursor.x s.cur.cursor.y) → ∀ sc, s.Lowest sc →
    t.cur.cursor.x = s.cur.geo[sc.1].x + s.cur.geo[sc.1].w / 2 ∧ t.cur.cursor.y = s.cur.geo[sc.1].y + s.cur.geo[sc.1].h / 2 ∧ t.Located sc
  nowhere : (∀ sc : ScreenId, s.cur.geo[sc.1].enabled = false) →
    t.cur.cursor.x = s.cur.cursor.x ∧ t.cur.cursor.y = s.cur.cursor.y ∧ t.cur.cursor.screen = none

/-- The location of the cursor's point leaves all but the current screen and tile. -/
structure CursorMoved (s t : State) : Prop where
  only : t = { s with cur := { s.cur with cursor := t.cur.cursor } }
  rest : t.cur.cursor.rx = s.cur.cursor.rx ∧ t.cur.cursor.ry = s.cur.cursor.ry ∧ t.cur.cursor.dwell = s.cur.cursor.dwell
  x : t.cur.cursor.x = s.cur.cursor.x
  y : t.cur.cursor.y = s.cur.cursor.y

theorem cursorMoved_relocate (s : State) : CursorMoved s (relocate s) := by
  obtain ⟨sc, i, -, h⟩ | ⟨-, h⟩ := relocate_cases s
  · rw [h]
    exact ⟨rfl, ⟨rfl, rfl, rfl⟩, rfl, rfl⟩
  · rw [h]
    exact ⟨rfl, ⟨rfl, rfl, rfl⟩, rfl, rfl⟩

section
variable {s : State}

theorem replaceCursor_of_under {p : ScreenId × Fin 4} (h : s.underCursor = some p) : replaceCursor s = relocate s := by
  unfold replaceCursor
  rw [h]

theorem replaceCursor_of_lowest {sc : ScreenId} (h : s.underCursor = none) (hl : s.lowestEnabled = some sc) :
    replaceCursor s = centreOn sc s := by
  unfold replaceCursor
  rw [h]
  dsimp only
  rw [hl]

theorem replaceCursor_of_none (h : s.underCursor = none) (hl : s.lowestEnabled = none) :
    replaceCursor s = modCursor (fun c => { c with screen := none }) s := by
  unfold replaceCursor
  rw [h]
  dsimp only
  rw [hl]

/-- No two enabled screens share a point. -/
def State.Disjoint (s : State) : Prop := ∀ (x y : Nat) (i j : ScreenId), s.Inside i x y → s.Inside j x y → i = j

/-- The cursor's point in an enabled screen is located there. -/
theorem underCursor_of_inside (hs : s.Disjoint) {sc : ScreenId} (h : s.Inside sc s.cur.cursor.x s.cur.cursor.y) :
    ∃ i a, s.underCursor = some (sc, i) ∧ s.tileRect sc i = some a ∧ a.contains s.cur.cursor.x s.cur.cursor.y = true := by
  refine locate_in_screen h.1 h.2 fun j hj hen => Bool.eq_false_iff.2 fun hin => ?_
  exact absurd (hs _ _ j sc ⟨hen, hin⟩ h) (ne_of_lt hj)

theorem located_of_under {sc : ScreenId} {i : Fin 4} {a : Rect} (hu : s.underCursor = some (sc, i)) (ha : s.tileRect sc i = some a)
    (hin : a.contains s.cur.cursor.x s.cur.cursor.y = true) : (relocate s).Located sc := by
  rw [relocate_of_located hu]
  exact ⟨rfl, a, ha, hin⟩

/-- The state with the cursor's point at the centre of a screen, before it is located. -/
def centredPoint (sc : ScreenId) (s : State) : State :=
  modCursor (fun c => { c with x := s.cur.geo[sc.1].rect.centre.1, y := s.cur.geo[sc.1].rect.centre.2 }) s

theorem centreOn_located {sc : ScreenId} (hl : s.Lowest sc) (hsize : TableSized s.cur.geo) :
    ∃ i a, (centredPoint sc s).underCursor = some (sc, i) ∧ (centredPoint sc s).tileRect sc i = some a ∧
      a.contains (centredPoint sc s).cur.cursor.x (centredPoint sc s).cur.cursor.y = true := by
  obtain ⟨hw, hh⟩ := hsize sc
  exact locate_centre hl hw hh

theorem cursorReplaced (hs : s.Disjoint) (hsize : TableSized s.cur.geo) : CursorReplaced s (replaceCursor s) := by
  by_cases hin : ∃ sc, s.Inside sc s.cur.cursor.x s.cur.cursor.y
  · obtain ⟨sc, hsc⟩ := hin
    obtain ⟨i, a, hu, ha, hain⟩ := underCursor_of_inside hs hsc
    obtain ⟨honly, hrest, hx, hy⟩ := cursorMoved_relocate s
    rw [replaceCursor_of_under hu]
    refine ⟨honly, hrest, fun j hj => ?_, fun h => absurd hsc (h sc), fun h => ?_⟩
    · obtain rfl := hs _ _ j sc hj hsc
      exact ⟨hx, hy, located_of_under hu ha hain⟩
    · exact absurd hsc.1 (Bool.eq_false_iff.1 (h sc))
  · push Not at hin
    have hu : s.underCursor = none := locate_none hin
    cases hl : s.lowestEnabled with
    | none =>
      rw [replaceCursor_of_none hu hl]
      refine ⟨rfl, ⟨rfl, rfl, rfl⟩, fun sc hsc => absurd hsc (hin sc), fun _ sc hsc => ?_, fun _ => ⟨rfl, rfl, rfl⟩⟩
      rw [lowestEnabled_of hsc] at hl
      cases hl
    | some sc =>
      have hlowest (j : ScreenId) (hj : s.Lowest j) : j = sc := Option.some.inj ((lowestEnabled_of hj).symm.trans hl)
      have henabled : s.cur.geo[sc.1].enabled = true := List.find?_some (p := fun sc : ScreenId => s.cur.geo[sc.1].enabled) hl
      have hcentre : replaceCursor s = relocate (centredPoint sc s) := replaceCursor_of_lowest hu hl
      rw [hcentre]
      obtain ⟨honly, hrest, hx, hy⟩ : CursorMoved (centredPoint sc s) (relocate (centredPoint sc s)) := cursorMoved_relocate _
      refine ⟨honly, hrest, fun j hj => absurd hj (hin j), fun _ j hj => ?_, fun h => absurd henabled (Bool.eq_false_iff.1 (h sc))⟩
      obtain rfl := hlowest j hj
      obtain ⟨i, a, hunder, ha, hain⟩ := centreOn_located hj hsize
      exact ⟨hx, hy, located_of_under hunder ha hain⟩
end

end Sys2Proof.Machine
end

section
/-! PROOFS. O27: what a LAYOUT_LOAD does (R25, R26). -/

namespace Sys2Proof.Machine

open Sys2Proof

/-! ## A screen's record after its placement -/

section
variable {r : ScreenRec} {p : Placement} (now : Nat)

theorem placed_unchanged (h : r.state = .unfitted ∨ r.state = .disabled ∧ p.enabled = false) : r.placed now p = r := by
  unfold ScreenRec.placed
  obtain h | ⟨h, hoff⟩ := h
  · rw [h]
  · rw [h, hoff]

theorem placed_timed (h : r.state ≠ .unfitted) (hon : p.enabled = true) : r.placed now p = r.timed now p.refresh := by
  unfold ScreenRec.placed
  rw [hon]
  cases hst : r.state with
  | unfitted => exact absurd hst h
  | disabled | running => rfl

theorem placed_stopped (h : r.state = .running) (hoff : p.enabled = false) : r.placed now p = r.stopped.afterApply := by
  unfold ScreenRec.placed
  rw [h, hoff]

theorem afterApply_state (r : ScreenRec) : r.afterApply.state = r.state := by
  unfold ScreenRec.afterApply
  split
  · rfl
  · rfl

theorem placed_state :
    (r.placed now p).state = if r.state = .unfitted then .unfitted else if p.enabled then .running else .disabled := by
  cases hon : p.enabled with
  | true =>
    by_cases h : r.state = .unfitted
    · rw [placed_unchanged now (.inl h), h, if_pos rfl]
    · rw [placed_timed now h hon, if_neg h]
      rfl
  | false =>
    cases h : r.state with
    | unfitted => rw [placed_unchanged now (.inl h), h, if_pos rfl]
    | disabled =>
      rw [placed_unchanged now (.inr ⟨h, hon⟩), h]
      rfl
    | running =>
      rw [placed_stopped now h hon, afterApply_state]
      rfl
end

theorem stopped_unstaged {r : ScreenRec} (h : r.staged = none) : r.stopped.afterApply = r.stopped := by
  have hnone : r.stopped.staged = none := h
  unfold ScreenRec.afterApply
  rw [hnone]

theorem stopped_staged {r : ScreenRec} {g : Staged} (h : r.staged = some g) :
    r.stopped.afterApply = { r.stopped with
      loans := g.loansAfter, ret := if g.loansAfter = [] then none else some (r.ret.getD r.active),
      active := g.plan, home := if g.home then g.plan else r.home, staged := none } := by
  have hsome : r.stopped.staged = some g := h
  unfold ScreenRec.afterApply
  rw [hsome]
  exact applied_eq r.stopped g

/-! ## The load -/

/-- The table taken and its placements given to the screens. -/
def screensPlaced (ps : Vector Placement 6) (s : State) : State :=
  (ids 6).foldl (placeScreen ps) { s with cur := { s.cur with geo := ps } }

/-- The cursor re-placed after that. -/
def layoutPlaced (ps : Vector Placement 6) (s : State) : State := replaceCursor (modCursor Cursor.still (screensPlaced ps s))

/-- The load done, before its command completes. -/
def layoutTaken (ps : Vector Placement 6) (s : State) : State := rewriteMirror .cursor (settle (post .geometry (layoutPlaced ps s)))

theorem applyLayout_eq (ps : Vector Placement 6) (s : State) : applyLayout ps s = layoutTaken ps s := rfl

theorem kept_layoutPlaced (ps : Vector Placement 6) (s : State) : Kept (screensPlaced ps s) (layoutPlaced ps s) :=
  (kept_modCursor _ _ fun c _ => c.still_bounded).trans (kept_replaceCursor _)

theorem kept_layoutTaken (ps : Vector Placement 6) (s : State) : Kept (layoutPlaced ps s) (layoutTaken ps s) :=
  ((kept_post _ _).trans (kept_settle _)).trans (kept_rewriteMirror _ _)

theorem screensPlaced_spec (ps : Vector Placement 6) (s : State) :
    ListPlaced ps (ids 6) { s with cur := { s.cur with geo := ps } } (screensPlaced ps s) :=
  listPlaced_foldl ps (List.nodup_finRange 6) _

theorem foldl_congr_of_inv {α β : Type} {inv : β → Prop} {f g : β → α → β} (hinv : ∀ s a, inv s → inv (g s a))
    (h : ∀ s a, inv s → f s a = g s a) (l : List α) {s : β} (hs : inv s) : l.foldl f s = l.foldl g s := by
  induction l generalizing s with
  | nil => rfl
  | cons a l ih =>
    rw [List.foldl_cons, List.foldl_cons, h s a hs]
    exact ih (hinv s a hs)

theorem placeScreen_now (ps : Vector Placement 6) (s : State) (sc : ScreenId) : (placeScreen ps s sc).now = s.now :=
  congrArg (·.2.1) (screenPlaced sc ps[sc.1] s).outer

end Sys2Proof.Machine
end

section
/-! PROOFS. O27: LAYOUT_LOAD (R25, R26). -/

namespace Sys2Proof.Machine

open Sys2Proof

/-- What the re-placement of the cursor makes of a state `v` whose screens have taken their placements from a table, where no two enabled entries share a point. -/
structure LayoutPlaced (ps : Vector Placement 6) (s v t : State) : Prop where
  kept : Kept v t
  only : t = { v with cur := { v.cur with cursor := t.cur.cursor } }
  still : t.cur.cursor.rx = 0 ∧ t.cur.cursor.ry = 0 ∧ t.cur.cursor.dwell = .clear
  geo : t.cur.geo = ps
  inside : ∀ sc : ScreenId, ps[sc.1].enabled = true ∧ ps[sc.1].rect.contains s.cur.cursor.x s.cur.cursor.y = true →
    t.cur.cursor.x = s.cur.cursor.x ∧ t.cur.cursor.y = s.cur.cursor.y ∧ t.Located sc
  centre : (∀ sc : ScreenId, ¬(ps[sc.1].enabled = true ∧ ps[sc.1].rect.contains s.cur.cursor.x s.cur.cursor.y = true)) →
    ∀ sc : ScreenId, ps[sc.1].enabled = true → (∀ j < sc, ps[j.1].enabled = false) →
      t.cur.cursor.x = ps[sc.1].x + ps[sc.1].w / 2 ∧ t.cur.cursor.y = ps[sc.1].y + ps[sc.1].h / 2 ∧ t.Located sc
  nowhere : (∀ sc : ScreenId, ps[sc.1].enabled = false) →
    t.cur.cursor.x = s.cur.cursor.x ∧ t.cur.cursor.y = s.cur.cursor.y ∧ t.cur.cursor.screen = none

section
variable {ps : Vector Placement 6} {s : State}

theorem disjoint_of_pairs (h : ∀ i j, ¬PairOverlaps ps i j) {v : State} (hgeo : v.cur.geo = ps) : v.Disjoint := by
  intro x y i j hi hj
  unfold State.Inside at hi hj
  rw [hgeo] at hi hj
  obtain hlt | heq | hlt := lt_trichotomy i j
  · exact absurd ⟨hlt, hi.1, hj.1, x, y, hi.2, hj.2⟩ (h i j)
  · exact heq
  · exact absurd ⟨hlt, hj.1, hi.1, x, y, hj.2, hi.2⟩ (h j i)

theorem layoutPlaced_spec (hsize : TableSized ps) (h : ∀ i j, ¬PairOverlaps ps i j) :
    LayoutPlaced ps s (screensPlaced ps s) (layoutPlaced ps s) := by
  have hpoint := (screensPlaced_spec ps s).point
  have hkept := kept_layoutPlaced ps s
  unfold layoutPlaced at *
  generalize screensPlaced ps s = v at *
  unfold SamePoint at hpoint
  have hgeo : (modCursor Cursor.still v).cur.geo = ps := congrArg CursorEngine.geo hpoint
  have hx : (modCursor Cursor.still v).cur.cursor.x = s.cur.cursor.x := congrArg (fun c => c.cursor.x) hpoint
  have hy : (modCursor Cursor.still v).cur.cursor.y = s.cur.cursor.y := congrArg (fun c => c.cursor.y) hpoint
  obtain ⟨honly, hrest, hinside, hcentre, hnowhere⟩ :=
    cursorReplaced (s := modCursor Cursor.still v) (disjoint_of_pairs h hgeo) (hgeo.symm ▸ hsize)
  unfold State.Inside at hinside hcentre
  unfold State.Lowest at hcentre
  simp only [hgeo, hx, hy] at hinside hcentre hnowhere
  have hreplaced : (replaceCursor (modCursor Cursor.still v)).cur.geo = ps := by
    rw [honly]
    exact hgeo
  exact ⟨hkept, honly, hrest, hreplaced, hinside, fun hno sc hen hlt => hcentre hno sc ⟨hen, hlt⟩, hnowhere⟩
end

/-- Settles O27, through the passes of `layoutRefusal`, the screens' placements in number order and the re-placed cursor. -/
theorem layoutLoadChecksThenApplies : Obligations.LayoutLoadChecksThenApplies := by
  unfold Obligations.LayoutLoadChecksThenApplies
  intro t c s hready u at8' at16' entry outOfRange unfitted overlap
  have hb (i : Fin 6) {j : Nat} (hj : j < 10) : (at8 (placeBytes u.xm.mem i) j).toNat = at8' i j := by
    rw [placeBytes, block_at8 _ _ _ _ hj, take_read_above c (s.advance t) (by omega)]
    rfl
  have hw (i : Fin 6) {j : Nat} (hj : j + 1 < 10) : at16 (placeBytes u.xm.mem i) j = at16' i j := by
    rw [at16, hb i (show j < 10 by omega), hb i hj]
  have hentry (i : Fin 6) : placementOf (placeBytes u.xm.mem i) = entry i := by
    have henabled : decide (at8 (placeBytes u.xm.mem i) 0 = 1) = decide (at8' i 0 = 1) :=
      decide_eq_decide.2 (by rw [← hb i (show 0 < 10 by omega), toNat_eq_one_iff])
    unfold placementOf
    rw [henabled, hb i (show 1 < 10 by omega), hw i (show 2 + 1 < 10 by omega), hw i (show 4 + 1 < 10 by omega),
      hw i (show 6 + 1 < 10 by omega), hw i (show 8 + 1 < 10 by omega)]
  have htable : tableRead u.xm.mem = Vector.ofFn entry := congrArg Vector.ofFn (funext hentry)
  have hget (i : Fin 6) : (tableRead u.xm.mem)[i.1] = entry i := (tableRead_get ..).trans (hentry i)
  have hbeyond (i : Fin 6) : PlaceBeyond (placeBytes u.xm.mem i) ↔ outOfRange i := by
    unfold PlaceBeyond
    rw [hentry, hb i (show 0 < 10 by omega)]
  have hunfitted (i : Fin 6) : PlaceUnfitted u i ↔ unfitted i := by
    unfold PlaceUnfitted
    rw [hget]
    rfl
  have hoverlap (i j : Fin 6) : PairOverlaps (tableRead u.xm.mem) i j ↔ overlap i j := by
    unfold PairOverlaps
    rw [hget, hget]
  have hexec : exec (.layoutLoad t c) s = .next (settle (ownLayoutLoad c (s.cellParams c) u)) := takeCell_ready hready
  have hrefused {r : Result} {data : List Byte}
      (h : layoutRefusal u ((ids 6).map (placeBytes u.xm.mem)) (tableRead u.xm.mem) = some (r, data)) :
      exec (.layoutLoad t c) s = .next (complete c r data u) := by
    have hempty : (complete c r data u).focus.inbox = [] := (congrArg Focus.inbox (complete_focus ..)).trans hready.1.2
    rw [hexec, ownLayoutLoad_of_refused h, settle_of_empty _ hempty]
  refine ⟨fun i hi hlt => ?range, fun hrange => ?inRange⟩
  case range => exact hrefused (layoutRefusal_of_beyond ((hbeyond i).2 hi) fun j hj h => hlt j hj ((hbeyond j).1 h))
  have hrange' (i : Fin 6) : ¬PlaceBeyond (placeBytes u.xm.mem i) := fun h => hrange i ((hbeyond i).1 h)
  refine ⟨fun i hi hlt => ?fitting, fun hfit => ?fitted⟩
  case fitting =>
    exact hrefused (layoutRefusal_of_unfitted hrange' ((hunfitted i).2 hi) fun j hj h => hlt j hj ((hunfitted j).1 h))
  have hfit' (i : Fin 6) : ¬PlaceUnfitted u i := fun h => hfit i ((hunfitted i).1 h)
  refine ⟨fun i j hij hmin => ?overlapping, fun hno => ?taken⟩
  case overlapping =>
    exact hrefused (layoutRefusal_of_overlap hrange' hfit' ((hoverlap i j).2 hij) fun k l h => hmin k l ((hoverlap k l).1 h))
  have hno' (i j : Fin 6) : ¬PairOverlaps (tableRead u.xm.mem) i j := fun h => hno i j ((hoverlap i j).1 h)
  have htaken := ownLayoutLoad_of_taken (c := c) (p := s.cellParams c) (layoutRefusal_of_taken hrange' hfit' hno')
  rw [applyLayout_eq] at htaken
  have hspec : LayoutPlaced (tableRead u.xm.mem) u (screensPlaced (tableRead u.xm.mem) u) (layoutPlaced (tableRead u.xm.mem) u) :=
    layoutPlaced_spec (tableSized_of_range hrange') hno'
  have hlist := screensPlaced_spec (tableRead u.xm.mem) u
  have hkept := kept_layoutTaken (tableRead u.xm.mem) u
  have htold : (ids 6).foldl (placeScreen (tableRead u.xm.mem)) { u with cur := { u.cur with geo := tableRead u.xm.mem } } =
      screensPlaced (tableRead u.xm.mem) u := rfl
  have hdone : exec (.layoutLoad t c) s =
      .next (complete c .ok (layoutData (layoutTaken (tableRead u.xm.mem) u)) (layoutTaken (tableRead u.xm.mem) u)) := by
    rw [hexec, htaken]
    exact congrArg _ (settle_of_empty _ (congrArg Focus.inbox (complete_focus ..)))
  have hlayout : layoutTaken (tableRead u.xm.mem) u =
      rewriteMirror .cursor (settle (post .geometry (layoutPlaced (tableRead u.xm.mem) u))) := rfl
  generalize tableRead u.xm.mem = ps at *
  subst htable
  generalize screensPlaced (Vector.ofFn entry) u = v at *
  generalize layoutTaken (Vector.ofFn entry) u = w at *
  generalize layoutPlaced (Vector.ofFn entry) u = placed at *
  have hcomp : placed.comp = v.comp := by rw [hspec.only]
  have hrecord (sc : ScreenId) : placed.comp.screens[sc.1] = s.comp.screens[sc.1].placed u.now (entry sc) := by
    rw [hcomp, hlist.screens, if_pos (mem_ids sc), hget]
    rfl
  have htiming (sc : ScreenId) : w.comp.screens[sc.1].timing = placed.comp.screens[sc.1].timing := (hkept.screens sc).timing
  refine ⟨placed, w, hdone, hlayout, ⟨?told, fun sc => ?screens, ?tlines, ?focus, hspec.geo, hspec.still.1, hspec.still.2.1, hspec.still.2.2,
    fun sc hsc => ?inside, fun hnone => ⟨fun sc hen hlt => ?centre, fun hoff => ?nowhere⟩⟩, ?geo, ?outer, fun sc => ?state,
    fun sc hst hen => ?timing, fun a ha => ?above⟩
  case told =>
    refine hspec.only.trans (congrArg (fun x : State => { x with cur := { x.cur with cursor := placed.cur.cursor } }) ?_)
    rw [← htold]
    refine (foldl_congr_of_inv (inv := fun x => x.now = u.now) (fun x sc hx => (placeScreen_now _ x sc).trans hx) (fun x sc hx => ?_) (ids 6)
      rfl).symm
    have hplace : placeScreen (Vector.ofFn entry) x sc = screenPlacement sc (entry sc).enabled (entry sc).refresh x := by
      unfold placeScreen
      rw [hget]
    rw [hplace]
    cases hst : x.comp.screens[sc.1].state with
    | unfitted => exact (screenPlacement_unfitted _ _ hst).symm
    | disabled =>
      cases hen : (entry sc).enabled with
      | false => exact (screenPlacement_disabled_off _ hst).symm
      | true =>
        rw [screenPlacement_disabled_on _ hst, hx]
        rfl
    | running =>
      cases hen : (entry sc).enabled with
      | false => exact (screenPlacement_running_off _ hst).symm
      | true =>
        rw [screenPlacement_running_on _ hst, hx]
        rfl
  case screens =>
    intro r r'
    have hr' : r' = r.placed u.now (entry sc) := hrecord sc
    refine ⟨fun hstays => ?_, fun hst hen => ?_, fun hrun hoff => ⟨fun hg => ?_, fun g hg => ⟨fun d hd => ?_, ?_⟩⟩⟩
    · exact hr'.trans (placed_unchanged u.now hstays)
    · exact hr'.trans (placed_timed u.now hst hen)
    · exact (hr'.trans (placed_stopped u.now hrun hoff)).trans (stopped_unstaged hg)
    · have hends : r.ends (entry sc) = true := by
        unfold ScreenRec.ends
        rw [hrun, hoff, hg]
        rfl
      rw [hspec.only]
      exact hlist.entry sc (mem_ids sc) (by rw [hget]; exact hends) g hg d hd
    · exact (hr'.trans (placed_stopped u.now hrun hoff)).trans (stopped_staged hg)
  case tlines => 
    rw [hspec.only]
    exact hlist.tlines
  case focus =>
    intro ends
    have hends : ((ids 6).filter fun sc => u.comp.screens[sc.1].ends (Vector.ofFn entry)[sc.1]) = (ids 6).filter ends :=
      List.filter_congr fun sc _ => by
        rw [hget]
        rfl
    have hinbox : u.focus.inbox = [] := hready.1.2
    have hfocus := hlist.focus
    dsimp only at hfocus
    rw [hends, hinbox, List.nil_append] at hfocus
    rw [hspec.only]
    exact hfocus
  case inside => exact hspec.inside sc (by rw [hget]; exact hsc)
  case centre =>
    have hcentre := hspec.centre (fun j hj => hnone j (by rw [hget] at hj; exact hj)) sc (by rw [hget]; exact hen)
      fun j hj => by rw [hget]; exact hlt j hj
    rw [hget] at hcentre
    exact hcentre
  case nowhere => exact hspec.nowhere fun sc => by rw [hget]; exact hoff sc
  case geo => exact hkept.geo.trans hspec.geo
  case outer => exact hkept.outer.trans (hspec.kept.outer.trans hlist.outer)
  case state =>
    have hstate : w.comp.screens[sc.1].state = placed.comp.screens[sc.1].state := congrArg (·.1) (htiming sc)
    rw [hstate, hrecord, placed_state]
  case timing =>
    have h := htiming sc
    rw [hrecord, placed_timed u.now hst hen] at h
    exact ⟨congrArg (·.2.1) h, congrArg (·.2.2.1) h, congrArg (·.2.2.2) h⟩
  case above =>
    exact (hkept.above a ha).trans ((hspec.kept.above a ha).trans ((hlist.above a ha).trans (take_read_above c _ (by omega))))

end Sys2Proof.Machine
end
